-- ==== Sys2Proof/Word.lean ====
section
/-! DEFINITION. The word types of the MQ7 (R6, R12, R15): bytes, half words, words, double words, and the
vector of 256 lanes. -/

namespace Sys2Proof

abbrev Byte := BitVec 8
abbrev W16 := BitVec 16
abbrev W32 := BitVec 32
abbrev W64 := BitVec 64

/-- A vector is 256 lanes of 32 bits (R15), lane 0 first. -/
abbrev Vec := List (BitVec 32)

/-- A vector mask k0..k15 (R14): bit i is lane i. -/
abbrev Mask := BitVec 256

end Sys2Proof
end

