-- ==== Sys2Proof/Machine/Bits.lean ====
section
/-! DEFINITION. Bit fields, extension and byte order (R6, R43, R44): the helpers that every layout of the spec is
read and written with. -/

namespace Sys2Proof.Machine

/-- Bits [lo+n-1 : lo] of a natural number. -/
def nfld (x lo n : Nat) : Nat := (x >>> lo) % 2 ^ n

/-- Bits [lo+n-1 : lo] of a word, as a number (R6). -/
def fld {w : Nat} (x : BitVec w) (lo n : Nat) : Nat := (x.extractLsb' lo n).toNat

/-- Bit `i` of a word. -/
def bit {w : Nat} (x : BitVec w) (i : Nat) : Bool := x.getLsbD i

/-- `sext(x, n)` of R44 on 64 bits. -/
def sextN (n : Nat) (x : W64) : W64 := (x.setWidth n).signExtend 64

/-- `zext(x, n)` of R44 on 64 bits. -/
def zextN (n : Nat) (x : W64) : W64 := (x.setWidth n).setWidth 64

/-- The integer that the low `n` bits of `x` stand for in two's complement. -/
def toSigned (n x : Nat) : Int :=
  let v := x % 2 ^ n
  if v < 2 ^ (n - 1) then (v : Int) else (v : Int) - (2 ^ n : Nat)

/-- The low `n` bits of an exact integer, as a number. -/
def ofInt (n : Nat) (x : Int) : Nat := (x % ((2 ^ n : Nat) : Int)).toNat

/-- The `n` bytes of `v`, lowest first (R6). -/
def bytesLE : Nat → Nat → List Byte
  | 0, _ => []
  | n + 1, v => BitVec.ofNat 8 v :: bytesLE n (v / 256)

/-- The number that bytes stand for, lowest first (R6). -/
def natLE : List Byte → Nat
  | [] => 0
  | b :: bs => b.toNat + 256 * natLE bs

/-- A record's layout, as (lowest bit, width, value) triples (R7): a value is cut to its field. -/
def pack (fs : List (Nat × Nat × Nat)) : Nat :=
  fs.foldl (fun acc f => acc + (f.2.2 % 2 ^ f.2.1) * 2 ^ f.1) 0

def b2n (b : Bool) : Nat := if b then 1 else 0

/-- ceil(a / b). -/
def cdiv (a b : Nat) : Nat := (a + b - 1) / b

end Sys2Proof.Machine
end

