-- ==== Sys2Proof/Types.lean ====
section
/-! DEFINITION. The operand types of Instr: slots and domains (R12), suffix sets (R61), and what a turn of a
management command or of the surroundings brings with it (a kernel image R265, monitor samples R357, packets
R337). -/

namespace Sys2Proof

/-- The eight slots of a bundle, in the order of R12. -/
inductive Slot where
  | s | v0 | v1 | m | c0 | c1 | x0 | x1
deriving DecidableEq, Repr, Inhabited

/-- The six domains, numbered 0 to 5 as R57 numbers them. -/
inductive Dom where
  | s | v0 | v1 | m | c0 | c1
deriving DecidableEq, Repr, Inhabited

inductive VUnit where
  | v0 | v1
deriving DecidableEq, Repr, Inhabited

inductive CUnit where
  | c0 | c1
deriving DecidableEq, Repr, Inhabited

inductive XUnit where
  | x0 | x1
deriving DecidableEq, Repr, Inhabited

/-- The suffix set I of R61. -/
inductive ISfx where
  | i32 | i16 | i8
deriving DecidableEq, Repr, Inhabited

/-- The suffix set F of R61. -/
inductive FSfx where
  | f32 | f16 | b16 | f64
deriving DecidableEq, Repr, Inhabited

/-- The suffix set Q of R61. -/
inductive QSfx where
  | i32 | f32 | b16 | f64
deriving DecidableEq, Repr, Inhabited

abbrev Guard := BitVec 3
abbrev Src := BitVec 11
abbrev DstNum := BitVec 10

def VUnit.dom : VUnit → Dom
  | .v0 => .v0
  | .v1 => .v1

def VUnit.num : VUnit → Nat
  | .v0 => 0
  | .v1 => 1

def Dom.vu? : Dom → Option VUnit
  | .v0 => some .v0
  | .v1 => some .v1
  | _ => none

def CUnit.dom : CUnit → Dom
  | .c0 => .c0
  | .c1 => .c1

def Dom.slot : Dom → Slot
  | .s => .s
  | .v0 => .v0
  | .v1 => .v1
  | .m => .m
  | .c0 => .c0
  | .c1 => .c1

def XUnit.slot : XUnit → Slot
  | .x0 => .x0
  | .x1 => .x1

/-- The domain of a domain slot; X0 and X1 have none. -/
def Slot.dom? : Slot → Option Dom
  | .s => some .s
  | .v0 => some .v0
  | .v1 => some .v1
  | .m => some .m
  | .c0 => some .c0
  | .c1 => some .c1
  | .x0 => none
  | .x1 => none

def Slot.num : Slot → Nat
  | .s => 0
  | .v0 => 1
  | .v1 => 2
  | .m => 3
  | .c0 => 4
  | .c1 => 5
  | .x0 => 6
  | .x1 => 7

def Dom.num : Dom → Nat
  | .s => 0
  | .v0 => 1
  | .v1 => 2
  | .m => 3
  | .c0 => 4
  | .c1 => 5

def CUnit.num : CUnit → Nat
  | .c0 => 0
  | .c1 => 1

/-! ### A kernel image (R40, R265) -/

/-- `.seg`: size in bytes and home logical cluster. -/
structure SegDecl where
  size : Nat
  home : Nat
deriving DecidableEq, Repr, Inhabited

/-- `.tensor`: format code, sizes outermost first, pitch, tier (true: LP), page indices that start away. -/
structure TensorDecl where
  fmt    : Nat
  dims   : List Nat
  pitch  : Nat
  lp     : Bool
  absent : List Nat
deriving DecidableEq, Repr, Inhabited

/-- `.data`, already converted (R41): `nbits` bits of `val` laid at bit `bitOff` of the target. -/
structure DataItem where
  tensor : Bool
  idx    : Nat
  bitOff : Nat
  nbits  : Nat
  val    : Nat
deriving DecidableEq, Repr, Inhabited

/-- `.ring`: ring number, store 0..3 as STORE of R205, base register or segment index, first line, depth,
head latch with threshold F, tail port with threshold E. -/
structure RingDecl where
  q     : Nat
  store : Nat
  base  : Nat
  line  : Nat
  depth : Nat
  head  : Option (Nat × Nat)
  tail  : Option (Nat × Nat)
deriving DecidableEq, Repr, Inhabited

/-- `.task` with its `.book`, `.ring` and `.perm` lines. -/
structure TaskDecl where
  entry  : Nat
  timed  : Bool
  window : Nat
  tcbSeg : Nat
  tcbOff : Nat
  dep    : Option (Nat × Nat)
  succ   : List Nat
  rpol   : Nat
  eacct  : Nat
  books  : List W64
  pins   : List Nat
  rings  : List RingDecl
  perms  : List (Nat × List Nat)
deriving DecidableEq, Repr, Inhabited

/-- A bundle whose payload the loader fills with an assigned name (R147). -/
structure NameFix where
  bundle : Nat
  tensor : Bool
  idx    : Nat
deriving DecidableEq, Repr, Inhabited

structure Image where
  gridD   : Nat
  gridC   : Nat
  gridK   : Nat
  stages  : Nat
  params  : Nat
  quota   : Option Nat
  regA    : Nat
  regB    : Nat
  regS    : Nat
  entry   : Nat
  bundles : List (Nat × BitVec 256)
  segs    : List SegDecl
  tensors : List TensorDecl
  data    : List DataItem
  tasks   : List TaskDecl
  rings   : List RingDecl
  perms   : List (Nat × List Nat)
  lists   : List (Nat × List W32)
  fixes   : List NameFix
deriving DecidableEq, Repr, Inhabited

/-! ### What the surroundings bring -/

/-- One sample of a cluster's monitors (R357). -/
structure ClusterMon where
  temp  : W16
  vcore : W16
  vsram : W16
  proc  : W16
deriving DecidableEq, Repr, Inhabited

/-- What a package frame boundary brings: samples by physical cluster, package power in W, energy drawn by
each physical core in the frame in nJ (R357, R359). -/
structure FrameIn where
  mons   : List (Nat × ClusterMon)
  ppwr   : Nat
  energy : List (Nat × Nat)
deriving DecidableEq, Repr, Inhabited

/-- A fabric packet (R337): the routing word, bytes 16 to 31 of the header flit, the addresses and offsets the
sending operation laid down (their layout is not stated), and the data bytes. -/
structure Packet where
  rw   : BitVec 128
  rh   : BitVec 128
  info : List Nat
  data : List Byte
deriving DecidableEq, Repr, Inhabited

/-- A packet's flits as a link carries them: the sequence number of the first and the one their tags acknowledge, whether the link CRC
of each holds at the far end, and the packet; which flit of it is the first carried, 0 its header; and how many stand before the flit
whose CRC fails, where one does (R336, R344). -/
structure FlitIn where
  seq   : Nat
  ack   : Nat
  crcOk : Bool
  pkt   : Packet
  first : Nat := 0
  good  : Nat := 0
deriving DecidableEq, Repr, Inhabited

/-- The fields of a tensor descriptor that a management write gives (R132). -/
structure TensorWrite where
  rank   : Nat
  fmt    : Nat
  blk    : Nat
  tpol   : Nat
  tenant : Nat
  order  : List Nat
  pitch  : Nat
  dims   : List Nat
  ttbase : Nat
  npage  : Nat
deriving DecidableEq, Repr, Inhabited

/-- What can be read of a suspended context on a core (R14, R109). `fixed`: the 160 lines of R103. -/
inductive CoreSpace where
  | sreg (idx : Nat)
  | vreg (b : Bool) (idx : Nat)
  | guards
  | maskReg (idx : Nat)
  | permReg (idx : Nat)
  | inputFile (d : Dom) (second : Bool)
  | ringDesc (idx : Nat)
  | spillWord (idx : Nat)
  | spillLine (idx : Nat)
  | dword (u : CUnit) (idx : Nat)
  | mreg (idx : Nat)
  | accRow (acc row : Nat)
  | half (idle : Bool)
  | micro (idx : Nat)
  | fixed
  | latch
  | shadow (n : Nat)
  | shadowDword (n : Nat)
  | gated (n : Nat)
  | markState
  | rtReg (d : Dom)
  | mkReg (v : VUnit)
  | dixReg (u : CUnit)
  | spxReg
  | fstReg
  | fmtReg
  | genReg (j : Nat)
  | ntReg (idx : Nat)
  | resReg (d : Dom) (second : Bool)    -- a result register
  | matState                            -- what the matrix engine holds beside its stores
  | mQueue (n : Nat)                    -- the n-th command of the M queue
  | routine
  | bufRow (row : Nat)                  -- a row of the row buffers
  | scaleRow (row : Nat)                -- 256 * slot + row of the scale store
  | pending                             -- FMTW, nxt, branches and gates that wait
  | journal (n : Nat)                   -- the n-th byte of the journal, with its address
  | journalSignal (n : Nat)
  | command (u : CUnit) (n : Nat)       -- all of the n-th command of a copy engine
  | subscription (u : CUnit) (n : Nat)
deriving DecidableEq, Repr, Inhabited

/-- The named spaces of MRD and MWR (R361). -/
inductive Space where
  | ctxBlock (cid : Nat)
  | breakpoints (cid : Nat)
  | core (cid core : Nat) (r : CoreSpace)
  | coreAt (cid core n : Nat) (r : CoreSpace)  -- of the n-th state of a context at a core: its saved tasks, then what lies there
  | segDesc (cid idx : Nat)
  | segTile (cid idx tile : Nat)
  | tileEntry (tid page : Nat)
  | tensorDesc (tid : Nat)
  | cell (cid clu n : Nat)
  | queueCards (clu tenant : Nat)
  | packageQueue (tenant queue : Nat)
  | dispenser (cid n : Nat)
  | calendar (clu tenant : Nat)
  | slipLog (tenant rec : Nat)
  | slipCount (tenant : Nat)
  | faultRing (cid : Nat)
  | permit (cid n : Nat)
  | linkBlock (link : Nat)
  | linkRoute (link : Nat)
  | orphan (n : Nat)
  | monitors (clu : Nat)
  | packageState
  | dualm (die : Nat)
  | frozenBits (lp : Bool)
  | peering (a b : Nat)
  | virtualised (tenant : Nat)
  | fabricTenant (tenant : Nat)
  | notice (n : Nat)                    -- notices for the fabric owner, oldest first (R140, R355)
  | guestEntry (tid page : Nat)         -- an entry of a guest's own tile table (R140)
  | unitStates                          -- clusters 0 to 63, then HBM stacks 0 to 7, a byte each (R355)
  | circuit (cid entry : Nat)           -- the physical pairs of an entry of the circuit slot table (R27, R276)
  | loadReport                          -- the first check of R272 that the last refused image failed
  | timeRoot                            -- the package that the fabric owner names as the time root (R339)
deriving DecidableEq, Repr, Inhabited

/-- A partition as management creates it (R97, R259, R274, R280, R317). -/
structure PartitionSpec where
  tenant  : Nat
  cores   : List Nat
  shares  : List (Nat × Nat)          -- physical cluster, granules of its store
  qshare  : Nat                       -- slots of each level
  jshare  : Nat                       -- journal bytes a core
  links   : List (Nat × Nat × Bool)   -- physical cluster, link, receive direction
  pipes   : List (Nat × Nat)          -- physical cluster, pipe of its die
  linkMap : List (Nat × Nat) := []    -- logical link to physical link; unlisted: the same number (R276)
  circ    : List (Nat × List (Nat × Nat)) := []  -- circuit slot table: entry to ordered pairs of linear logical indices (R27)
deriving DecidableEq, Repr, Inhabited

end Sys2Proof
end

