-- ==== Sys2Proof/Syntax.lean ====
section
/-! DEFINITION. Instr, one constructor for each row of spec/opcode_table.json: the moves, the micro-ops, then the other rows. A move of 24
bits (R51) carries its guard and its source; the destination number is what the constructor stands for. A micro-op
of R225 carries its fields with COND and CL (R223). The other rows are whole steps of the engines, of management and
of the surroundings, and carry what the step is given. -/

namespace Sys2Proof

inductive Instr where
  | nop
  | move (sl : Dom) (g : Guard) (dst : DstNum) (src : Src)
  | transfer (x : XUnit) (g : Guard) (dst : DstNum) (src : Src)
  | o0Append (d : Dom) (g : Guard) (src : Src)
  | o1Append (d : Dom) (g : Guard) (src : Src)
  | rtWrite (d : Dom) (g : Guard) (src : Src)
  | mkWrite (v : VUnit) (g : Guard) (src : Src)
  | dixWrite (u : CUnit) (g : Guard) (src : Src)
  | dwr (u : CUnit) (g : Guard) (src : Src)
  | spx (x : XUnit) (g : Guard) (src : Src)
  | spd (x : XUnit) (g : Guard) (src : Src)
  | add (g : Guard) (src : Src)
  | sub (g : Guard) (src : Src)
  | mul (g : Guard) (src : Src)
  | mulh (g : Guard) (src : Src)
  | mulhu (g : Guard) (src : Src)
  | div (g : Guard) (src : Src)
  | divu (g : Guard) (src : Src)
  | rem (g : Guard) (src : Src)
  | remu (g : Guard) (src : Src)
  | and (g : Guard) (src : Src)
  | or (g : Guard) (src : Src)
  | xor (g : Guard) (src : Src)
  | andn (g : Guard) (src : Src)
  | orn (g : Guard) (src : Src)
  | shl (g : Guard) (src : Src)
  | shr (g : Guard) (src : Src)
  | sra (g : Guard) (src : Src)
  | rol (g : Guard) (src : Src)
  | clz (g : Guard) (src : Src)
  | ctz (g : Guard) (src : Src)
  | popc (g : Guard) (src : Src)
  | min (g : Guard) (src : Src)
  | max (g : Guard) (src : Src)
  | minu (g : Guard) (src : Src)
  | maxu (g : Guard) (src : Src)
  | sext8 (g : Guard) (src : Src)
  | sext16 (g : Guard) (src : Src)
  | sext32 (g : Guard) (src : Src)
  | zext8 (g : Guard) (src : Src)
  | zext16 (g : Guard) (src : Src)
  | zext32 (g : Guard) (src : Src)
  | bfx (g : Guard) (src : Src)
  | bfi (g : Guard) (src : Src)
  | sel (g : Guard) (src : Src)
  | pass (g : Guard) (src : Src)
  | ceq (g : Guard) (src : Src)
  | cne (g : Guard) (src : Src)
  | clt (g : Guard) (src : Src)
  | cltu (g : Guard) (src : Src)
  | cle (g : Guard) (src : Src)
  | cleu (g : Guard) (src : Src)
  | ld8 (g : Guard) (src : Src)
  | ld16 (g : Guard) (src : Src)
  | ld32 (g : Guard) (src : Src)
  | ld64 (g : Guard) (src : Src)
  | ld8s (g : Guard) (src : Src)
  | ld16s (g : Guard) (src : Src)
  | ld32s (g : Guard) (src : Src)
  | st8 (g : Guard) (src : Src)
  | st16 (g : Guard) (src : Src)
  | st32 (g : Guard) (src : Src)
  | st64 (g : Guard) (src : Src)
  | aadd (g : Guard) (src : Src)
  | aand (g : Guard) (src : Src)
  | aor (g : Guard) (src : Src)
  | axor (g : Guard) (src : Src)
  | amin (g : Guard) (src : Src)
  | amax (g : Guard) (src : Src)
  | aminu (g : Guard) (src : Src)
  | amaxu (g : Guard) (src : Src)
  | axchg (g : Guard) (src : Src)
  | acas (g : Guard) (src : Src)
  | br (g : Guard) (src : Src)
  | bra (g : Guard) (src : Src)
  | call (g : Guard) (src : Src)
  | ret (g : Guard) (src : Src)
  | trap (g : Guard) (src : Src)
  | sysResume (g : Guard) (src : Src)
  | sysAbort (g : Guard) (src : Src)
  | halt (g : Guard) (src : Src)
  | nset (g : Guard) (src : Src)
  | nstep (g : Guard) (src : Src)
  | nbrk (g : Guard) (src : Src)
  | sld (g : Guard) (src : Src)
  | sst (g : Guard) (src : Src)
  | srd (g : Guard) (src : Src)
  | swr (g : Guard) (src : Src)
  | tick (g : Guard) (src : Src)
  | enrd (g : Guard) (src : Src)
  | nxt (g : Guard) (src : Src)
  | post (g : Guard) (src : Src)
  | salloc (g : Guard) (src : Src)
  | sfree (g : Guard) (src : Src)
  | sstat (g : Guard) (src : Src)
  | vadd (v : VUnit) (f : ISfx) (g : Guard) (src : Src)
  | vsub (v : VUnit) (f : ISfx) (g : Guard) (src : Src)
  | vmul (v : VUnit) (f : ISfx) (g : Guard) (src : Src)
  | vmulh (v : VUnit) (f : ISfx) (g : Guard) (src : Src)
  | vmulhu (v : VUnit) (f : ISfx) (g : Guard) (src : Src)
  | vmad (v : VUnit) (f : ISfx) (g : Guard) (src : Src)
  | vmin (v : VUnit) (f : ISfx) (g : Guard) (src : Src)
  | vmax (v : VUnit) (f : ISfx) (g : Guard) (src : Src)
  | vminu (v : VUnit) (f : ISfx) (g : Guard) (src : Src)
  | vmaxu (v : VUnit) (f : ISfx) (g : Guard) (src : Src)
  | vand (v : VUnit) (f : ISfx) (g : Guard) (src : Src)
  | vor (v : VUnit) (f : ISfx) (g : Guard) (src : Src)
  | vxor (v : VUnit) (f : ISfx) (g : Guard) (src : Src)
  | vandn (v : VUnit) (f : ISfx) (g : Guard) (src : Src)
  | vshl (v : VUnit) (f : ISfx) (g : Guard) (src : Src)
  | vshr (v : VUnit) (f : ISfx) (g : Guard) (src : Src)
  | vsra (v : VUnit) (f : ISfx) (g : Guard) (src : Src)
  | vabs (v : VUnit) (f : ISfx) (g : Guard) (src : Src)
  | vneg (v : VUnit) (f : ISfx) (g : Guard) (src : Src)
  | vclz (v : VUnit) (f : ISfx) (g : Guard) (src : Src)
  | vpopc (v : VUnit) (f : ISfx) (g : Guard) (src : Src)
  | fadd (v : VUnit) (f : FSfx) (g : Guard) (src : Src)
  | fsub (v : VUnit) (f : FSfx) (g : Guard) (src : Src)
  | fmul (v : VUnit) (f : FSfx) (g : Guard) (src : Src)
  | ffma (v : VUnit) (f : FSfx) (g : Guard) (src : Src)
  | fnma (v : VUnit) (f : FSfx) (g : Guard) (src : Src)
  | fmin (v : VUnit) (f : FSfx) (g : Guard) (src : Src)
  | fmax (v : VUnit) (f : FSfx) (g : Guard) (src : Src)
  | fabs (v : VUnit) (f : FSfx) (g : Guard) (src : Src)
  | fneg (v : VUnit) (f : FSfx) (g : Guard) (src : Src)
  | frcp (v : VUnit) (f : FSfx) (g : Guard) (src : Src)
  | frsq (v : VUnit) (f : FSfx) (g : Guard) (src : Src)
  | fex2 (v : VUnit) (f : FSfx) (g : Guard) (src : Src)
  | flg2 (v : VUnit) (f : FSfx) (g : Guard) (src : Src)
  | vceq (v : VUnit) (f : ISfx) (g : Guard) (src : Src)
  | vcne (v : VUnit) (f : ISfx) (g : Guard) (src : Src)
  | vclt (v : VUnit) (f : ISfx) (g : Guard) (src : Src)
  | vcle (v : VUnit) (f : ISfx) (g : Guard) (src : Src)
  | fceq (v : VUnit) (f : FSfx) (g : Guard) (src : Src)
  | fclt (v : VUnit) (f : FSfx) (g : Guard) (src : Src)
  | fcle (v : VUnit) (f : FSfx) (g : Guard) (src : Src)
  | funord (v : VUnit) (f : FSfx) (g : Guard) (src : Src)
  | rsum (v : VUnit) (f : QSfx) (g : Guard) (src : Src)
  | rmax (v : VUnit) (f : QSfx) (g : Guard) (src : Src)
  | rmin (v : VUnit) (f : QSfx) (g : Guard) (src : Src)
  | scan (v : VUnit) (f : QSfx) (g : Guard) (src : Src)
  | vsel (v : VUnit) (g : Guard) (src : Src)
  | vmerge (v : VUnit) (g : Guard) (src : Src)
  | cvt (v : VUnit) (g : Guard) (src : Src)
  | qnt (v : VUnit) (g : Guard) (src : Src)
  | dqt (v : VUnit) (g : Guard) (src : Src)
  | vAmax (v : VUnit) (g : Guard) (src : Src)
  | pack (v : VUnit) (g : Guard) (src : Src)
  | unpack (v : VUnit) (g : Guard) (src : Src)
  | vrot (v : VUnit) (g : Guard) (src : Src)
  | vbcast (v : VUnit) (g : Guard) (src : Src)
  | vext (v : VUnit) (g : Guard) (src : Src)
  | vins (v : VUnit) (g : Guard) (src : Src)
  | vld (v : VUnit) (g : Guard) (src : Src)
  | vst (v : VUnit) (g : Guard) (src : Src)
  | vlds (v : VUnit) (g : Guard) (src : Src)
  | vsts (v : VUnit) (g : Guard) (src : Src)
  | vgth (v : VUnit) (g : Guard) (src : Src)
  | vsct (v : VUnit) (g : Guard) (src : Src)
  | vsld (v : VUnit) (g : Guard) (src : Src)
  | vsst (v : VUnit) (g : Guard) (src : Src)
  | pload (v : VUnit) (g : Guard) (src : Src)
  | pstore (v : VUnit) (g : Guard) (src : Src)
  | pcomp (v : VUnit) (g : Guard) (src : Src)
  | pinv (v : VUnit) (g : Guard) (src : Src)
  | prand (v : VUnit) (g : Guard) (src : Src)
  | pid (v : VUnit) (g : Guard) (src : Src)
  | ppow (v : VUnit) (g : Guard) (src : Src)
  | papply (v : VUnit) (g : Guard) (src : Src)
  | pcyc (v : VUnit) (g : Guard) (src : Src)
  | pfix (v : VUnit) (g : Guard) (src : Src)
  | porder (v : VUnit) (g : Guard) (src : Src)
  | mand (v : VUnit) (g : Guard) (src : Src)
  | mor (v : VUnit) (g : Guard) (src : Src)
  | mxor (v : VUnit) (g : Guard) (src : Src)
  | mnot (v : VUnit) (g : Guard) (src : Src)
  | mcnt (v : VUnit) (g : Guard) (src : Src)
  | mfirst (v : VUnit) (g : Guard) (src : Src)
  | radv (v : VUnit) (g : Guard) (src : Src)
  | rpush (v : VUnit) (g : Guard) (src : Src)
  | rbind (v : VUnit) (g : Guard) (src : Src)
  | rlvl (v : VUnit) (g : Guard) (src : Src)
  | mCall (g : Guard) (src : Src)
  | mload (g : Guard) (src : Src)
  | bload (g : Guard) (src : Src)
  | bswap (g : Guard) (src : Src)
  | accz (g : Guard) (src : Src)
  | accrel (g : Guard) (src : Src)
  | mstat (g : Guard) (src : Src)
  | cpy (u : CUnit) (g : Guard) (src : Src)
  | cpyp (u : CUnit) (g : Guard) (src : Src)
  | gth (u : CUnit) (g : Guard) (src : Src)
  | grd (u : CUnit) (g : Guard) (src : Src)
  | sct (u : CUnit) (g : Guard) (src : Src)
  | mcast (u : CUnit) (g : Guard) (src : Src)
  | tatom (u : CUnit) (g : Guard) (src : Src)
  | topk (u : CUnit) (g : Guard) (src : Src)
  | cSub (u : CUnit) (g : Guard) (src : Src)
  | unsub (u : CUnit) (g : Guard) (src : Src)
  | stouch (u : CUnit) (g : Guard) (src : Src)
  | spush (u : CUnit) (g : Guard) (src : Src)
  | bclose (u : CUnit) (g : Guard) (src : Src)
  | waitb (u : CUnit) (g : Guard) (src : Src)
  | tstat (u : CUnit) (g : Guard) (src : Src)
  | rtcfg (u : CUnit) (g : Guard) (src : Src)
  | rtgo (u : CUnit) (g : Guard) (src : Src)
  | rtstat (u : CUnit) (g : Guard) (src : Src)
  | rtinv (u : CUnit) (g : Guard) (src : Src)
  | rtfree (u : CUnit) (g : Guard) (src : Src)
  | lsend (u : CUnit) (g : Guard) (src : Src)
  | lrecv (u : CUnit) (g : Guard) (src : Src)
  | lred (u : CUnit) (g : Guard) (src : Src)
  | coll (u : CUnit) (g : Guard) (src : Src)
  | pmget (u : CUnit) (g : Guard) (src : Src)
  | pmret (u : CUnit) (g : Guard) (src : Src)
  | arrive (u : CUnit) (g : Guard) (src : Src)
  | expect (u : CUnit) (g : Guard) (src : Src)
  | bwait (u : CUnit) (g : Guard) (src : Src)
  | depset (u : CUnit) (g : Guard) (src : Src)
  | depdec (u : CUnit) (g : Guard) (src : Src)
  | drainC (u : CUnit) (g : Guard) (src : Src)
  | drainD (u : CUnit) (g : Guard) (src : Src)
  | drainP (u : CUnit) (g : Guard) (src : Src)
  | drainF (u : CUnit) (g : Guard) (src : Src)
  | fence (u : CUnit) (g : Guard) (src : Src)
  | bkseg (u : CUnit) (g : Guard) (src : Src)
  | bkwin (u : CUnit) (g : Guard) (src : Src)
  | bklink (u : CUnit) (g : Guard) (src : Src)
  | tsub (u : CUnit) (g : Guard) (src : Src)
  | calq (u : CUnit) (g : Guard) (src : Src)
  | microNop (cond cl : Nat)
  | aget (f1 f2 imm : Nat) (cond cl : Nat)
  | waitt (imm : Nat) (cond cl : Nat)
  | stream (f1 f2 imm : Nat) (cond cl : Nat)
  | accw (f1 f2 imm : Nat) (cond cl : Nat)
  | accadd (f1 f2 imm : Nat) (cond cl : Nat)
  | escale (f1 f2 : Nat) (cond cl : Nat)
  | ebias (f1 f2 : Nat) (cond cl : Nat)
  | eact (imm : Nat) (cond cl : Nat)
  | eqnt (f1 imm : Nat) (cond cl : Nat)
  | estore (f1 f2 imm : Nat) (cond cl : Nat)
  | sig (imm : Nat) (cond cl : Nat)
  | bflip (cond cl : Nat)
  | mloop (f1 imm : Nat) (cond cl : Nat)
  | mjmp (imm : Nat) (cond cl : Nat)
  | mparm (f1 f2 imm : Nat) (cond cl : Nat)
  | mend (cond cl : Nat)
  | bundleIssue
  | saveComplete
  | mloadComplete
  | bloadComplete
  | bswapExecute
  | acczExecute
  | accrelExecute
  | callDispatch
  | agetFillDone (slot : Nat)
  | routineRestart
  | rampDownStep
  | commandStart (u : CUnit)
  | copyElement (u : CUnit) (id : Nat)
  | commandComplete (u : CUnit) (id : Nat)
  | engineResume (u : CUnit) (id : Nat)
  | subPush (u : CUnit) (sid : Nat)
  | subReturn (u : CUnit) (sid : Nat)
  | signalApply (cid clu n : Nat) (which : List Nat)
  | depidRead (cid task : Nat)
  | packageForward (tenant : Nat)
  | dispatch (clu tenant : Nat)
  | dispenserServe (cid disp : Nat)
  | taskRetire (cid task : Nat)
  | quantumBoundary
  | frameBoundary (fin : FrameIn)
  | permitExpire (cid pmt : Nat)
  | timedClearStart (cid task : Nat)
  | timedTaskStart (cid task : Nat)
  | windowEnd
  | pushComplete (cid seg : Nat)
  | segmentMoveComplete (cid seg : Nat)
  | recallComplete (cid seg : Nat) (bad : Option Nat)
  | hazelWaitRetry (cid : Nat)
  | softError (cid seg granule : Nat)
  | evictionComplete (tid page : Nat)
  | fetchComplete (tid page : Nat) (ok : Bool)
  | poolRetry (tid page : Nat)
  | tsplitDone (tid lpage : Nat)
  | ganderElement (die slot : Nat)
  | rowPacketReceive (die : Nat)
  | pullReceive (die : Nat)
  | retPacketReceive (die : Nat)
  | freeReceive (die : Nat)
  | freeAckReceive (die : Nat)
  | permitRequestReceive (p : Packet)
  | permitAnswerReceive (cid pmt : Nat) (granted : Bool)
  | flitReceive (link : Nat) (f : FlitIn)
  | replayRequest (link seq : Nat)
  | timeBeacon (link frame phase : Nat)
  | linkTrainingDone (link : Nat) (ok : Bool) (ld peer : Nat)
  | schedSend (u : CUnit) (id : Nat)
  | schedDeadline (u : CUnit) (id : Nat)
  | schedUnclaimed (link idx : Nat)
  | collStep (u : CUnit) (id : Nat) (p : Packet)
  | contextCreate (cid tenant : Nat)
  | contextDestroy (cid : Nat)
  | contextDestroyed (cid : Nat)
  | preempt (cid : Nat)
  | hostResume (cid : Nat) (task : Option Nat)
  | hostAbort (cid : Nat) (task : Option Nat)
  | kload (cid : Nat) (img : Image)
  | klaunch (cid : Nat) (params : List W64)
  | kunload (cid : Nat)
  | qpush (tenant queue : Nat) (card : BitVec 512)
  | dspcfg (cid disp count width : Nat)
  | ttw (tid page : Nat) (entry : W64) (guest : Option Nat)   -- the tenant of the guest that issues it
  | tsplit (tid lpage : Nat)
  | dswap (lp : Bool)
  | mgmtPload (tid page frame : Nat)
  | poolcfg (size : Nat) (floors : List (Nat × Nat))
  | lenable (link : Nat)
  | ldisable (link : Nat)
  | lclr (link : Nat)
  | collcfg (tenant grp : Nat) (members : List (Nat × Nat))
  | pmcfg (cid pool : Nat)
  | preset (part : Nat)
  | pwrcap (cap floor : Nat)
  | attest (nonce : BitVec 256)
  | fwload (image : List Byte) (owner : Bool)
  | mrd (net : Nat) (sp : Space) (off len : Nat)
  | mwr (net : Nat) (sp : Space) (off : Nat) (data : List Byte)
  | frheadWrite (cid : Nat) (frhead frseg frdepth : Option Nat)
  | powerGood
  | clusterStart (clu : Nat)
  | selftestDone (clu : Nat) (ok : Bool)
  | hbmTrainingDone (stack : Nat) (ok : Bool)
  | powerLost
  | partitionCreate (p : PartitionSpec)
  | tensorDescriptorWrite (tid : Nat) (d : TensorWrite) (guest : Option Nat)
  | permitReturnReceive (p : Packet)
  | remoteBwaitAnswer (u : CUnit) (id : Nat)
  | descriptorCacheFill (seg : Nat)
  | overlayRegionReload (region : Nat)
deriving DecidableEq, Repr, Inhabited

end Sys2Proof
end

