-- ==== Sys2Proof/Decode.lean ====
section
/-! DEFINITION. The decoder (R46, R47, R51, R55, R57, R61 to R65): total on any bits, refusing by name what is not an
instruction (R68); after it the encoder, written from the same tables, and the micro-words of R223 and R225. -/

namespace Sys2Proof

open Sys2Proof.Machine

/-- Why a move's bits are no instruction (R68); each of these raises ILLEGAL_MOVE. -/
inductive Reject where
  | otherFile          -- a domain slot names another file, or M, C0, C1 names 0 to 703 (R53)
  | unassignedDst      -- an unassigned destination number in 704 to 1023 (R55, R57)
  | unassignedTrigger  -- an opcode that no map assigns (R61)
deriving DecidableEq, Repr

def ISfx.ofNum : Nat → Option ISfx
  | 0 => some .i32
  | 1 => some .i16
  | 2 => some .i8
  | _ => none

def ISfx.num : ISfx → Nat
  | .i32 => 0
  | .i16 => 1
  | .i8 => 2

def FSfx.ofNum : Nat → Option FSfx
  | 0 => some .f32
  | 1 => some .f16
  | 2 => some .b16
  | 3 => some .f64
  | _ => none

def FSfx.num : FSfx → Nat
  | .f32 => 0
  | .f16 => 1
  | .b16 => 2
  | .f64 => 3

def QSfx.ofNum : Nat → Option QSfx
  | 0 => some .i32
  | 1 => some .f32
  | 2 => some .b16
  | 3 => some .f64
  | _ => none

def QSfx.num : QSfx → Nat
  | .i32 => 0
  | .f32 => 1
  | .b16 => 2
  | .f64 => 3

/-- `sys` with a short immediate whose low byte is 2 is the abort request; the FUNC of any other source is known
only when the move runs (R159). -/
def sysIsAbort (src : Src) : Bool := bit src 10 && fld src 0 8 == 2

/-- The S map (R62). -/
def decodeS (op : Nat) (g : Guard) (src : Src) : Option Instr :=
  match op with
  | 0 => some (.add g src)
  | 1 => some (.sub g src)
  | 2 => some (.mul g src)
  | 3 => some (.mulh g src)
  | 4 => some (.mulhu g src)
  | 5 => some (.div g src)
  | 6 => some (.divu g src)
  | 7 => some (.rem g src)
  | 8 => some (.remu g src)
  | 9 => some (.and g src)
  | 10 => some (.or g src)
  | 11 => some (.xor g src)
  | 12 => some (.andn g src)
  | 13 => some (.orn g src)
  | 14 => some (.shl g src)
  | 15 => some (.shr g src)
  | 16 => some (.sra g src)
  | 17 => some (.rol g src)
  | 18 => some (.clz g src)
  | 19 => some (.ctz g src)
  | 20 => some (.popc g src)
  | 21 => some (.min g src)
  | 22 => some (.max g src)
  | 23 => some (.minu g src)
  | 24 => some (.maxu g src)
  | 25 => some (.sext8 g src)
  | 26 => some (.sext16 g src)
  | 27 => some (.sext32 g src)
  | 28 => some (.zext8 g src)
  | 29 => some (.zext16 g src)
  | 30 => some (.zext32 g src)
  | 31 => some (.bfx g src)
  | 32 => some (.bfi g src)
  | 33 => some (.sel g src)
  | 34 => some (.pass g src)
  | 35 => some (.ceq g src)
  | 36 => some (.cne g src)
  | 37 => some (.clt g src)
  | 38 => some (.cltu g src)
  | 39 => some (.cle g src)
  | 40 => some (.cleu g src)
  | 41 => some (.ld8 g src)
  | 42 => some (.ld16 g src)
  | 43 => some (.ld32 g src)
  | 44 => some (.ld64 g src)
  | 45 => some (.ld8s g src)
  | 46 => some (.ld16s g src)
  | 47 => some (.ld32s g src)
  | 48 => some (.st8 g src)
  | 49 => some (.st16 g src)
  | 50 => some (.st32 g src)
  | 51 => some (.st64 g src)
  | 52 => some (.aadd g src)
  | 53 => some (.aand g src)
  | 54 => some (.aor g src)
  | 55 => some (.axor g src)
  | 56 => some (.amin g src)
  | 57 => some (.amax g src)
  | 58 => some (.aminu g src)
  | 59 => some (.amaxu g src)
  | 60 => some (.axchg g src)
  | 61 => some (.acas g src)
  | 62 => some (.br g src)
  | 63 => some (.bra g src)
  | 64 => some (.call g src)
  | 65 => some (.ret g src)
  | 66 => some (.trap g src)
  | 67 => some (if sysIsAbort src then .sysAbort g src else .sysResume g src)
  | 68 => some (.halt g src)
  | 69 => some (.nset g src)
  | 70 => some (.nstep g src)
  | 71 => some (.nbrk g src)
  | 72 => some (.sld g src)
  | 73 => some (.sst g src)
  | 74 => some (.srd g src)
  | 75 => some (.swr g src)
  | 76 => some (.tick g src)
  | 77 => some (.enrd g src)
  | 78 => some (.nxt g src)
  | 79 => some (.post g src)
  | 80 => some (.salloc g src)
  | 81 => some (.sfree g src)
  | 82 => some (.sstat g src)
  | _ => none

/-- The suffixed blocks of the V map (R63): block number and suffix offset. -/
def decodeVBlock (v : VUnit) (blk sfx : Nat) (g : Guard) (src : Src) : Option Instr :=
  match blk with
  | 0 => (ISfx.ofNum sfx).map (fun f => .vadd v f g src)
  | 1 => (ISfx.ofNum sfx).map (fun f => .vsub v f g src)
  | 2 => (ISfx.ofNum sfx).map (fun f => .vmul v f g src)
  | 3 => (ISfx.ofNum sfx).map (fun f => .vmulh v f g src)
  | 4 => (ISfx.ofNum sfx).map (fun f => .vmulhu v f g src)
  | 5 => (ISfx.ofNum sfx).map (fun f => .vmad v f g src)
  | 6 => (ISfx.ofNum sfx).map (fun f => .vmin v f g src)
  | 7 => (ISfx.ofNum sfx).map (fun f => .vmax v f g src)
  | 8 => (ISfx.ofNum sfx).map (fun f => .vminu v f g src)
  | 9 => (ISfx.ofNum sfx).map (fun f => .vmaxu v f g src)
  | 10 => (ISfx.ofNum sfx).map (fun f => .vand v f g src)
  | 11 => (ISfx.ofNum sfx).map (fun f => .vor v f g src)
  | 12 => (ISfx.ofNum sfx).map (fun f => .vxor v f g src)
  | 13 => (ISfx.ofNum sfx).map (fun f => .vandn v f g src)
  | 14 => (ISfx.ofNum sfx).map (fun f => .vshl v f g src)
  | 15 => (ISfx.ofNum sfx).map (fun f => .vshr v f g src)
  | 16 => (ISfx.ofNum sfx).map (fun f => .vsra v f g src)
  | 17 => (ISfx.ofNum sfx).map (fun f => .vabs v f g src)
  | 18 => (ISfx.ofNum sfx).map (fun f => .vneg v f g src)
  | 19 => (ISfx.ofNum sfx).map (fun f => .vclz v f g src)
  | 20 => (ISfx.ofNum sfx).map (fun f => .vpopc v f g src)
  | 21 => (FSfx.ofNum sfx).map (fun f => .fadd v f g src)
  | 22 => (FSfx.ofNum sfx).map (fun f => .fsub v f g src)
  | 23 => (FSfx.ofNum sfx).map (fun f => .fmul v f g src)
  | 24 => (FSfx.ofNum sfx).map (fun f => .ffma v f g src)
  | 25 => (FSfx.ofNum sfx).map (fun f => .fnma v f g src)
  | 26 => (FSfx.ofNum sfx).map (fun f => .fmin v f g src)
  | 27 => (FSfx.ofNum sfx).map (fun f => .fmax v f g src)
  | 28 => (FSfx.ofNum sfx).map (fun f => .fabs v f g src)
  | 29 => (FSfx.ofNum sfx).map (fun f => .fneg v f g src)
  | 30 => (FSfx.ofNum sfx).map (fun f => .frcp v f g src)
  | 31 => (FSfx.ofNum sfx).map (fun f => .frsq v f g src)
  | 32 => (FSfx.ofNum sfx).map (fun f => .fex2 v f g src)
  | 33 => (FSfx.ofNum sfx).map (fun f => .flg2 v f g src)
  | 34 => (ISfx.ofNum sfx).map (fun f => .vceq v f g src)
  | 35 => (ISfx.ofNum sfx).map (fun f => .vcne v f g src)
  | 36 => (ISfx.ofNum sfx).map (fun f => .vclt v f g src)
  | 37 => (ISfx.ofNum sfx).map (fun f => .vcle v f g src)
  | 38 => (FSfx.ofNum sfx).map (fun f => .fceq v f g src)
  | 39 => (FSfx.ofNum sfx).map (fun f => .fclt v f g src)
  | 40 => (FSfx.ofNum sfx).map (fun f => .fcle v f g src)
  | 41 => (FSfx.ofNum sfx).map (fun f => .funord v f g src)
  | 42 => (QSfx.ofNum sfx).map (fun f => .rsum v f g src)
  | 43 => (QSfx.ofNum sfx).map (fun f => .rmax v f g src)
  | 44 => (QSfx.ofNum sfx).map (fun f => .rmin v f g src)
  | 45 => (QSfx.ofNum sfx).map (fun f => .scan v f g src)
  | _ => none

/-- The opcodes 184 and above of the V map (R63). -/
def decodeVPlain (v : VUnit) (op : Nat) (g : Guard) (src : Src) : Option Instr :=
  match op with
  | 184 => some (.vsel v g src)
  | 185 => some (.vmerge v g src)
  | 186 => some (.cvt v g src)
  | 187 => some (.qnt v g src)
  | 188 => some (.dqt v g src)
  | 189 => some (.vAmax v g src)
  | 190 => some (.pack v g src)
  | 191 => some (.unpack v g src)
  | 192 => some (.vrot v g src)
  | 193 => some (.vbcast v g src)
  | 194 => some (.vext v g src)
  | 195 => some (.vins v g src)
  | 196 => some (.vld v g src)
  | 197 => some (.vst v g src)
  | 198 => some (.vlds v g src)
  | 199 => some (.vsts v g src)
  | 200 => some (.vgth v g src)
  | 201 => some (.vsct v g src)
  | 202 => some (.vsld v g src)
  | 203 => some (.vsst v g src)
  | 204 => some (.pload v g src)
  | 205 => some (.pstore v g src)
  | 206 => some (.pcomp v g src)
  | 207 => some (.pinv v g src)
  | 208 => some (.prand v g src)
  | 209 => some (.pid v g src)
  | 210 => some (.ppow v g src)
  | 211 => some (.papply v g src)
  | 212 => some (.pcyc v g src)
  | 213 => some (.pfix v g src)
  | 214 => some (.porder v g src)
  | 215 => some (.mand v g src)
  | 216 => some (.mor v g src)
  | 217 => some (.mxor v g src)
  | 218 => some (.mnot v g src)
  | 219 => some (.mcnt v g src)
  | 220 => some (.mfirst v g src)
  | 221 => some (.radv v g src)
  | 222 => some (.rpush v g src)
  | 223 => some (.rbind v g src)
  | 224 => some (.rlvl v g src)
  | _ => none

def decodeV (v : VUnit) (op : Nat) (g : Guard) (src : Src) : Option Instr :=
  if op < 184 then decodeVBlock v (op / 4) (op % 4) g src else decodeVPlain v op g src

/-- The M map (R64). -/
def decodeM (op : Nat) (g : Guard) (src : Src) : Option Instr :=
  match op with
  | 0 => some (.mCall g src)
  | 1 => some (.mload g src)
  | 2 => some (.bload g src)
  | 3 => some (.bswap g src)
  | 4 => some (.accz g src)
  | 5 => some (.accrel g src)
  | 6 => some (.mstat g src)
  | _ => none

/-- The C map (R65). -/
def decodeC (u : CUnit) (op : Nat) (g : Guard) (src : Src) : Option Instr :=
  match op with
  | 0 => some (.cpy u g src)
  | 1 => some (.cpyp u g src)
  | 2 => some (.gth u g src)
  | 3 => some (.grd u g src)
  | 4 => some (.sct u g src)
  | 5 => some (.mcast u g src)
  | 6 => some (.tatom u g src)
  | 7 => some (.topk u g src)
  | 8 => some (.cSub u g src)
  | 9 => some (.unsub u g src)
  | 10 => some (.stouch u g src)
  | 11 => some (.spush u g src)
  | 12 => some (.bclose u g src)
  | 13 => some (.waitb u g src)
  | 14 => some (.tstat u g src)
  | 15 => some (.rtcfg u g src)
  | 16 => some (.rtgo u g src)
  | 17 => some (.rtstat u g src)
  | 18 => some (.rtinv u g src)
  | 19 => some (.rtfree u g src)
  | 20 => some (.lsend u g src)
  | 21 => some (.lrecv u g src)
  | 22 => some (.lred u g src)
  | 23 => some (.coll u g src)
  | 24 => some (.pmget u g src)
  | 25 => some (.pmret u g src)
  | 26 => some (.arrive u g src)
  | 27 => some (.expect u g src)
  | 28 => some (.bwait u g src)
  | 29 => some (.depset u g src)
  | 30 => some (.depdec u g src)
  | 31 => some (.drainC u g src)
  | 32 => some (.drainD u g src)
  | 33 => some (.drainP u g src)
  | 34 => some (.drainF u g src)
  | 35 => some (.fence u g src)
  | 36 => some (.bkseg u g src)
  | 37 => some (.bkwin u g src)
  | 38 => some (.bklink u g src)
  | 39 => some (.tsub u g src)
  | 40 => some (.calq u g src)
  | _ => none

/-- The trigger ports of a domain slot (R61). -/
def decodeTrigger (d : Dom) (op : Nat) (g : Guard) (src : Src) : Option Instr :=
  match d with
  | .s => decodeS op g src
  | .v0 => decodeV .v0 op g src
  | .v1 => decodeV .v1 op g src
  | .m => decodeM op g src
  | .c0 => decodeC .c0 op g src
  | .c1 => decodeC .c1 op g src

/-- Whether a number of 0 to 703 names a register of the domain's own file (R53). -/
def ownFile (d : Dom) (n : Nat) : Bool :=
  match d with
  | .s => 640 ≤ n && n < 704
  | .v0 => n < 320
  | .v1 => 320 ≤ n && n < 640
  | _ => false

/-- The non-trigger ports 704 to 719 of a domain slot (R55). -/
def decodePort (d : Dom) (dst : DstNum) (g : Guard) (src : Src) : Option Instr :=
  match dst.toNat, d with
  | 704, _ => some (.o0Append d g src)
  | 705, _ => some (.o1Append d g src)
  | 706, _ => some (.rtWrite d g src)
  | 707, .v0 => some (.mkWrite .v0 g src)
  | 707, .v1 => some (.mkWrite .v1 g src)
  | 708, .c0 => some (.dixWrite .c0 g src)
  | 708, .c1 => some (.dixWrite .c1 g src)
  | 709, .c0 => some (.dwr .c0 g src)
  | 709, .c1 => some (.dwr .c1 g src)
  | n, .m => if 708 ≤ n && n ≤ 715 then some (.move .m g dst src) else none
  | _, _ => none

def decodeDomain (d : Dom) (g : Guard) (dst : DstNum) (src : Src) : Except Reject Instr :=
  if dst.toNat < 704 then
    if ownFile d dst.toNat then .ok (.move d g dst src) else .error .otherFile
  else if dst.toNat < 720 then
    match decodePort d dst g src with
    | some i => .ok i
    | none => .error .unassignedDst
  else
    match decodeTrigger d (dst.toNat - 720) g src with
    | some i => .ok i
    | none => .error .unassignedTrigger

/-- The transfer slots (R57). -/
def decodeX (x : XUnit) (g : Guard) (dst : DstNum) (src : Src) : Except Reject Instr :=
  if dst.toNat = 826 then .ok (.spx x g src)
  else if dst.toNat = 827 then .ok (.spd x g src)
  else if dst.toNat < 826 then .ok (.transfer x g dst src)
  else .error .unassignedDst

def moveG (w : BitVec 24) : Guard := w.extractLsb' 21 3
def moveDst (w : BitVec 24) : DstNum := w.extractLsb' 11 10
def moveSrc (w : BitVec 24) : Src := w.extractLsb' 0 11

/-- A move of R51 in the slot it stands in; the all-zero move is the no-op of every slot (R69). -/
def decodeMove (sl : Slot) (w : BitVec 24) : Except Reject Instr :=
  if w = 0#24 then .ok .nop
  else
    match sl with
    | .s => decodeDomain .s (moveG w) (moveDst w) (moveSrc w)
    | .v0 => decodeDomain .v0 (moveG w) (moveDst w) (moveSrc w)
    | .v1 => decodeDomain .v1 (moveG w) (moveDst w) (moveSrc w)
    | .m => decodeDomain .m (moveG w) (moveDst w) (moveSrc w)
    | .c0 => decodeDomain .c0 (moveG w) (moveDst w) (moveSrc w)
    | .c1 => decodeDomain .c1 (moveG w) (moveDst w) (moveSrc w)
    | .x0 => decodeX .x0 (moveG w) (moveDst w) (moveSrc w)
    | .x1 => decodeX .x1 (moveG w) (moveDst w) (moveSrc w)

/-! ### Bundles (R46, R47) -/

/-- Slot k of a bundle is bits [24k+23 : 24k] (R46). -/
def slotWord (b : BitVec 256) (sl : Slot) : BitVec 24 := b.extractLsb' (24 * sl.num) 24

/-- The header of a bundle is bits [255:192] (R46). -/
def headerBits (b : BitVec 256) : W64 := b.extractLsb' 192 64

structure Header where
  e    : Bool
  k    : Bool
  sp   : Bool
  le   : Nat
  pop  : BitVec 8
  push : BitVec 8
  hk   : Nat
  pay  : BitVec 40
deriving DecidableEq, Repr

def decodeHeader (h : W64) : Header where
  e := bit h 63
  k := bit h 62
  sp := bit h 61
  le := fld h 58 3
  pop := h.extractLsb' 50 8
  push := h.extractLsb' 42 8
  hk := fld h 40 2
  pay := h.extractLsb' 0 40

def allSlots : List Slot := [.s, .v0, .v1, .m, .c0, .c1, .x0, .x1]

/-- A bundle from its 32 bytes, little-endian (R46). -/
def bundleOfBytes (bs : List Byte) : BitVec 256 := BitVec.ofNat 256 (natLE bs)

/-- A bundle from a header and the word of one slot, every other slot the all-zero move. -/
def bundleWith (h : W64) (sl : Slot) (w : BitVec 24) : BitVec 256 :=
  (h.setWidth 256 <<< 192) ||| (w.setWidth 256 <<< (24 * sl.num))

/-! ### The table's words -/

/-- A word of 24 bits does not say which slot it stands in (R61). It is read in the first slot, in the order S, V0,
M, C0, X0, whose map assigns its destination (log 8). -/
def tableSlot (w : BitVec 24) : Slot :=
  match [Slot.s, .v0, .m, .c0, .x0].find? (fun sl => match decodeMove sl w with | .ok _ => true | .error _ => false) with
  | some sl => sl
  | none => .s

def decodeTableWord (nbits w : Nat) : Option Instr :=
  if nbits = 24 then
    match decodeMove (tableSlot (BitVec.ofNat 24 w)) (BitVec.ofNat 24 w) with
    | .ok i => some i
    | .error _ => none
  else none

/-! ### The encoder -/

/-- The slot, guard, destination number and source of a move (R51, R55, R57, R61 to R65); none for a row that is no
move. -/
def moveFields (i : Instr) : Option (Slot × Guard × Nat × Src) :=
  match i with
  | .nop => some (.s, 0, 0, 0)
  | .move d g dst src => some (d.slot, g, dst.toNat, src)
  | .transfer x g dst src => some (x.slot, g, dst.toNat, src)
  | .o0Append d g src => some (d.slot, g, 704, src)
  | .o1Append d g src => some (d.slot, g, 705, src)
  | .rtWrite d g src => some (d.slot, g, 706, src)
  | .mkWrite v g src => some (v.dom.slot, g, 707, src)
  | .dixWrite u g src => some (u.dom.slot, g, 708, src)
  | .dwr u g src => some (u.dom.slot, g, 709, src)
  | .spx x g src => some (x.slot, g, 826, src)
  | .spd x g src => some (x.slot, g, 827, src)
  | .add g src => some (.s, g, 720, src)
  | .sub g src => some (.s, g, 721, src)
  | .mul g src => some (.s, g, 722, src)
  | .mulh g src => some (.s, g, 723, src)
  | .mulhu g src => some (.s, g, 724, src)
  | .div g src => some (.s, g, 725, src)
  | .divu g src => some (.s, g, 726, src)
  | .rem g src => some (.s, g, 727, src)
  | .remu g src => some (.s, g, 728, src)
  | .and g src => some (.s, g, 729, src)
  | .or g src => some (.s, g, 730, src)
  | .xor g src => some (.s, g, 731, src)
  | .andn g src => some (.s, g, 732, src)
  | .orn g src => some (.s, g, 733, src)
  | .shl g src => some (.s, g, 734, src)
  | .shr g src => some (.s, g, 735, src)
  | .sra g src => some (.s, g, 736, src)
  | .rol g src => some (.s, g, 737, src)
  | .clz g src => some (.s, g, 738, src)
  | .ctz g src => some (.s, g, 739, src)
  | .popc g src => some (.s, g, 740, src)
  | .min g src => some (.s, g, 741, src)
  | .max g src => some (.s, g, 742, src)
  | .minu g src => some (.s, g, 743, src)
  | .maxu g src => some (.s, g, 744, src)
  | .sext8 g src => some (.s, g, 745, src)
  | .sext16 g src => some (.s, g, 746, src)
  | .sext32 g src => some (.s, g, 747, src)
  | .zext8 g src => some (.s, g, 748, src)
  | .zext16 g src => some (.s, g, 749, src)
  | .zext32 g src => some (.s, g, 750, src)
  | .bfx g src => some (.s, g, 751, src)
  | .bfi g src => some (.s, g, 752, src)
  | .sel g src => some (.s, g, 753, src)
  | .pass g src => some (.s, g, 754, src)
  | .ceq g src => some (.s, g, 755, src)
  | .cne g src => some (.s, g, 756, src)
  | .clt g src => some (.s, g, 757, src)
  | .cltu g src => some (.s, g, 758, src)
  | .cle g src => some (.s, g, 759, src)
  | .cleu g src => some (.s, g, 760, src)
  | .ld8 g src => some (.s, g, 761, src)
  | .ld16 g src => some (.s, g, 762, src)
  | .ld32 g src => some (.s, g, 763, src)
  | .ld64 g src => some (.s, g, 764, src)
  | .ld8s g src => some (.s, g, 765, src)
  | .ld16s g src => some (.s, g, 766, src)
  | .ld32s g src => some (.s, g, 767, src)
  | .st8 g src => some (.s, g, 768, src)
  | .st16 g src => some (.s, g, 769, src)
  | .st32 g src => some (.s, g, 770, src)
  | .st64 g src => some (.s, g, 771, src)
  | .aadd g src => some (.s, g, 772, src)
  | .aand g src => some (.s, g, 773, src)
  | .aor g src => some (.s, g, 774, src)
  | .axor g src => some (.s, g, 775, src)
  | .amin g src => some (.s, g, 776, src)
  | .amax g src => some (.s, g, 777, src)
  | .aminu g src => some (.s, g, 778, src)
  | .amaxu g src => some (.s, g, 779, src)
  | .axchg g src => some (.s, g, 780, src)
  | .acas g src => some (.s, g, 781, src)
  | .br g src => some (.s, g, 782, src)
  | .bra g src => some (.s, g, 783, src)
  | .call g src => some (.s, g, 784, src)
  | .ret g src => some (.s, g, 785, src)
  | .trap g src => some (.s, g, 786, src)
  | .sysResume g src => some (.s, g, 787, src)
  | .sysAbort g src => some (.s, g, 787, src)
  | .halt g src => some (.s, g, 788, src)
  | .nset g src => some (.s, g, 789, src)
  | .nstep g src => some (.s, g, 790, src)
  | .nbrk g src => some (.s, g, 791, src)
  | .sld g src => some (.s, g, 792, src)
  | .sst g src => some (.s, g, 793, src)
  | .srd g src => some (.s, g, 794, src)
  | .swr g src => some (.s, g, 795, src)
  | .tick g src => some (.s, g, 796, src)
  | .enrd g src => some (.s, g, 797, src)
  | .nxt g src => some (.s, g, 798, src)
  | .post g src => some (.s, g, 799, src)
  | .salloc g src => some (.s, g, 800, src)
  | .sfree g src => some (.s, g, 801, src)
  | .sstat g src => some (.s, g, 802, src)
  | .vadd v f g src => some (v.dom.slot, g, 720 + f.num, src)
  | .vsub v f g src => some (v.dom.slot, g, 724 + f.num, src)
  | .vmul v f g src => some (v.dom.slot, g, 728 + f.num, src)
  | .vmulh v f g src => some (v.dom.slot, g, 732 + f.num, src)
  | .vmulhu v f g src => some (v.dom.slot, g, 736 + f.num, src)
  | .vmad v f g src => some (v.dom.slot, g, 740 + f.num, src)
  | .vmin v f g src => some (v.dom.slot, g, 744 + f.num, src)
  | .vmax v f g src => some (v.dom.slot, g, 748 + f.num, src)
  | .vminu v f g src => some (v.dom.slot, g, 752 + f.num, src)
  | .vmaxu v f g src => some (v.dom.slot, g, 756 + f.num, src)
  | .vand v f g src => some (v.dom.slot, g, 760 + f.num, src)
  | .vor v f g src => some (v.dom.slot, g, 764 + f.num, src)
  | .vxor v f g src => some (v.dom.slot, g, 768 + f.num, src)
  | .vandn v f g src => some (v.dom.slot, g, 772 + f.num, src)
  | .vshl v f g src => some (v.dom.slot, g, 776 + f.num, src)
  | .vshr v f g src => some (v.dom.slot, g, 780 + f.num, src)
  | .vsra v f g src => some (v.dom.slot, g, 784 + f.num, src)
  | .vabs v f g src => some (v.dom.slot, g, 788 + f.num, src)
  | .vneg v f g src => some (v.dom.slot, g, 792 + f.num, src)
  | .vclz v f g src => some (v.dom.slot, g, 796 + f.num, src)
  | .vpopc v f g src => some (v.dom.slot, g, 800 + f.num, src)
  | .fadd v f g src => some (v.dom.slot, g, 804 + f.num, src)
  | .fsub v f g src => some (v.dom.slot, g, 808 + f.num, src)
  | .fmul v f g src => some (v.dom.slot, g, 812 + f.num, src)
  | .ffma v f g src => some (v.dom.slot, g, 816 + f.num, src)
  | .fnma v f g src => some (v.dom.slot, g, 820 + f.num, src)
  | .fmin v f g src => some (v.dom.slot, g, 824 + f.num, src)
  | .fmax v f g src => some (v.dom.slot, g, 828 + f.num, src)
  | .fabs v f g src => some (v.dom.slot, g, 832 + f.num, src)
  | .fneg v f g src => some (v.dom.slot, g, 836 + f.num, src)
  | .frcp v f g src => some (v.dom.slot, g, 840 + f.num, src)
  | .frsq v f g src => some (v.dom.slot, g, 844 + f.num, src)
  | .fex2 v f g src => some (v.dom.slot, g, 848 + f.num, src)
  | .flg2 v f g src => some (v.dom.slot, g, 852 + f.num, src)
  | .vceq v f g src => some (v.dom.slot, g, 856 + f.num, src)
  | .vcne v f g src => some (v.dom.slot, g, 860 + f.num, src)
  | .vclt v f g src => some (v.dom.slot, g, 864 + f.num, src)
  | .vcle v f g src => some (v.dom.slot, g, 868 + f.num, src)
  | .fceq v f g src => some (v.dom.slot, g, 872 + f.num, src)
  | .fclt v f g src => some (v.dom.slot, g, 876 + f.num, src)
  | .fcle v f g src => some (v.dom.slot, g, 880 + f.num, src)
  | .funord v f g src => some (v.dom.slot, g, 884 + f.num, src)
  | .rsum v f g src => some (v.dom.slot, g, 888 + f.num, src)
  | .rmax v f g src => some (v.dom.slot, g, 892 + f.num, src)
  | .rmin v f g src => some (v.dom.slot, g, 896 + f.num, src)
  | .scan v f g src => some (v.dom.slot, g, 900 + f.num, src)
  | .vsel v g src => some (v.dom.slot, g, 904, src)
  | .vmerge v g src => some (v.dom.slot, g, 905, src)
  | .cvt v g src => some (v.dom.slot, g, 906, src)
  | .qnt v g src => some (v.dom.slot, g, 907, src)
  | .dqt v g src => some (v.dom.slot, g, 908, src)
  | .vAmax v g src => some (v.dom.slot, g, 909, src)
  | .pack v g src => some (v.dom.slot, g, 910, src)
  | .unpack v g src => some (v.dom.slot, g, 911, src)
  | .vrot v g src => some (v.dom.slot, g, 912, src)
  | .vbcast v g src => some (v.dom.slot, g, 913, src)
  | .vext v g src => some (v.dom.slot, g, 914, src)
  | .vins v g src => some (v.dom.slot, g, 915, src)
  | .vld v g src => some (v.dom.slot, g, 916, src)
  | .vst v g src => some (v.dom.slot, g, 917, src)
  | .vlds v g src => some (v.dom.slot, g, 918, src)
  | .vsts v g src => some (v.dom.slot, g, 919, src)
  | .vgth v g src => some (v.dom.slot, g, 920, src)
  | .vsct v g src => some (v.dom.slot, g, 921, src)
  | .vsld v g src => some (v.dom.slot, g, 922, src)
  | .vsst v g src => some (v.dom.slot, g, 923, src)
  | .pload v g src => some (v.dom.slot, g, 924, src)
  | .pstore v g src => some (v.dom.slot, g, 925, src)
  | .pcomp v g src => some (v.dom.slot, g, 926, src)
  | .pinv v g src => some (v.dom.slot, g, 927, src)
  | .prand v g src => some (v.dom.slot, g, 928, src)
  | .pid v g src => some (v.dom.slot, g, 929, src)
  | .ppow v g src => some (v.dom.slot, g, 930, src)
  | .papply v g src => some (v.dom.slot, g, 931, src)
  | .pcyc v g src => some (v.dom.slot, g, 932, src)
  | .pfix v g src => some (v.dom.slot, g, 933, src)
  | .porder v g src => some (v.dom.slot, g, 934, src)
  | .mand v g src => some (v.dom.slot, g, 935, src)
  | .mor v g src => some (v.dom.slot, g, 936, src)
  | .mxor v g src => some (v.dom.slot, g, 937, src)
  | .mnot v g src => some (v.dom.slot, g, 938, src)
  | .mcnt v g src => some (v.dom.slot, g, 939, src)
  | .mfirst v g src => some (v.dom.slot, g, 940, src)
  | .radv v g src => some (v.dom.slot, g, 941, src)
  | .rpush v g src => some (v.dom.slot, g, 942, src)
  | .rbind v g src => some (v.dom.slot, g, 943, src)
  | .rlvl v g src => some (v.dom.slot, g, 944, src)
  | .mCall g src => some (.m, g, 720, src)
  | .mload g src => some (.m, g, 721, src)
  | .bload g src => some (.m, g, 722, src)
  | .bswap g src => some (.m, g, 723, src)
  | .accz g src => some (.m, g, 724, src)
  | .accrel g src => some (.m, g, 725, src)
  | .mstat g src => some (.m, g, 726, src)
  | .cpy u g src => some (u.dom.slot, g, 720, src)
  | .cpyp u g src => some (u.dom.slot, g, 721, src)
  | .gth u g src => some (u.dom.slot, g, 722, src)
  | .grd u g src => some (u.dom.slot, g, 723, src)
  | .sct u g src => some (u.dom.slot, g, 724, src)
  | .mcast u g src => some (u.dom.slot, g, 725, src)
  | .tatom u g src => some (u.dom.slot, g, 726, src)
  | .topk u g src => some (u.dom.slot, g, 727, src)
  | .cSub u g src => some (u.dom.slot, g, 728, src)
  | .unsub u g src => some (u.dom.slot, g, 729, src)
  | .stouch u g src => some (u.dom.slot, g, 730, src)
  | .spush u g src => some (u.dom.slot, g, 731, src)
  | .bclose u g src => some (u.dom.slot, g, 732, src)
  | .waitb u g src => some (u.dom.slot, g, 733, src)
  | .tstat u g src => some (u.dom.slot, g, 734, src)
  | .rtcfg u g src => some (u.dom.slot, g, 735, src)
  | .rtgo u g src => some (u.dom.slot, g, 736, src)
  | .rtstat u g src => some (u.dom.slot, g, 737, src)
  | .rtinv u g src => some (u.dom.slot, g, 738, src)
  | .rtfree u g src => some (u.dom.slot, g, 739, src)
  | .lsend u g src => some (u.dom.slot, g, 740, src)
  | .lrecv u g src => some (u.dom.slot, g, 741, src)
  | .lred u g src => some (u.dom.slot, g, 742, src)
  | .coll u g src => some (u.dom.slot, g, 743, src)
  | .pmget u g src => some (u.dom.slot, g, 744, src)
  | .pmret u g src => some (u.dom.slot, g, 745, src)
  | .arrive u g src => some (u.dom.slot, g, 746, src)
  | .expect u g src => some (u.dom.slot, g, 747, src)
  | .bwait u g src => some (u.dom.slot, g, 748, src)
  | .depset u g src => some (u.dom.slot, g, 749, src)
  | .depdec u g src => some (u.dom.slot, g, 750, src)
  | .drainC u g src => some (u.dom.slot, g, 751, src)
  | .drainD u g src => some (u.dom.slot, g, 752, src)
  | .drainP u g src => some (u.dom.slot, g, 753, src)
  | .drainF u g src => some (u.dom.slot, g, 754, src)
  | .fence u g src => some (u.dom.slot, g, 755, src)
  | .bkseg u g src => some (u.dom.slot, g, 756, src)
  | .bkwin u g src => some (u.dom.slot, g, 757, src)
  | .bklink u g src => some (u.dom.slot, g, 758, src)
  | .tsub u g src => some (u.dom.slot, g, 759, src)
  | .calq u g src => some (u.dom.slot, g, 760, src)
  | _ => none

/-- A move of 24 bits (R51). -/
def mkMove (g : Guard) (dst : DstNum) (src : Src) : BitVec 24 := (g ++ dst ++ src : BitVec (3 + 10 + 11))

/-- The word of a move and the slot it stands in. -/
def encode (i : Instr) : Option (Slot × BitVec 24) :=
  (moveFields i).map (fun f => (f.1, mkMove f.2.1 (BitVec.ofNat 10 f.2.2.1) f.2.2.2))

/-! ### Micro-words (R223, R225) -/

/-- A decoded micro-word (R223). -/
structure MicroWord where
  op   : Nat
  f1   : Nat
  f2   : Nat
  imm  : Nat
  cond : Nat
  cl   : Nat
deriving DecidableEq, Repr

/-- The limits of R225 on the fields of each op; a field or IMM bit that the op does not use has to be zero (R223). -/
def MicroWord.ok (m : MicroWord) : Bool :=
  m.cond ≤ 4 && m.cl ≤ 3 &&
    match m.op with
    | 0 => m.f1 = 0 && m.f2 = 0 && m.imm = 0
    | 1 => m.f1 < 8 && m.f2 < 4 && m.imm < 2 ^ 24 && nfld m.imm 16 7 = 0
    | 2 => m.f1 = 0 && m.f2 = 0 && m.imm < 16
    | 3 => m.f1 < 8 && m.f2 < 1024 && m.imm < 2 ^ 19 && 1 ≤ nfld m.imm 9 9 && nfld m.imm 9 9 ≤ 256
    | 4 => m.f1 < 8 && m.f2 < 8 && m.imm < 2 ^ 16
    | 5 => m.f1 < 8 && m.f2 < 8 && m.imm < 2 ^ 16
    | 6 => m.f1 < 8 && m.f2 < 4 && m.imm = 0
    | 7 => m.f1 < 8 && m.f2 < 4 && m.imm = 0
    | 8 => m.f1 = 0 && m.f2 = 0 && m.imm < 128 &&
        (if nfld m.imm 0 2 = 3 then 1 ≤ nfld m.imm 2 5 else nfld m.imm 2 5 = 0)
    | 9 => m.f1 < 8 && m.f2 = 0 && m.imm < 2
    | 10 => m.f1 < 8 && m.f2 < 8 && m.imm < 2 ^ 16
    | 11 => m.f1 = 0 && m.f2 = 0 && m.imm < 2 ^ 13
    | 12 => m.f1 = 0 && m.f2 = 0 && m.imm = 0
    | 13 => 1 ≤ m.f1 && m.f1 ≤ 3 && m.f2 = 0 && 1 ≤ m.imm && m.imm < 2 ^ 24
    | 14 => m.f1 = 0 && m.f2 = 0 && m.imm < 2 ^ 11
    | 15 => m.f1 < 8 && m.f2 < 8 && m.imm < 2 ^ 24
    | 16 => m.f1 = 0 && m.f2 = 0 && m.imm = 0
    | _ => false

def rawMicro (w : BitVec 96) : MicroWord :=
  ⟨fld w 90 6, fld w 80 10, fld w 70 10, fld w 36 24, fld w 33 3, fld w 31 2⟩

/-- The micro-op of a word, or none where the word fails the checks of R217: a reserved OP or COND, a nonzero
reserved bit, a nonzero field that the op does not use, or a field outside its limits (R223, R225). -/
def decodeMicro (w : BitVec 96) : Option MicroWord :=
  if fld w 0 31 = 0 ∧ fld w 60 10 = 0 ∧ (rawMicro w).ok then some (rawMicro w) else none

def encodeMicro (m : MicroWord) : BitVec 96 :=
  BitVec.ofNat 96 (pack [(90, 6, m.op), (80, 10, m.f1), (70, 10, m.f2), (36, 24, m.imm), (33, 3, m.cond), (31, 2, m.cl)])

/-- The micro-word that a micro-op constructor stands for. -/
def microOf (i : Instr) : Option MicroWord :=
  match i with
  | .microNop cond cl => some ⟨0, 0, 0, 0, cond, cl⟩
  | .aget f1 f2 imm cond cl => some ⟨1, f1, f2, imm, cond, cl⟩
  | .waitt imm cond cl => some ⟨2, 0, 0, imm, cond, cl⟩
  | .stream f1 f2 imm cond cl => some ⟨3, f1, f2, imm, cond, cl⟩
  | .accw f1 f2 imm cond cl => some ⟨4, f1, f2, imm, cond, cl⟩
  | .accadd f1 f2 imm cond cl => some ⟨5, f1, f2, imm, cond, cl⟩
  | .escale f1 f2 cond cl => some ⟨6, f1, f2, 0, cond, cl⟩
  | .ebias f1 f2 cond cl => some ⟨7, f1, f2, 0, cond, cl⟩
  | .eact imm cond cl => some ⟨8, 0, 0, imm, cond, cl⟩
  | .eqnt f1 imm cond cl => some ⟨9, f1, 0, imm, cond, cl⟩
  | .estore f1 f2 imm cond cl => some ⟨10, f1, f2, imm, cond, cl⟩
  | .sig imm cond cl => some ⟨11, 0, 0, imm, cond, cl⟩
  | .bflip cond cl => some ⟨12, 0, 0, 0, cond, cl⟩
  | .mloop f1 imm cond cl => some ⟨13, f1, 0, imm, cond, cl⟩
  | .mjmp imm cond cl => some ⟨14, 0, 0, imm, cond, cl⟩
  | .mparm f1 f2 imm cond cl => some ⟨15, f1, f2, imm, cond, cl⟩
  | .mend cond cl => some ⟨16, 0, 0, 0, cond, cl⟩
  | _ => none

end Sys2Proof
end

