-- ==== Sys2Proof/Machine/Flags.lean ====
section
/-! DEFINITION. The sticky flags of FST (R86), one bit each, in the order of R86. -/

namespace Sys2Proof.Machine

abbrev Flags := BitVec 11

def fINX : Flags := 0x001#11
def fOVF : Flags := 0x002#11
def fUNF : Flags := 0x004#11
def fINV : Flags := 0x008#11
def fDZ : Flags := 0x010#11
def fISAT : Flags := 0x020#11
def fIBLK : Flags := 0x040#11
def fTBAD : Flags := 0x080#11
def fDSAT : Flags := 0x100#11
def fSFLOOR : Flags := 0x200#11
def fZBLK : Flags := 0x400#11

/-- A flag when a condition holds. -/
def flagIf (c : Bool) (f : Flags) : Flags := if c then f else 0

/-- FST after a W1C write of `v` (R86): a written 1 clears. -/
def w1c (fst : Flags) (v : Flags) : Flags := fst &&& ~~~v

/-- The flags of several lanes or elements, ORed (R85). -/
def orFlags (l : List Flags) : Flags := l.foldl (· ||| ·) 0

end Sys2Proof.Machine
end

