-- ==== Sys2Proof/Config.lean ====
section
/-! DEFINITION. What the spec leaves to an implementation or leaves open. An opaque constant has no body: nothing
proves a value of it. The numbers are the part's own (R2). -/

namespace Sys2Proof.Config

/-- A free choice where the spec says that something is chosen and not which (a free page frame, a place in the
backing tensor, an assigned identifier): used as a hint that the limits of the rule bound (log 5). -/
opaque freeNat : Nat → Nat

/-- A value the spec leaves open, for a fresh value each time (log 5). -/
opaque freeWord : Nat → BitVec 64

/-- Whether efld accepts an image by the checks of R272 along every path of its text (log 7). -/
opaque loaderAccepts : Image → Bool

/-- IMGID of R265: the low 32 bits of a SHAKE256 digest over a serialisation the spec does not state (log 7). -/
opaque imageId : Image → BitVec 32

/-- A firmware image with a valid signature, as the module is delivered with (R360; log 7). -/
opaque factoryImage : List Byte

/-- Whether the signature of another firmware image is valid against a public key (R360; log 7). -/
opaque firmwareValid : List Byte → List Byte → Bool

/-- The SHAKE256 digest of R360 (log 7). -/
opaque digest : List Byte → BitVec 256

/-- The XMSS signature of R360 by a key at a leaf over a message (log 7). -/
opaque sign : List Byte → Nat → List Byte → List Byte

/-- Whether a frame counter received in a beacon keeps the clock within 8 cycles (R339; log 7). -/
opaque beaconClose : Nat → Nat → Nat → Nat → Bool

/-- The link that packets to an endpoint leave on (R337; log 5). -/
opaque routeLink : Nat → Nat

/-- The flits that the shared part of a port's buffer holds (R341; log 21). -/
opaque sharedFlits : Nat

/-- The first check of R272 that an image fails, with the bundle and the path, where the checks that the loader computes find none but
it refuses the image (log 7). -/
opaque loaderFailure : Image → Nat × Nat × List Nat

/-- Which package numbers the fabric has (R322, R352): a matter of the installation (log 7). -/
opaque inFabric : Nat → Bool

def cores : Nat := 256
def clusters : Nat := 64
def storeGranules : Nat := 393216
def microWords : Nat := 2048
def horizon : Nat := 4096
def links : Nat := 24
/-- The frames of the tiers: R134 and R142 give 2^23 and 2^25 of 64 KiB, where R2 with R5 gives 512 × 10^9 and 2,048 × 10^9 bytes. That the
frames are taken is the model's choice (DESIGN CHOICE, log 2). -/
def hbmFrames : Nat := 8388608
def lpFrames : Nat := 33554432

end Sys2Proof.Config
end

