-- ==== Sys2Proof/Machine/Sparse.lean ====
section
/-! DEFINITION. Sparse data by key: a list of (key, value) pairs in one canonical form, keys strictly rising and no
entry equal to what an unlisted key reads as. -/

namespace Sys2Proof.Machine

/-- What key `k` holds; an unlisted key holds `d`. -/
def sget {α : Type} (d : α) : List (Nat × α) → Nat → α
  | [], _ => d
  | (a, v) :: m, k => if a = k then v else sget d m k

/-- A record by key, or none. -/
def alook {α : Type} : List (Nat × α) → Nat → Option α
  | [], _ => none
  | (a, v) :: m, k => if a = k then some v else alook m k

/-- Puts a record at a key, keys rising. -/
def aput {α : Type} : List (Nat × α) → Nat → α → List (Nat × α)
  | [], k, v => [(k, v)]
  | (a, w) :: m, k, v =>
    if a = k then (k, v) :: m
    else if k < a then (k, v) :: (a, w) :: m
    else (a, w) :: aput m k v

/-- Removes the record at a key. -/
def adel {α : Type} (m : List (Nat × α)) (k : Nat) : List (Nat × α) := m.filter (fun p => p.1 ≠ k)

/-- Writes `v` at key `k`, keeping the canonical form: the default is not listed. -/
def sset {α : Type} [DecidableEq α] (d : α) : List (Nat × α) → Nat → α → List (Nat × α)
  | [], k, v => if v = d then [] else [(k, v)]
  | p :: m, k, v => if v = d then adel (p :: m) k else aput (p :: m) k v

/-- Every key of `m` lies above `lo` and the keys rise strictly, no entry holding the default. -/
def swfFrom {α : Type} [DecidableEq α] (d : α) (lo : Nat) : List (Nat × α) → Bool
  | [] => true
  | (a, v) :: m => decide (lo ≤ a) && decide (v ≠ d) && swfFrom d (a + 1) m

/-- The canonical form. -/
def swf {α : Type} [DecidableEq α] (d : α) (m : List (Nat × α)) : Bool := swfFrom d 0 m

/-- Replaces element `i` of a list. -/
def lset {α : Type} (l : List α) (i : Nat) (v : α) : List α := l.set i v

/-- Insertion into a list sorted by `le`, after equal elements. -/
def insertBy {α : Type} (lt : α → α → Bool) (x : α) : List α → List α
  | [] => [x]
  | y :: l => if lt x y then x :: y :: l else y :: insertBy lt x l

/-- A stable sort. -/
def sortBy {α : Type} (lt : α → α → Bool) (l : List α) : List α := l.foldl (fun acc x => insertBy lt x acc) []

/-- n values from a key on, of a list whose keys below it are gone. -/
def sdenseGo {α : Type} (d : α) : Nat → Nat → List (Nat × α) → List α
  | 0, _, _ => []
  | n + 1, k, [] => d :: sdenseGo d n (k + 1) []
  | n + 1, k, (a, v) :: m => if a = k then v :: sdenseGo d n (k + 1) m else d :: sdenseGo d n (k + 1) ((a, v) :: m)

/-- The n values at keys lo to lo + n − 1. -/
def sdense {α : Type} (d : α) (m : List (Nat × α)) (lo n : Nat) : List α := sdenseGo d n lo (m.dropWhile (fun p => p.1 < lo))

/-- Values as entries from a key on, the default not listed. -/
def entriesFrom {α : Type} [DecidableEq α] (d : α) : Nat → List α → List (Nat × α)
  | _, [] => []
  | k, v :: l => if v = d then entriesFrom d (k + 1) l else (k, v) :: entriesFrom d (k + 1) l

/-- Writes values at keys lo, lo + 1, …. -/
def sput {α : Type} [DecidableEq α] (d : α) (m : List (Nat × α)) (lo : Nat) (l : List α) : List (Nat × α) :=
  m.filter (fun p => p.1 < lo) ++ entriesFrom d lo l ++ m.filter (fun p => lo + l.length ≤ p.1)

/-! ### Vectors (R15) -/

/-- Lanes of `new` where the mask is 1, lanes of `old` elsewhere; `m` is shifted along. -/
def blendGo : Nat → Vec → Vec → Vec
  | m, x :: xs, y :: ys => (if m % 2 = 1 then x else y) :: blendGo (m / 2) xs ys
  | _, _, _ => []

def blend (m : Mask) (new old : Vec) : Vec :=
  if m = BitVec.allOnes 256 then new else blendGo m.toNat new old

/-- Lane `i`. -/
def lane (v : Vec) (i : Nat) : BitVec 32 := v.getD i 0

/-- The vector whose lane `i` is `f i`. -/
def vecOf (f : Nat → BitVec 32) : Vec := (List.range 256).map f

/-- A scalar in a vector place: bits [31:0] in every lane (R60). -/
def splat (x : BitVec 32) : Vec := List.replicate 256 x

def zeroVec : Vec := splat 0

/-- A register's worth of lanes: a list of another length is cut, or filled with zeros. -/
def fullVec (v : Vec) : Vec := (v ++ zeroVec).take 256

/-- The mask whose bit `i` is `f i`. -/
def maskOf (f : Nat → Bool) : Mask :=
  BitVec.ofNat 256 ((List.range 256).foldl (fun acc i => if f i then acc + 2 ^ i else acc) 0)

def allLanes : Mask := BitVec.allOnes 256

end Sys2Proof.Machine
end

