-- ==== Sys2Proof/Machine/State.lean ====
section
/-! DEFINITION. The state of the machine as plain data: 256 cores, contexts, the package and what is on its way
between them; the two ways a turn can stop; the state right after reset. INVENTORY.md lists every field with its rule. -/

namespace Sys2Proof.Machine

/-- Bytes by address, canonical (keys rising, no entry equal to what an unlisted byte reads as, which is 0: log 2).
The stores have address spaces of their own; `Ops` places them in one (log 2). -/
abbrev Memory := List Host.Cell

/-- The stop of a turn that names hardware the part does not have. -/
inductive Fault where
  /-- Raised by `step` for a turn of a core numbered 256 or more: no such core exists (R2, R10). Safe: the
  hardware has no such step. -/
  | noSuchCore
  /-- Raised by a turn that names a cluster, die, link, stack, routing slot or tier frame that the part does not have
  (R2). Safe: the hardware has no such step. -/
  | noSuchUnit
deriving DecidableEq, Repr, Inhabited

/-- A turn that has no meaning. -/
inductive Refusal where
  /-- An instruction not modelled yet, by its mnemonic in the opcode table; raised by an arm of `exec` alone. Safe. -/
  | notModelled (mnemonic : String)
deriving DecidableEq, Repr, Inhabited

/-! ### Faults of the architecture (R105, R107) -/

/-- The causes of R105, in the order of their codes. -/
inductive Cause where
  | illegalBundle | illegalMove | formatUnsupported | segAbsent | segStale | segBounds | segQuota | segUndeclared
  | pageAbsent | pagePerm | permInvalid | timedStall | overrun | tilePoison | eccUncorr | divZero | landingBusy
  | permitExpired | trap | brk
deriving DecidableEq, Repr, Inhabited

/-- A fault as it is found: cause, UNIT of R107, INFO, WHERE, RESUME, and the segments whose recall it asks for
(R121). -/
structure FaultInfo where
  cause  : Cause
  unit   : Nat := 0
  info   : W64 := 0
  wher   : W64 := 0
  resume : W64 := 0
  recalls : List Nat := []
  bidx   : Option Nat := none
  core   : Option Nat := none             -- the linear index a record names, where it is not the core's own (R247)
deriving DecidableEq, Repr, Inhabited

/-- A fault record (R107). -/
structure FaultRec where
  code   : Nat
  rstb   : Bool
  roll   : Bool
  auto   : Bool
  unit   : Nat
  core   : Nat
  task   : Nat
  bidx   : Nat
  mark   : Nat
  frame  : W64
  wher   : W64
  info   : W64
  resume : W64
deriving DecidableEq, Repr, Inhabited

/-! ### Values and ports -/

/-- What a source yields (R60). -/
inductive Val where
  | sc (x : W64)
  | vec (v : Vec)
deriving DecidableEq, Repr, Inhabited

/-- Where a move or a transfer writes (R53, R55, R57). -/
inductive Dst where
  | sreg (i : Nat)
  | vreg (i : Nat)                       -- 0 to 319 a-file, 320 to 639 b-file
  | input (d : Dom) (second : Bool)
  | rt (d : Dom)
  | mk (v : VUnit)
  | dix (u : CUnit)
  | dwr (u : CUnit)
  | dword (u : CUnit) (i : Nat)
  | mreg (i : Nat)
  | guard (i : Nat)
  | mask (i : Nat)
  | tail (i : Nat)
  | spx
  | spd
deriving DecidableEq, Repr, Inhabited

/-- An input file (R17): the entry read last, and the unread entries in the order their moves issued, each with the
issued bundle from which it is readable. -/
structure InFile where
  last : Val := .sc 0
  q    : List (Val × Nat) := []
deriving DecidableEq, Repr, Inhabited

/-- What an operation does at its result bundle besides delivering (R126, R159). -/
inductive LandAct where
  | none
  | sfree (name : W16)
  | sys (func : Nat) (arg : W64)
  | post (clu : Nat) (card : BitVec 512)
deriving DecidableEq, Repr, Inhabited

/-- A result in flight (R18, R19): rt and the mask are those sampled at the trigger. -/
structure Result where
  due   : Nat
  trig  : Nat
  dom   : Dom
  val   : Val
  val2  : Option Val := Option.none
  rt    : W16
  mask  : Mask := BitVec.allOnes 256
  flags : BitVec 11 := 0
  mem   : Bool := false
  act   : LandAct := .none
  life  : Nat := 0                       -- of a segment ring that it writes: the life of the segment at the trigger (R126)
  addr  : Nat := 0                       -- and where its storage began then
deriving DecidableEq, Repr, Inhabited

/-- A transfer in flight (R13). -/
structure Xfer where
  due  : Nat
  trig : Nat
  dst  : Dst
  val  : Val
  life : Nat := 0                        -- as of a result
  addr : Nat := 0
deriving DecidableEq, Repr, Inhabited

/-- A mask operation's write (R204). -/
structure MaskWr where
  due  : Nat
  trig : Nat
  v    : VUnit
  kd   : Nat
  val  : Mask
deriving DecidableEq, Repr, Inhabited

/-- A permutation register's write (R197, R203); `solve` marks one that the Mule works on (R199). -/
structure PermWr where
  due   : Nat
  trig  : Nat
  v     : VUnit
  pd    : Nat
  val   : List Nat
  solve : Bool
deriving DecidableEq, Repr, Inhabited

/-- A ring descriptor (R205). -/
structure Ring where
  store  : Nat := 0
  base   : Nat := 0
  line   : Nat := 0
  depM1  : Nat := 0
  head   : Nat := 0
  tail   : Nat := 0
  filled : Nat := 0
  infl   : Nat := 0
  hl     : Nat := 0
  hen    : Bool := false
  fm1    : Nat := 0
  tp     : Nat := 0
  ten    : Bool := false
  em1    : Nat := 0
deriving DecidableEq, Repr, Inhabited

/-- An address-update entry (R160); KIND 0 none, 1 s register, 2 a d-word of C0, 3 a d-word of C1. -/
structure NestEnt where
  kind   : Nat := 0
  idx    : Nat := 0
  stride : W64 := 0
deriving DecidableEq, Repr, Inhabited

/-- A nest level (R160); `ents` lists entries 0 to 7. -/
structure NestLevel where
  arm  : Bool := false
  c    : Bool := false
  last : Bool := false
  body : Nat := 0
  t    : Nat := 0
  idx  : Nat := 0
  ents : List NestEnt := List.replicate 8 {}
deriving DecidableEq, Repr, Inhabited

/-- A store to the segment store by a slot (R153, R193): pieces of bytes at offsets of one segment of the context. -/
structure GStore where
  trig   : Nat
  perf   : Nat
  dom    : Dom
  seg    : Nat
  pieces : List (Nat × List Byte)
  life   : Nat := 0                      -- the life of its segment when the access passed its check (R126)
  addr   : Nat := 0                      -- where the segment's storage began then
deriving DecidableEq, Repr, Inhabited

/-- A register the restart shadow covers (R101). -/
inductive ShKey where
  | sreg (i : Nat)
  | vreg (i : Nat)
  | word (i : Nat)
  | line (i : Nat)
deriving DecidableEq, Repr, Inhabited

/-- A format-register write that waits for its fourth bundle (R49). -/
structure FmtWr where
  due : Nat
  val : BitVec 40
deriving DecidableEq, Repr, Inhabited

/-- What is recorded at a restart mark (R101). -/
structure Mark where
  pc     : Nat := 0
  issue  : Nat := 0
  guards : BitVec 8 := 1
  masks  : List (Nat × Mask) := []
  rings  : List (Nat × Ring) := []
  nest   : List (Nat × NestLevel) := []
  fst    : BitVec 11 := 0
  fmt    : BitVec 40 := 0
  fmtq   : List FmtWr := []
  gen0   : W64 := 0
  branches : List (Nat × Nat) := []      -- taken and not yet in effect (R67)
deriving DecidableEq, Repr, Inhabited

/-- A hold in front of the next bundle (R253, R302, R304): a command number of the unit. -/
inductive Gate where
  | waitb (u : CUnit) (n : Nat)
  | bwait (u : CUnit) (id : Nat)
  | drain (u : CUnit) (id : Nat)
deriving DecidableEq, Repr, Inhabited

/-! ### The matrix engine (R210 to R232) -/

inductive MKind where
  | call | mload | bload | bswap | accz | accrel
deriving DecidableEq, Repr, Inhabited

/-- A command of the M queue (R215). -/
structure MCmd where
  kind  : MKind
  seq   : Nat
  o0    : W64 := 0
  o1    : W64 := 0
  word  : W64 := 0
  wps   : List W64 := []
  fmt   : BitVec 40 := 0
  bidx  : Nat := 0
  cid   : Nat := 0
  task  : Nat := 0
  timed : Bool := false
  cm    : Bool := false
  pins  : List Nat := []
  marked : Bool := false                 -- an accrel whose releases wait for a commit (R220)
  faulted : Bool := false
  auto  : Bool := false                  -- faulted, and waits for the device under AUTO
  wait  : List Nat := []                 -- the segments that wait is for
  held  : List Nat := []                 -- segments held through INB while it waits on a tile (R121)
deriving DecidableEq, Repr, Inhabited

/-- One K-block column of a B-store half (R210): block exponent, aligned significands, and whether it holds a NaN,
NaR or infinity, or only zeros. -/
structure BBlock where
  special : Bool := false
  zero    : Bool := true
  exp     : Int := 0
  inx     : Bool := false                -- an alignment rounded
  q       : List Int := []
deriving DecidableEq, Repr, Inhabited

/-- A half of the B-store with its half record (R210). -/
structure Half where
  cls  : Nat := 7
  fb   : Nat := 0
  kbv  : Nat := 0
  cols : List (Nat × BBlock) := []       -- keyed kb * 64 + column
deriving DecidableEq, Repr, Inhabited

inductive SlotSt where
  | empty | filling | full
deriving DecidableEq, Repr, Inhabited

structure MicroLoop where
  armed : Bool := false
  body  : Nat := 0
  trips : Nat := 0
  idx   : Nat := 0
deriving DecidableEq, Repr, Inhabited

/-- The epilogue configuration (R227). -/
structure Epilogue where
  scaleMode : Nat := 0
  scale     : List W64 := []
  biasMode  : Nat := 0
  bias      : List W64 := []
  act       : Nat := 0
  shift     : Nat := 0
  mode      : Nat := 0
  codes     : W64 := 0
deriving DecidableEq, Repr, Inhabited

/-- A running routine (R222, R229). -/
structure Routine where
  call    : MCmd
  mpc     : Nat := 0
  wp      : List W64 := []
  held    : List Nat := []               -- segments acquired at dispatch
  ranges  : List (Nat × Nat × Nat) := [] -- pre-checked: segment, first offset, end offset
  loops   : List (Nat × MicroLoop) := []
  skip    : Nat := 0                     -- skippable micro-ops still to skip
  done    : Nat := 0                     -- skippable micro-ops completed
  epi     : Epilogue := {}
  sigs    : List Nat := []
  flags   : BitVec 11 := 0
  gen1    : W64 := 0                     -- stream 1 at dispatch (R83)
  faulted : Bool := false
  restart : Bool := false                -- it has to restart from ENTRY (R229)
deriving DecidableEq, Repr, Inhabited

structure Matrix where
  queue   : List MCmd := []
  seq     : Nat := 0
  routine : Option Routine := Option.none
  lastCall : Option Nat := Option.none   -- the last call issued and not committed, for accrel (R220)
  halves  : Half × Half := ({}, {})
  active  : Bool := false                -- false: half 0
  rows    : List (Nat × Byte) := []      -- row * 256 + byte
  slots   : List SlotSt := List.replicate 4 .empty
  scales  : List (Nat × Byte) := []      -- (slot * 256 + row) * 16 + code
  accs    : List (Nat × W32) := []       -- acc * 16384 + row * 64 + word
  zeroTag : BitVec 8 := BitVec.allOnes 8
  relPend : List (Nat × Nat) := []       -- (accumulator, sequence number of the call)
  micro   : List (Nat × BitVec 96) := []
  macros  : Nat := 0
  warm    : Bool := false
deriving DecidableEq, Repr, Inhabited

/-! ### The copy engines (R233 to R254) -/

inductive CmdSt where
  | queued | running | faulted
deriving DecidableEq, Repr, Inhabited

/-- A command of a copy engine: what it sampled at its trigger, and how far it is. -/
structure Cmd where
  id     : Nat
  op     : Nat                            -- opcode of R65
  word   : W64
  grp    : List W64                       -- D to D+7
  srcC   : List W64                       -- coordinate block of SRCW
  dstC   : List W64                       -- coordinate block of DSTW
  fmt    : BitVec 40
  perm   : List Nat := []
  bidx   : Nat
  cid    : Nat := 0
  task   : Nat := 0
  timed  : Bool := false
  cm     : Bool := false
  pins   : List Nat := []
  local_ : Bool := true                   -- R254
  at_    : Nat := 0                       -- issued bundle of its trigger
  locks  : List (Nat × Nat) := []         -- (segment, tile) that it locks under ATOM = W from its issue (R315)
  batch  : Nat := 0
  st     : CmdSt := .queued
  elem   : Nat := 0                       -- next element; every lower one has landed
  total  : Nat := 0                       -- elements in all, once started
  held   : List Nat := []                 -- segments held through INB
  pages  : List (Nat × Nat) := []         -- pages held through PINC
  wtiles : List (Nat × Nat) := []         -- (segment, tile) set FILLING
  stiles : List (Nat × Nat) := []         -- (segment, tile) set DRAINING
  rtiles : List (Nat × Nat) := []         -- (segment, tile) read and not marked
  acq    : Bool := false                  -- its segments are acquired: `held` has their INB counts (R121)
  startAt : Nat := 0                      -- bundles issued when it started
  unsig  : Nat := 0                       -- bytes landed and not yet signalled (SK 3)
  flags  : BitVec 11 := 0
  performed : Bool := false               -- a bwait or drain that has been performed (R302, R304)
  ready  : Bool := false                  -- its condition has held, or its far side has finished
  auto   : Bool := false                  -- faulted, and waits for the device under AUTO
  wait   : List Nat := []                 -- segments a fault of the command waits for
  waitPg : Option (Nat × Nat) := Option.none
  acc    : List (Nat × W64) := []         -- a collective's partial sums, an lred's data
  chunk  : Nat := 0
  lost   : Bool := false                  -- a packet of it was discarded in its port (R342)
deriving DecidableEq, Repr, Inhabited

/-- A tile subscription (R250): lines pushed and lines read back, and what it holds while it lasts. -/
structure SubSt where
  cid   : Nat := 0
  task  : Nat := 0
  bidx  : Nat := 0
  ring  : Nat := 0
  rows  : Nat := 0
  next  : Nat := 0
  back  : Nat := 0
  ret   : Bool := false
  src   : W64 := 0
  dst   : W64 := 0
  srcC  : List W64 := []
  dstC  : List W64 := []
  sigw  : W64 := 0
  held  : List Nat := []
  pages : List (Nat × Nat) := []
  faulted : Bool := false
  auto  : Bool := false
  waitPg : Option (Nat × Nat) := Option.none
deriving DecidableEq, Repr, Inhabited

/-- An entry of a translation cache (R136). -/
structure TEnt where
  tid   : Nat
  page  : Nat
  large : Bool
deriving DecidableEq, Repr, Inhabited

structure CEngine where
  cmds   : List Cmd := []                 -- queued, running and faulted commands in issue order
  nextId : Nat := 0
  openB  : Nat := 0                       -- number of the open batch
  openN  : Nat := 0                       -- commands that joined it
  closed : List Nat := []                 -- closed batches outstanding, oldest first
  subs   : List (Nat × SubSt) := []
  tcache : List TEnt := []
  remote : Bool := false                  -- a command of the running task that is not local has been issued (R254)
deriving DecidableEq, Repr, Inhabited

/-- A signal on its way to a cell (R296). -/
inductive SigKind where
  | dec (n : Nat)
  | arrive (n : Nat)
  | bytes (n : Nat)
  | expect (n : Nat) (arv : Bool)
  | depset (barrier : Bool) (val : Nat)
deriving DecidableEq, Repr, Inhabited

structure Signal where
  cid  : Nat
  clu  : Nat                              -- logical cluster of the cell
  n    : Nat
  kind : SigKind
  src  : Nat := 0                         -- logical cluster of the source; 64 for one that is in no cluster
  core : Nat := 0                         -- linear logical index of the source; 256 for one that is no core
  eng  : Nat := 0
  at_  : Nat := 0                         -- bundles its core had issued when it left
  sent : Nat := 0                         -- the turn in which it left
deriving DecidableEq, Repr, Inhabited

/-! ### Staged effects of a bundle -/

/-- What a move of the issuing bundle will do once every check of R70 has passed; `endBundle` performs them. -/
inductive Eff where
  | write (d : Dst) (v : Val)
  | xfer (x : Xfer)
  | append (d : Dom) (second : Bool) (v : Val) (from_ : Nat)
  | took (d : Dom) (second : Bool)
  | result (r : Result)
  | maskWr (w : MaskWr)
  | permWr (w : PermWr)
  | store (g : GStore)
  | atomic (seg off : Nat) (bytes : List Byte)
  | spillWord (i : Nat) (v : W64)
  | spillLine (i : Nat) (v : Vec) (mask : Mask)
  | swrFst (v : W64)
  | swrGen (v : W64)
  | nset (l : Nat) (c : Bool) (body t : Nat)
  | nstep (l e : Nat) (ent : NestEnt)
  | nbrk (l : Nat)
  | branch (target : Nat)
  | link (v : W64)
  | halt
  | trap (info : W64)
  | radv (q n : Nat)
  | rpush (q n : Nat)
  | ringInfl (q : Nat)
  | rbind (q : Nat) (r : Ring)
  | cmd (u : CUnit) (c : Cmd) (joins : Bool)
  | mcmd (c : MCmd)
  | gate (g : Gate)
  | closeBatch (u : CUnit)
  | request (pmt : Nat) (pkg rctx rten lease ask : Nat)
  | nxt (disp slot : Nat)
  | salloc (bytes home : Nat) (empty : Bool)
  | touch (seg : Nat)
  | commit
deriving DecidableEq, Repr, Inhabited

inductive SegState where
  | free | resident | moving | pushing | away | recalling | poisoned
deriving DecidableEq, Repr, Inhabited

/-- A cached segment descriptor (R114): it serves while the table still says the same, so a change of STATE, BASE or
GEN takes the copy away. -/
structure DEnt where
  cid  : Nat
  idx  : Nat
  st   : SegState
  base : Nat
  gen  : Nat
deriving DecidableEq, Repr, Inhabited

/-! ### A core -/

inductive RunState where
  | idle       -- no task holds the core
  | running
  | faulted    -- the task is suspended with its state latched here (R109)
  | retiring   -- E or halt has issued (R273)
  | saving     -- stopped at a safe point, the save not complete (R103)
deriving DecidableEq, Repr, Inhabited

/-- The task on a core, as its TCB and its card gave it (R270). -/
structure TaskRun where
  cid   : Nat := 0
  id    : Nat := 0
  serial : Nat := 0                      -- which card the task is
  timed : Bool := false
  rpol  : Nat := 0
  eacct : Nat := 0
  cm    : Bool := false
  pins  : List Nat := []
  q     : Nat := 0
  w     : Nat := 0
  books : List W64 := []
deriving DecidableEq, Repr, Inhabited

structure CoreSt where
  sregs  : List (Nat × W64) := []
  vregs  : List (Nat × Vec) := []
  mregs  : List (Nat × W64) := []
  dfile0 : List (Nat × W64) := []
  dfile1 : List (Nat × W64) := []
  guards : BitVec 8 := 1
  masks  : List (Nat × Mask) := []
  perms  : List (Nat × List Nat) := []
  rings  : List (Nat × Ring) := []
  nest   : List (Nat × NestLevel) := []
  nt     : List (Nat × W64) := []
  ntp    : Nat := 0
  nxts   : List (Nat × Nat × Option W64 × Nat) := []  -- outstanding nxt: dispenser, register, answer, due bundle
  fmt    : BitVec 40
  fmtq   : List FmtWr := []
  gen    : List (Nat × W64) := []
  fst    : BitVec 11 := 0
  words  : List (Nat × W64) := []
  lines  : List (Nat × Vec) := []
  spx    : Nat := 0
  inputs : List (Nat × InFile) := []                 -- 2 * domain + (1 for o1)
  rt     : List (Nat × W16) := []
  mks    : List (Nat × Nat) := []                    -- 0 V0, 1 V1
  dix    : List (Nat × Nat) := []                    -- 0 C0, 1 C1
  res    : List (Nat × Val) := []                    -- domain
  res2   : List (Nat × Val) := []
  inflight : List Result := []
  xfers  : List Xfer := []
  maskq  : List MaskWr := []
  permq  : List PermWr := []
  mark   : Option Mark := Option.none
  shadow : List (ShKey × Val) := []
  dshadow : List (CUnit × Nat × W64) := []
  counted : List ShKey := []
  gated  : List GStore := []
  stores : List (Dom × Nat) := []                    -- stores written and not yet performed: domain, due bundle
  pc     : Nat := 0
  branches : List (Nat × Nat) := []                  -- (bundle after which it is taken, target)
  issued : Nat := 0
  cycle  : W64 := 0
  gates  : List Gate := []
  skipBrk : Option Nat := Option.none                -- the bundle that skips its breakpoint once (R105, R110)
  markNext : Bool := false                           -- the next bundle becomes a mark
  istore : List (Nat × BitVec 256) := []
  tags   : List (Nat × W32) := []                    -- region to IMGID; unlisted: null tag
  reload : List Nat := []                            -- regions a launch still has to reload
  coord  : W32 := 0
  owner  : Option Nat := Option.none                 -- context bound to the core
  seen   : List Nat := []                            -- contexts that have issued here (R98)
  run    : RunState := .idle
  task   : TaskRun := {}
  fill   : List Nat := []                            -- descriptors the cache waits for (R114)
  dcache : List DEnt := []                           -- most recently used first (R114)
  latch  : List FaultRec := []
  preempt : Bool := false
  safe   : Option (Nat × Nat) := Option.none         -- live-state list and save-area base of the safe point taken
  journal : List (Nat × Byte) := []
  jsigs  : List Signal := []                         -- signals in the journal (R274)
  oldj   : List ((Nat × Nat) × List (Nat × Byte) × List Signal) := []  -- journals of tasks that still retire, by context and task
  mat    : Matrix := {}
  eng0   : CEngine := {}
  eng1   : CEngine := {}
  staged : List Eff := []
  raised : Option FaultInfo := Option.none           -- a fault taken by a move of the issuing bundle
  held   : Bool := false                             -- a move of the issuing bundle holds it
  ended  : Bool := false                             -- E or halt of its task has issued (R67, R273)
  holders : List ((Nat × Nat) × Nat) := []           -- cycles of the frame by context and energy account (R359)
  holdsNow : List ((Nat × Nat) × Bool) := []         -- who has held the core in this quantum, and whether from its start
deriving DecidableEq, Repr, Inhabited

/-! ### Contexts -/

inductive TileSt where
  | empty | filling | ready | draining
deriving DecidableEq, Repr, Inhabited

structure Tile where
  st   : TileSt := .ready
  unit : Nat := 0
  core : Nat := 0
  cmd  : Nat := 0
deriving DecidableEq, Repr, Inhabited

/-- A segment descriptor (R113) with what the Hazel unit still owes it. -/
structure Seg where
  gen    : Nat := 0
  state  : SegState := .free
  zero   : Bool := false
  freep  : Bool := false
  rq     : Bool := false
  home   : Nat := 0
  base   : Nat := 0
  size   : Nat := 0
  life   : Nat := 0                      -- how often its index has been freed: a gated store's storage is of one life (R126)
  pin    : Nat := 0
  inb    : Nat := 0
  age    : Nat := 0
  rframe : Nat := 0
  bkoff  : Nat := 0
  tiles  : List (Nat × Tile) := []
  placed : Bool := false                 -- storage of the home store is held at `base`
  newBase : Nat := 0                     -- while MOVING
  discard : Bool := false                -- pushed with DISCARD: a later recall makes its tiles READY (R118)
  poison : Nat := 0                      -- first poisoned granule
  poisonNext : Bool := false             -- becomes POISONED when the move ends
  pushSig : List (Nat × Nat) := []       -- counters to decrement when the push completes
  recSig : List (Nat × Nat) := []        -- counters to decrement when it becomes RESIDENT (stouch)
deriving DecidableEq, Repr, Inhabited

/-- A cell (R294); ST 0 OPEN, 1 ARMED, 2 COUNTING. -/
structure Cell where
  barrier : Bool := false
  st    : Nat := 0
  ph    : Bool := false
  mis   : Bool := false
  under : Bool := false
  val   : Nat := 0
  arr   : Nat := 0
  expb  : Nat := 0
  gotb  : Nat := 0
deriving DecidableEq, Repr, Inhabited

/-- A permit (R351); STATE 0 FREE to 5 RETURNING. -/
structure Permit where
  state  : Nat := 0
  pkg    : Nat := 0
  rctx   : Nat := 0
  rten   : Nat := 0
  credit : Nat := 0
  drawn  : Nat := 0
  expiry : Nat := 0
  lease  : Nat := 0
  ask    : Nat := 0                       -- bytes that the pending request asks for
  opid   : Nat := 0                       -- its OPID (R337)
  cmd    : Option (Nat × CUnit × Nat) := Option.none  -- the pmget that waits for the answer
deriving DecidableEq, Repr, Inhabited

/-- A request whose permit has been returned before the answer (R352, R354). -/
structure Ask where
  pmt  : Nat
  opid : Nat
  ask  : Nat
  pkg  : Nat
  rctx : Nat
  rten : Nat
  cmd  : Option (Nat × CUnit × Nat)
deriving DecidableEq, Repr, Inhabited

inductive KState where
  | none | loaded | launched | retired
deriving DecidableEq, Repr, Inhabited

/-- The group a kernel runs on (R275): shape, stages, and the physical core of each linear logical index. -/
structure Group where
  num : Nat := 0
  d   : Nat := 0
  c   : Nat := 0
  k   : Nat := 0
  s   : Nat := 1
  map : List (Nat × Nat) := []
deriving DecidableEq, Repr, Inhabited

inductive CtxState where
  | created | loaded | runnable | running | suspended | draining | destroyed
deriving DecidableEq, Repr, Inhabited

structure Ctx where
  tenant : Nat := 0
  atom   : Bool := false
  cmode  : Bool := false
  pcap   : Nat := 31
  fstop  : Bool := false
  state  : CtxState := .created
  adrop  : Nat := 0
  seed   : W64 := 0
  quota  : Nat := 0
  frseg  : W16 := 0
  frdepth : Nat := 0
  frtail : Nat := 0
  frhead : Nat := 0
  fsup   : Nat := 0
  fsupen : Bool := false
  backt  : Nat := 0
  savet  : Nat := 0
  energy : Nat := 0                      -- nJ; ENERGY is its value in µJ (R359)
  rega   : Nat := 0
  regb   : Nat := 0
  regs   : Nat := 0
  pendW  : List (Nat × Nat × Nat) := []  -- block writes that wait for a dispatch: first bit, width, value
  segs   : List (Nat × Seg) := []
  cells  : List (Nat × Cell) := []       -- logical cluster * 4096 + n
  permits : List (Nat × Permit) := []
  asks   : List Ask := []                 -- requests still under way of permits returned meanwhile
  pool   : Nat := 0
  bps    : List (Nat × W64) := []
  kstate : KState := .none
  image  : Option Image := Option.none
  imgid  : W32 := 0
  circ   : List (Nat × List (Nat × Nat)) := []  -- the circuit slot table as the load bound it: physical cores (R27, R276)
  kparams : List W64 := []
  group  : Group := {}
  kgroup : Bool := false                 -- a group exists
  ksegs  : List W16 := []                -- names of the segments the load created, in declaration order
  ktids  : List Nat := []
  ktask  : List (Nat × Nat) := []        -- energy of accounts 0..255 and kernel (256), nJ
  batches : List (List Nat × List Nat) := []  -- open recall batches: members, members not yet complete
  disp   : List (Nat × Nat × Nat × Nat) := []  -- dispensers: next index, COUNT, WIDTH
  frwait : List (FaultRec × Option Nat) := []  -- fault records that wait for room, with the core whose latch holds them
  preempting : Bool := false             -- a pre-emption whose last save is not complete (R93)
deriving DecidableEq, Repr, Inhabited

/-! ### Tasks, calendars, partitions -/

inductive TaskState where
  | posted | ready | pending | booked | starting | running | retiring | faulted | suspended
deriving DecidableEq, Repr, Inhabited

/-- A task control block as the dispatcher reads it (R270). -/
structure Tcb where
  entry  : Nat := 0
  window : Nat := 0
  timed  : Bool := false
  rpol   : Nat := 0
  cm     : Bool := false
  eacct  : Nat := 0
  nbook  : Nat := 0
  npin   : Nat := 0
  depid  : Nat := 0
  depcnt : Nat := 0
  nsucc  : Nat := 0
  succ   : List (Nat × Nat) := []        -- counter, cluster
  books  : List W64 := []
  pins   : List W16 := []
deriving DecidableEq, Repr, Inhabited

/-- A booking on a calendar (R280, R281): resource 0 sequencer to 7 Gander pipe, its core, MASK, first and last
quantum. -/
structure Booking where
  res  : Nat
  core : Nat
  mask : Nat
  lo   : Nat
  hi   : Nat
  ramp : Bool := false
deriving DecidableEq, Repr, Inhabited

structure Task where
  cid    : Nat
  id     : Nat
  serial : Nat := 0                       -- which card it is: two cards can carry one TASK (R273)
  clu    : Nat                            -- logical cluster
  prio   : Nat
  timed  : Bool
  release : Nat
  lkey   : Nat
  stage  : Nat
  cmask  : Nat
  tcbSeg : W16
  tcbOff : Nat
  launch : Bool := false
  state  : TaskState := .posted
  depCell : Option Nat := Option.none
  depRead : Bool := false
  readyAt : Nat := 0
  core   : Option Nat := Option.none      -- physical
  tcb    : Tcb := {}
  q      : Nat := 0
  w      : Nat := 0
  book   : List Booking := []
  dropped : Bool := false                 -- its last fit was dropped for a pin (R287 cause 3)
  susp   : Nat := 0                       -- slip cause while suspended: 4, 5 or 6
  left   : Nat := 0                       -- quanta of its window left after a pre-emption (R286)
  cuts   : List Nat := []                 -- the same of every pre-emption since its window was placed whole
  preempted : Bool := false
  pinned : Bool := false                  -- its pins are counted
  snap   : Option CoreSt := Option.none   -- what a save took (R103), while the task is saved
  snapOn : Nat := 0                       -- the physical core it was saved on
  saveAt : Option (Nat × Nat × Nat) := Option.none  -- tensor, first byte and list of the area that its save wrote
  rstb   : List Bool := []                -- RSTB of its outstanding records
  autow  : Bool := false                  -- waits under AUTO for a recall or a fetch
  waitSeg : List Nat := []
  waitPg : Option (Nat × Nat) := Option.none
  resume : Bool := false                  -- resumes on its core rather than starts
  tsub   : Option (Nat × CUnit × Nat) := Option.none  -- the tsub that waits for its outcome
deriving DecidableEq, Repr, Inhabited

structure SlipRec where
  frame : Nat := 0
  task  : Nat := 0
  cause : Nat := 0
  clu   : Nat := 0
  dur   : Nat := 0
deriving DecidableEq, Repr, Inhabited

structure Partition where
  tenant : Nat := 0
  cores  : List Nat := []
  f      : Nat := 0
  shares : List (Nat × Nat × Nat) := []   -- physical cluster, first granule, granules
  qshare : Nat := 0
  jshare : Nat := 0
  links  : List (Nat × Nat × Bool) := []
  pipes  : List (Nat × Nat) := []
  linkMap : List (Nat × Nat) := []        -- logical link to physical link (R276)
  circ   : List (Nat × List (Nat × Nat)) := []  -- the slot table compiled for the partition, in logical indices (R27)
  slip   : Option SlipRec := Option.none  -- the slip that lasts
  log    : List (Nat × SlipRec) := []
  slipCnt : Nat := 0
deriving DecidableEq, Repr, Inhabited

/-! ### Off-chip memory (R132 to R145) -/

structure Tensor where
  rank   : Nat := 1
  fmt    : Nat := 15
  blk    : Nat := 0
  tpol   : Nat := 0
  tenant : Nat := 0
  order  : List Nat := []
  pitch  : Nat := 0
  dims   : List Nat := []
  ttbase : Nat := 0
  npage  : Nat := 0
deriving DecidableEq, Repr, Inhabited

/-- A tile-table entry (R134) with the move it waits for. -/
structure Page where
  p     : Bool := false
  w     : Bool := false
  lg    : Bool := false
  psn   : Bool := false
  lp    : Bool := false                   -- TIER
  mov   : Bool := false
  pinc  : Nat := 0
  pfn   : Nat := 0
  age   : Nat := 0
  fetchq : Bool := false                  -- a fetch is queued behind the eviction
  waitPool : Bool := false                -- its fetch waits under POOL_FULL
  target : Option Nat := Option.none      -- the frame a move is filling
  forPage : Option (Nat × Nat) := Option.none  -- the page whose fetch this eviction makes room for
deriving DecidableEq, Repr, Inhabited

/-- What the device keeps of a page beside its 64-bit entry: the move under way, and the holders that PINC has no room for. -/
structure PageMove where
  fetchq : Bool := false
  waitPool : Bool := false
  target : Option Nat := Option.none
  forPage : Option (Nat × Nat) := Option.none
  more  : Nat := 0
deriving DecidableEq, Repr, Inhabited

/-- A notice for the fabric owner: what a guest of a virtualised tenant asked for (R140), an entry of a tile table or a tensor
descriptor; or a unit that failed (R355). -/
inductive Notice where
  | entry (tid page : Nat) (w : W64)
  | desc (tid : Nat) (d : TensorWrite)
  | clusterFailed (clu : Nat)             -- a cluster that failed self-test (R355)
  | stackFailed (stack : Nat)             -- an HBM stack that failed training three times (R355)
deriving DecidableEq, Repr, Inhabited

/-! ### Routing and fabric -/

/-- The routing state block of R319 as a slot holds it. -/
structure GBlock where
  nexp  : Nat := 0
  k     : Nat := 0
  nc    : Nat := 0
  cap   : Nat := 0
  ntok  : Nat := 0
  rowb  : Nat := 0
  choice : W64 := 0
  tokens : W64 := 0
  map   : W64 := 0
  counts : W64 := 0
  ovfl  : W64 := 0
  drops : W64 := 0
  inv   : W64 := 0
  ret   : W64 := 0
deriving DecidableEq, Repr, Inhabited

/-- A destination map entry (R322). -/
structure MapEnt where
  name   : W16 := 0
  remote : Bool := false
  pkg    : Nat := 0
  rctx   : Nat := 0
  pmt    : Nat := 0
  rten   : Nat := 0
  rrow   : Nat := 0
  rctr   : Nat := 0
  rccl   : Nat := 0
  sen    : Bool := false
  outn   : W16 := 0
  orow   : Nat := 0
deriving DecidableEq, Repr, Inhabited

inductive GState where
  | empty | configured | running | done | freeing | faulted | inverting
deriving DecidableEq, Repr, Inhabited

structure GSlot where
  state : GState := .empty
  cid   : Nat := 0
  blk   : GBlock := {}
  badx  : Bool := false
  cnt   : List (Nat × Nat) := []
  pass  : Nat := 0                        -- 0 none, 1 to 4 rank, 5 fallback
  token : Nat := 0
  rank  : Nat := 0                        -- j - 1 in the fallback pass
  novfl : Nat := 0
  ndrop : Nat := 0
  inv   : List (Nat × W64) := []          -- entries this dispatch has written, K * t + j - 1
  map   : List (Nat × MapEnt) := []
  held  : List Nat := []
  drew  : List Nat := []                  -- experts whose region has drawn its credit
  cmd   : Option (Nat × CUnit × Nat) := Option.none
  taskId : Nat := 0
  left  : Nat := 0                        -- return rows or acknowledgements still to come
  ever  : Bool := false                   -- a context has configured it; `cid` is the last that did
  got   : List (Nat × Bool) := []         -- return rows landed
  inverting : Bool := false               -- the command is an rtinv
  pins  : Option (List Nat) := Option.none -- the pins of the task of a timed dispatch (R121)
deriving DecidableEq, Repr, Inhabited

/-- A row packet (R326) with where it goes and whom it came from. -/
structure RowMsg where
  port   : Option (Nat × Nat × BitVec 128) := Option.none  -- the link it came on, its sequence number, its routing word as received
  net    : Nat := 64                      -- its virtual network; 64 + tenant inside the package
  srcPkg : Nat := 0
  srcCid : Nat := 0
  srcDie : Nat := 0
  srcSlot : Nat := 0
  tenant : Nat := 0
  ctx    : Nat := 0
  expert : Nat := 0
  slot   : Nat := 0
  token  : Nat := 0
  rank   : Nat := 0
  weight : Nat := 0
  fb     : Bool := false
  last   : Bool := false
  ret    : Bool := false
  free   : Bool := false
  pull   : Bool := false
  ack    : Bool := false
  aborted : Bool := false                 -- a free message of an abort, whose slot waits for no acknowledgement
  credit : Nat := 0                       -- of a free message: the bytes its region drew
  chunk  : Nat := 0
  dest   : MapEnt := {}
  rowb   : Nat := 0
  cap    : Nat := 0
  data   : List Byte := []
deriving DecidableEq, Repr, Inhabited

/-- A receive region (R327). -/
structure Region where
  srcPkg : Nat
  srcCid : Nat
  srcDie : Nat                            -- the die and the routing slot of the dispatch that opened it (R334)
  srcSlot : Nat
  expert : Nat
  die    : Nat
  cid    : Nat
  dest   : MapEnt
  rowb   : Nat
  cap    : Nat
  chunks : List (Nat × Bool) := []        -- slot * 16 + chunk landed
  bits   : List (Nat × Bool) := []
  last   : Option Nat := Option.none
  opened : Bool := false
  complete : Bool := false
  dropped : Bool := false
  tiles  : List (Nat × Nat) := []
  pages  : List (Nat × Nat) := []
deriving DecidableEq, Repr, Inhabited

/-- A scheduled packet in the buffer of its port, unclaimed (R341): sequence number, quantum of arrival, routing word as received. -/
structure Held where
  pkt : Packet
  seq : Nat
  at_ : Nat
  raw : BitVec 128
  found : Bool := false                   -- it has found a receive, which waits on a tile
deriving DecidableEq, Repr, Inhabited

/-- A link (R342, R343); STATE 0 DISABLED, 1 TRAINING, 2 UP, 3 RETRAIN, 4 FAILED. -/
structure Link where
  state  : Nat := 0
  sync   : Bool := false
  ld     : Nat := 0
  peer   : Nat := 0
  trains : Nat := 0
  crcerr : Nat := 0
  hcorr  : Nat := 0
  hunc   : Nat := 0
  replays : Nat := 0
  txSeq  : Nat := 0
  rxSeq  : Nat := 0
  ackSeq : Nat := 0                       -- the oldest flit sent and not acknowledged
  replay : List (Nat × Packet) := []      -- packets with a flit not acknowledged, by the sequence number of their header
  part   : Option (Packet × Nat) := Option.none  -- the packet that arrives, and how many of its flits have been taken
  resent : List (Nat × Nat) := []         -- sequence number of a flit, times replayed
  asks   : List Nat := []                 -- the sequence numbers its port has asked the peer to resend from, oldest first (R344)
  sched  : List Held := []                -- the scheduled buffer (R341)
  alt    : Option Nat := Option.none      -- the alternate route the fabric owner set
  waiting : List Packet := []             -- packets the port holds: the link is not UP, or its replay buffer is full
deriving DecidableEq, Repr, Inhabited

structure Orphan where
  frame : Nat
  link  : Nat
  cause : Nat
  seq   : Nat
  raw   : BitVec 128
deriving DecidableEq, Repr, Inhabited

inductive MStatus where
  | done | busy | refused | full | deferred | poolFull | exhausted
deriving DecidableEq, Repr, Inhabited

/-- A management command that a SYS packet brought, until its answer leaves: issuer, virtual network, OPID (R340). -/
structure MgmtReq where
  srce : Nat
  net  : Nat
  opid : Nat
  link : Option Nat := Option.none        -- the port whose buffer holds it, and its flits (R341)
  flits : Nat := 1
deriving DecidableEq, Repr, Inhabited

inductive PState where
  | dark | boot | bringup | service | fwfail
deriving DecidableEq, Repr, Inhabited

/-- What efld reports of an image it refuses: the check of R272 in the order of its table, the bundle, and the path to it. -/
structure LoadFail where
  check  : Nat
  bundle : Nat
  path   : List Nat
deriving DecidableEq, Repr, Inhabited

/-- The throttle (R231, R358). -/
structure Throttle where
  step   : Nat := 0
  cause  : Nat := 0
  frames : Nat := 0
  demP   : Nat := 0
  demT   : Nat := 0
  demC   : Nat := 0
  lowP   : Nat := 0                       -- consecutive frames at or below 95% of the cap
  lowT   : Nat := 0                       -- consecutive frames below 90 °C
  lowC   : Nat := 0                       -- consecutive frames at or below 2,000 W
  hist   : List Nat := []                 -- the boundaries whose frame was above 2,000 W within the last second
  count  : Nat := 0                       -- boundaries so far
  cap    : Nat := 2000
  floor  : Nat := 0
deriving DecidableEq, Repr, Inhabited

/-- One turn of the agenda: a core's next bundle, or another agent's step seen from a core. -/
inductive Turn where
  | core (c : Nat)
  | event (c : Nat) (i : Instr)
deriving DecidableEq, Repr, Inhabited

structure State where
  cur    : Nat := 0
  core   : CoreSt
  parked : List (Nat × CoreSt) := []
  away   : List (Nat × CoreSt) := []      -- core * 1024 + context: what a context left on a core that another has used since (R99)
  agenda : List Turn := []
  turns  : Nat := 0
  fresh  : Nat := 0
  mem    : Memory := []
  ctxs   : List (Nat × Ctx) := []
  tasks  : List Task := []
  parts  : List Partition := []
  frame  : Nat := 0
  qc     : Nat := 0
  sub    : Nat := 0                       -- the last cycle of the present quantum that a tick has seen (R167)
  throttle : Throttle := {}
  mons   : List (Nat × ClusterMon) := []
  ppwr   : Nat := 0
  pkge   : Nat := 0
  pstate : PState := .dark
  cstate : List (Nat × Nat) := []         -- cluster: 0 dark, 1 started, 2 passed, 3 failed
  hbm    : List (Nat × Nat) := []         -- stack: failed trainings * 4 + (0 training, 1 passed, 2 failed)
  firmware : List Byte := []
  leaf   : Nat := 0
  serial : W64 := 0
  vendorKey : List Byte := []             -- Nordihal's public key, and the package's own key, in security storage (R360)
  pkgKey : List Byte := []
  tensors : List (Nat × Tensor) := []
  badPages : List (Nat × Nat) := []       -- pages, by tensor and number, with a line that cannot be read where it stands (log 4)
  moves  : List (Nat × PageMove) := []    -- by the address of the entry; the entries themselves stand in the HBM tier (R134)
  poolSize : Nat := 0
  floors : List (Nat × Nat) := []
  dirtyH : List (Nat × Bool) × List (Nat × Bool) := ([], [])  -- active, frozen
  dirtyL : List (Nat × Bool) × List (Nat × Bool) := ([], [])
  splits : List (Nat × Nat) := []
  waitq  : List (Nat × Nat) := []         -- placements that wait for room, by context and segment, in request order (R117)
  dualm  : List (Nat × Nat) := []
  dcaches : List (Nat × List TEnt) := []
  virt   : List Nat := []
  notices : List Notice := []             -- for the fabric owner, oldest first (R140)
  guestT : List (Nat × W64) := []         -- a guest's own table, as its hypervisor keeps it: tensor * 2^32 + page (R140)
  pqueues : List (Nat × List (BitVec 512 × Nat)) := []  -- tenant * 16 + queue: cards with their context
  pqnext : List (Nat × Nat) := []
  qopen  : List Nat := []                 -- tenants whose queues are OPEN (R263)
  cards  : Nat := 0                       -- cards that cluster queues have taken, and launch cards
  lateBooks : List (Nat × Booking) := []  -- bookings that outlive their task for the quantum in course, by tenant (R285)
  bins   : List (Nat × Nat × Nat) := []   -- (cluster * 16 + tenant) * 32 + level: bin, run
  gslots : List (Nat × GSlot) := []       -- die * 16 + slot
  gwait  : List (Nat × Nat × CUnit × Nat) := []  -- commands that wait for a pipe, in arrival order: die * 4 + pipe, core, unit, id (R317)
  regions : List Region := []
  rowIn  : List RowMsg := []              -- row packets in flight to this package's Ganders
  links  : List (Nat × Link) := []
  sent   : List (Nat × FlitIn) := []      -- what has left on the links, oldest first
  orphans : List Orphan := []
  groups : List (Nat × List (Nat × Nat)) := []  -- tenant * 64 + group: (package, context) in ring order
  tenMap : List (Nat × Nat) := []         -- package tenant: fabric tenant + 1; unlisted: itself
  colls  : List (Nat × Nat) := []         -- collectives started on a group, by tenant * 64 + group (R350)
  timeRoot : Option Nat := Option.none    -- the package that the fabric owner names (R339)
  mgmtIn : List MgmtReq := []             -- commands taken from SYS packets, in order of arrival (R340)
  splitIn : List ((Nat × Nat) × MgmtReq) := []  -- the same of TSPLITs that have begun
  peers  : List (Nat × Nat) := []
  opids  : Nat := 0                       -- requests of permits so far, from which they take their OPIDs
  pkg    : Nat := 0                       -- this package's endpoint number
  signals : List Signal := []
  status : Option MStatus := Option.none
  out    : List Byte := []                -- what the last MRD or ATTEST returned
  loadFail : Option LoadFail := Option.none  -- the first check of R272 that the last refused image failed
deriving DecidableEq, Repr, Inhabited

/-- What a bundle of the instruction store holds where no image lies: a header whose HK is 3 (R46; log 1). -/
def fillBundle : BitVec 256 := BitVec.ofNat 256 (3 * 2 ^ 232)

/-- The sticky format register at reset: FP32 throughout, RNE (R49). -/
def fmtReset : BitVec 40 := BitVec.ofNat 40 (15 * 2 ^ 35 + 15 * 2 ^ 30 + 15 * 2 ^ 25 + 15 * 2 ^ 20)

/-- A core before any context has issued on it (log 1). -/
def CoreSt.reset : CoreSt := { fmt := fmtReset }

/-- The package right after reset: power off, nothing configured (R355; log 1, 2, 3). -/
def State.reset : State := { core := CoreSt.reset }

end Sys2Proof.Machine
end

