-- ==== Sys2Proof/Machine/Mem.lean ====
section
/-! DEFINITION. Bytes of the one flat address space of log 2, the core in focus, and records by number: cores,
contexts, partitions, tensors, pages, cells. -/

namespace Sys2Proof.Machine

/-! ### Memory -/

/-- The canonical form: addresses rise strictly and no entry equals what an unlisted byte reads as. -/
def Memory.wf (m : Memory) : Bool := swf (0 : Byte) m

def Memory.get (m : Memory) (a : Nat) : Byte := sget 0 m a

def Memory.set (m : Memory) (a : Nat) (b : Byte) : Memory := sset 0 m a b

def Memory.read (m : Memory) (a n : Nat) : List Byte := (List.range n).map (fun i => m.get (a + i))

def Memory.write : Memory → Nat → List Byte → Memory
  | m, _, [] => m
  | m, a, b :: bs => Memory.write (m.set a b) (a + 1) bs

/-- Bytes a to a + n − 1 become zero. -/
def Memory.clear (m : Memory) (a n : Nat) : Memory := m.filter (fun p => !(decide (a ≤ p.1) && decide (p.1 < a + n)))

/-- The listed bytes of a range, at their distance from its start. -/
def Memory.slice (m : Memory) (a n : Nat) : List (Nat × Byte) :=
  (m.filter (fun p => decide (a ≤ p.1) && decide (p.1 < a + n))).map (fun p => (p.1 - a, p.2))

def Memory.lay (m : Memory) (a : Nat) (l : List (Nat × Byte)) : Memory :=
  l.foldl (fun m p => m.set (a + p.1) p.2) m

/-- Copies n bytes; the ranges can overlap (R119). -/
def Memory.copy (m : Memory) (src dst n : Nat) : Memory := (m.clear dst n).lay dst (m.slice src n)

/-- The segment store of a physical cluster starts here (24 MiB in 32 MiB of the flat space). -/
def storeAddr (clu : Nat) : Nat := clu * 2 ^ 25

/-- A page frame of the HBM tier or the LP tier (R134). -/
def frameAddr (lp : Bool) (pfn : Nat) : Nat := (if lp then 2 ^ 42 else 2 ^ 40) + pfn * 65536

/-! ### Cores -/

def State.upd (s : State) (f : CoreSt → CoreSt) : State := { s with core := f s.core }

def State.getCore (s : State) (c : Nat) : CoreSt :=
  if c = s.cur then s.core else (alook s.parked c).getD CoreSt.reset

def State.onCore (s : State) (c : Nat) (f : CoreSt → CoreSt) : State :=
  if c = s.cur then { s with core := f s.core } else { s with parked := aput s.parked c (f (s.getCore c)) }

/-- Puts core c in focus; nothing of the machine changes. -/
def State.focus (s : State) (c : Nat) : State :=
  if c = s.cur then s
  else { s with cur := c, core := s.getCore c, parked := adel (aput s.parked s.cur s.core) c }

/-- A fresh number for the model's own free values (log 5). -/
def State.tickFresh (s : State) : State := { s with fresh := s.fresh + 1 }

/-! ### Contexts -/

def State.ctx (s : State) (cid : Nat) : Ctx := (alook s.ctxs cid).getD {}

def State.onCtx (s : State) (cid : Nat) (f : Ctx → Ctx) : State :=
  match alook s.ctxs cid with
  | some c => { s with ctxs := aput s.ctxs cid (f c) }
  | none => s

/-- The context of the task on the core in focus. -/
def State.cid (s : State) : Nat := s.core.task.cid

def State.me (s : State) : Ctx := s.ctx s.cid

/-- The linear logical index of a core, from its coordinate word (R11). -/
def linOf (coord : W32) : Nat := fld coord 6 2 * 64 + fld coord 2 4 * 4 + fld coord 0 2

/-- The logical cluster DIE × 16 + CLU of a core (R112). -/
def cluOf (coord : W32) : Nat := fld coord 6 2 * 16 + fld coord 2 4

def State.lin (s : State) : Nat := linOf s.core.coord
def State.lclu (s : State) : Nat := cluOf s.core.coord

/-- The physical core a linear logical index is bound to (R10, R276). -/
def Group.phys (g : Group) (lin : Nat) : Option Nat := alook g.map lin

/-- The physical cluster of a logical cluster. -/
def Group.pclu (g : Group) (lclu : Nat) : Nat :=
  match g.map.find? (fun p => p.1 / 4 = lclu) with
  | some p => p.2 / 4
  | none => lclu

/-- Whether a logical cluster lies in the group (R275). -/
def Group.hasClu (g : Group) (lclu : Nat) : Bool := g.map.any (fun p => p.1 / 4 = lclu)

/-- The logical index of a physical core, 0 for a core outside the group. -/
def Group.linOfPhys (g : Group) (c : Nat) : Nat :=
  match g.map.find? (fun p => p.2 = c) with
  | some p => p.1
  | none => 0

/-- The first core in the map of a cluster of the group, where an event that needs a core is seen from. -/
def Group.cores (g : Group) : List Nat := g.map.map (·.2)

/-! ### Service (R355) -/

/-- The management window serves commands: the package is in BRINGUP or SERVICE (R355). -/
def State.serving (s : State) : Bool := s.pstate = .bringup || s.pstate = .service

/-! ### Partitions and clocks -/

def State.partOf (s : State) (tenant : Nat) : Option Partition := s.parts.find? (fun p => p.tenant = tenant)

def State.onPart (s : State) (tenant : Nat) (f : Partition → Partition) : State :=
  { s with parts := s.parts.map (fun p => if p.tenant = tenant then f p else p) }

/-- The partition frame counter F of a tenant (R279). -/
def State.frameOf (s : State) (tenant : Nat) : Nat :=
  match s.partOf tenant with
  | some p => p.f
  | none => 0

/-- The frame tick a context's records and AGE fields carry. -/
def State.frameCtx (s : State) (cid : Nat) : Nat := s.frameOf (s.ctx cid).tenant

/-! ### Tensors -/

def State.tensor (s : State) (tid : Nat) : Option Tensor := alook s.tensors tid

def pageKey (tid page : Nat) : Nat := tid * 2 ^ 32 + page

/-- Sets a dirty bit in the active bitmap of a tier (R142). -/
def State.dirty (s : State) (lp : Bool) (pfn : Nat) : State :=
  if lp then { s with dirtyL := (sset false s.dirtyL.1 pfn true, s.dirtyL.2) }
  else { s with dirtyH := (sset false s.dirtyH.1 pfn true, s.dirtyH.2) }

/-- An entry as R134 lays it out. -/
def Page.word (p : Page) : Nat :=
  pack [(0, 1, b2n p.p), (1, 1, b2n p.w), (2, 1, b2n p.lg), (3, 1, b2n p.psn), (4, 1, b2n p.lp), (5, 1, b2n p.mov), (8, 8, p.pinc),
        (16, 25, p.pfn), (41, 23, p.age)]

/-- A page as its entry and what the device keeps beside it say. -/
def Page.ofWord (w : Nat) (m : PageMove) : Page :=
  { p := nfld w 0 1 = 1, w := nfld w 1 1 = 1, lg := nfld w 2 1 = 1, psn := nfld w 3 1 = 1, lp := nfld w 4 1 = 1, mov := nfld w 5 1 = 1,
    pinc := nfld w 8 8 + 256 * m.more, pfn := nfld w 16 25, age := nfld w 41 23, fetchq := m.fetchq, waitPool := m.waitPool,
    target := m.target, forPage := m.forPage }

/-- What of a page its entry does not hold. -/
def Page.move (p : Page) : PageMove :=
  { fetchq := p.fetchq, waitPool := p.waitPool, target := p.target, forPage := p.forPage, more := p.pinc / 256 }

/-- Frames of the HBM tier: 64 GB fewer for every stack that failed (R355). -/
def State.hbmFrames (s : State) : Nat := Config.hbmFrames - 1048576 * (s.hbm.filter (fun x => x.2 % 4 = 2)).length

/-- The byte of the HBM tier where entry `page` of a tile table stands; none for an entry the table does not have, or past the
tier (R132, R134). -/
def State.entryAt (s : State) (t : Tensor) (page : Nat) : Option Nat :=
  if page < t.npage ∧ t.ttbase + 8 * page + 8 ≤ s.hbmFrames * 65536 then some (t.ttbase + 8 * page) else none

/-- A page whose frame went with a failed stack is not present (R355; log 17). -/
def Page.within (p : Page) (frames : Nat) : Page := if p.p && !p.lp && decide (frames ≤ p.pfn) then { p with p := false } else p

/-- An entry of the HBM tier at a byte address. -/
def State.entryPage (s : State) (a : Nat) : Page :=
  (Page.ofWord (natLE (s.mem.read (frameAddr false 0 + a) 8)) (sget {} s.moves a)).within s.hbmFrames

/-- Page n of a tensor, read from its tile table. -/
def State.page (s : State) (tid page : Nat) : Page :=
  match (s.tensor tid).bind (fun t => s.entryAt t page) with
  | some a => s.entryPage a
  | none => {}

/-- An entry is written where it changes: a write of the HBM tier (R134, R142). -/
def State.putEntry (s : State) (a : Nat) (p : Page) : State :=
  let s : State := { s with moves := sset {} s.moves a p.move }
  if natLE (s.mem.read (frameAddr false 0 + a) 8) = p.word then s
  else { s with mem := s.mem.write (frameAddr false 0 + a) (bytesLE 8 p.word) }.dirty false (a / 65536)

def State.onPage (s : State) (tid page : Nat) (f : Page → Page) : State :=
  match (s.tensor tid).bind (fun t => s.entryAt t page) with
  | some a => s.putEntry a (f (s.entryPage a))
  | none => s

/-- The pages of a tensor whose entries are not all zeros. -/
def State.pagesIn (s : State) (t : Tensor) : List Nat :=
  let lo := frameAddr false 0 + t.ttbase
  (((s.mem.filter (fun x => decide (lo ≤ x.1) && decide (x.1 < lo + 8 * t.npage))).map (fun x => (x.1 - lo) / 8)).eraseDups).filter
    (fun p => (s.entryAt t p).isSome)

/-- Every such page of the package: tensor, page number, page. -/
def State.pages (s : State) : List (Nat × Nat × Page) :=
  s.tensors.flatMap (fun t => (s.pagesIn t.2).map (fun p => (t.1, p, s.page t.1 p)))

/-- Whether an entry names a frame: present, moving, or away in the LP tier (R135). -/
def Page.mapped (p : Page) : Bool := p.p || p.mov || p.lp || p.psn

/-- The address of a page's frame: while a move runs, the frame the page is leaving. -/
def Page.addr (p : Page) : Nat := frameAddr p.lp p.pfn

/-- Bytes of a tensor's linear layout; a page with no frame reads as zeros (log 10). -/
def State.tensorRead (s : State) (tid : Nat) : Nat → Nat → List Byte
  | _, 0 => []
  | off, n + 1 =>
    let p := s.page tid (off / 65536)
    (if p.mapped then s.mem.get (p.addr + off % 65536) else 0) :: s.tensorRead tid (off + 1) n

/-- Writes bytes of a tensor's linear layout; a page with no frame takes nothing (log 10). -/
def State.tensorWrite (tid : Nat) : State → Nat → List Byte → State
  | s, _, [] => s
  | s, off, b :: bs =>
    let p := s.page tid (off / 65536)
    let s' :=
      if p.mapped then { s with mem := s.mem.set (p.addr + off % 65536) b }.dirty p.lp p.pfn else s
    State.tensorWrite tid s' (off + 1) bs

/-- Copies a range of on-chip bytes into a tensor page by page, sparsely. -/
def State.toTensor (tid : Nat) (s : State) (addr off n : Nat) : State :=
  let first := off / 65536
  let last := (off + n - 1) / 65536
  if n = 0 then s
  else
    (List.range (last + 1 - first)).foldl (fun s k =>
      let pg := first + k
      let lo := max off (pg * 65536)
      let hi := min (off + n) ((pg + 1) * 65536)
      let p := s.page tid pg
      if p.mapped then
        { s with mem := s.mem.copy (addr + (lo - off)) (p.addr + lo % 65536) (hi - lo) }.dirty p.lp p.pfn
      else s) s

/-- Copies a range of a tensor to on-chip bytes. -/
def State.fromTensor (tid : Nat) (s : State) (addr off n : Nat) : State :=
  let first := off / 65536
  let last := (off + n - 1) / 65536
  if n = 0 then s
  else
    (List.range (last + 1 - first)).foldl (fun s k =>
      let pg := first + k
      let lo := max off (pg * 65536)
      let hi := min (off + n) ((pg + 1) * 65536)
      let p := s.page tid pg
      if p.mapped then { s with mem := s.mem.copy (p.addr + lo % 65536) (addr + (lo - off)) (hi - lo) }
      else { s with mem := s.mem.clear (addr + (lo - off)) (hi - lo) }) s

/-! ### Signals (R296) -/

def State.signal (s : State) (x : Signal) : State := { s with signals := s.signals ++ [{ x with sent := s.turns }] }

/-- A decrement by one of counter n of a logical cluster of a context on its way from something in logical cluster `src` that is no core,
or in none (64). -/
def State.sendDec (s : State) (cid clu n src : Nat) : State :=
  s.signal { cid := cid, clu := clu, n := n, kind := .dec 1, src := src, core := 256 }

end Sys2Proof.Machine
end

