-- ==== Sys2Proof/Machine/Hazel.lean ====
section
/-! DEFINITION. The Hazel unit and the segment table (06_segment): names, room, pressure, push-out, recall and
compaction (R111 to R119), acquisition and tiles (R120 to R123), salloc, sfree, sstat, stouch, spush (R124 to R130).
Pushes, moves and recalls end in turns of their own. -/

namespace Sys2Proof.Machine

/-! ### Names (R111) -/

def nameIdx (n : W16) : Nat := fld n 0 12
def nameGen (n : W16) : Nat := fld n 12 4

def segName (idx gen : Nat) : W16 := BitVec.ofNat 16 (gen * 4096 + idx)

def Ctx.seg (c : Ctx) (idx : Nat) : Seg := (alook c.segs idx).getD {}

/-- A name whose GEN differs from its descriptor's, or whose descriptor is FREE. -/
def Ctx.stale (c : Ctx) (n : W16) : Bool :=
  (c.seg (nameIdx n)).state = .free || (c.seg (nameIdx n)).gen ≠ nameGen n

def Ctx.setSeg (c : Ctx) (idx : Nat) (g : Seg) : Ctx := { c with segs := aput c.segs idx g }

def State.seg (s : State) (cid idx : Nat) : Seg := (s.ctx cid).seg idx

def State.onSeg (s : State) (cid idx : Nat) (f : Seg → Seg) : State :=
  s.onCtx cid (fun c => c.setSeg idx (f (c.seg idx)))

def SegState.num : SegState → Nat
  | .free => 0
  | .resident => 1
  | .moving => 2
  | .pushing => 3
  | .away => 4
  | .recalling => 5
  | .poisoned => 6

/-- AWAY, RECALLING or PUSHING (R121). -/
def SegState.absent (st : SegState) : Bool := st = .away || st = .recalling || st = .pushing

/-- A push, a recall that holds storage, or a move is under way (R115). -/
def Seg.busy (g : Seg) : Bool := g.state = .pushing || g.state = .moving || (g.state = .recalling && g.placed)

def Seg.name (g : Seg) (idx : Nat) : W16 := segName idx g.gen

/-! ### Tiles (R122, R123) -/

def TileSt.num : TileSt → Nat
  | .empty => 0
  | .filling => 1
  | .ready => 2
  | .draining => 3

/-- The tile-table entry as R122 lays it out. -/
def Tile.word (t : Tile) : Nat := pack [(0, 2, t.st.num), (2, 4, t.unit), (6, 8, t.core)]

def Seg.ntiles (g : Seg) : Nat := max 1 (cdiv (g.size * 64) 16384)

/-- A segment that was never created has no tile set: its entries hold their reset value, EMPTY (R122). -/
def Seg.tile (g : Seg) (t : Nat) : Tile := if g.size = 0 then { st := .empty } else sget {} g.tiles t

def Seg.setTile (g : Seg) (t : Nat) (x : Tile) : Seg := { g with tiles := sset {} g.tiles t x }

/-- The tiles that n bytes from an offset cover. -/
def tileSpan (off n : Nat) : List Nat :=
  if n = 0 then [] else (List.range ((off + n - 1) / 16384 + 1 - off / 16384)).map (· + off / 16384)

/-- Whether R123 lets an access of a slot, or of an engine operation that set no tile, pass. -/
def Tile.slotOk (t : Tile) (write : Bool) : Bool :=
  match t.st with
  | .ready => true
  | .draining => !write
  | _ => false

def Seg.tilesOk (g : Seg) (off n : Nat) (write : Bool) : Bool :=
  (tileSpan off n).all (fun t => (g.tile t).slotOk write)

/-! ### Storage (R112, R116, R293) -/

def State.segAddr (s : State) (cid idx off : Nat) : Nat :=
  let c := s.ctx cid
  storeAddr (c.group.pclu (c.seg idx).home) + (c.seg idx).base * 64 + off

def Seg.counted (g : Seg) : Bool :=
  g.freep || (match g.state with
    | .resident | .moving | .pushing | .recalling | .poisoned => true
    | _ => false)

/-- Granules counted against QUOTA (R116), leaving out one segment. -/
def Ctx.used (c : Ctx) (skip : Option Nat) : Nat :=
  c.segs.foldl (fun n p => if p.2.counted && some p.1 ≠ skip then n + p.2.size else n) 0

/-- The granules in use in a tenant's share of a physical cluster, as (base, size). -/
def State.spans (s : State) (tenant pclu : Nat) (skip : Option (Nat × Nat)) : List (Nat × Nat) :=
  s.ctxs.flatMap (fun c =>
    if c.2.tenant ≠ tenant then []
    else c.2.segs.flatMap (fun g =>
      if g.2.placed && c.2.group.pclu g.2.home = pclu && some (c.1, g.1) ≠ skip then
        (g.2.base, g.2.size) :: (if g.2.state = .moving then [(g.2.newBase, g.2.size)] else [])
      else []))

/-- The tenant's share of a store without the cells of its loaded kernels (R97, R293): first granule and end. -/
def State.share (s : State) (tenant pclu : Nat) : Nat × Nat :=
  match s.partOf tenant with
  | none => (0, 0)
  | some p =>
    match p.shares.find? (fun x => x.1 = pclu) with
    | none => (0, 0)
    | some x =>
      let cells := (s.ctxs.filter (fun c =>
        c.2.tenant = tenant && c.2.kgroup && c.2.group.map.any (fun m => m.2 / 4 = pclu))).length * 1024
      (x.2.1, x.2.1 + (x.2.2 - cells))

def spanFree (spans : List (Nat × Nat)) (b n : Nat) : Bool := spans.all (fun x => x.1 + x.2 ≤ b || b + n ≤ x.1)

/-- The lowest base of n free granules in [lo, hi). -/
def firstFit (spans : List (Nat × Nat)) (lo hi n : Nat) : Option Nat :=
  let cands := (lo :: spans.map (fun x => x.1 + x.2)).filter (fun b => lo ≤ b && b + n ≤ hi && spanFree spans b n)
  cands.min?

/-- First fit in the home store as it stands, with the context's quota (R115). -/
def State.room (s : State) (cid home n : Nat) (self : Option Nat) : Option Nat :=
  let c := s.ctx cid
  if c.used self + n ≤ c.quota then
    let pclu := c.group.pclu home
    let sh := s.share c.tenant pclu
    firstFit (s.spans c.tenant pclu none) sh.1 sh.2 n
  else none

/-- The backing tensor of a context, or none: BACKT has to name a tensor of its tenant (R125). -/
def State.backing (s : State) (cid : Nat) : Option (Nat × Tensor) :=
  let c := s.ctx cid
  match s.tensor c.backt with
  | some t => if t.tenant = c.tenant then some (c.backt, t) else none
  | none => none

/-- Backing granules in use, of every context that backs into the tensor; one that names a tensor of another tenant has no backing and
takes none (R125). -/
def State.backSpans (s : State) (tid : Nat) : List (Nat × Nat) :=
  s.ctxs.flatMap (fun c =>
    if !(s.backing c.1).any (fun b => b.1 = tid) then []
    else (c.2.segs.filter (fun g => g.2.state ≠ .free)).map (fun g => (g.2.bkoff, g.2.size)))

/-- A place for n granules in the backing tensor: any that is free, the choice being open (log 5). Its granules are contiguous, and without a
run of n the tensor lacks room, though R125 only counts free granules (DESIGN CHOICE, log 17). -/
def State.backPlace (s : State) (cid n : Nat) : Option Nat :=
  match s.backing cid with
  | none => some 0
  | some (tid, t) =>
    let sp := s.backSpans tid
    let total := t.npage * 1024
    let h := Config.freeNat s.fresh % (total + 1)
    if h + n ≤ total ∧ spanFree sp h n then some h else firstFit sp 0 total n

/-! ### Pressure, push-out and recall (R115 to R118) -/

def Seg.eligible (g : Seg) (frame : Nat) : Bool :=
  g.state = .resident && g.pin = 0 && g.inb = 0 && decide (g.rframe + 4 ≤ frame)

/-- The push of a RESIDENT segment starts; with DISCARD no data is written and a recall will fill zeros. -/
def State.startPush (s : State) (cid idx : Nat) (discard : Bool) (sigs : List (Nat × Nat)) : State :=
  s.onSeg cid idx (fun g =>
    { g with state := .pushing, zero := g.zero || discard, discard := discard, pushSig := g.pushSig ++ sigs })

/-- The victim of R117: the eligible segment of the context and home with the smallest AGE, then INDEX. -/
def State.victim (s : State) (cid home : Nat) : Option Nat :=
  let c := s.ctx cid
  let f := s.frameCtx cid
  let el := if (s.backing cid).isNone then [] else c.segs.filter (fun g => g.2.home = home && g.2.eligible f)
  (el.foldl (fun best g =>
    match best with
    | none => some (g.2.age, g.1)
    | some b => if g.2.age < b.1 then some (g.2.age, g.1) else best) none).map (·.2)

/-- Whether a compaction of the share is under way. -/
def State.compacting (s : State) (tenant pclu : Nat) : Bool :=
  s.ctxs.any (fun c => c.2.tenant = tenant &&
    c.2.segs.any (fun g => g.2.state = .moving && c.2.group.pclu g.2.home = pclu))

/-- The RESIDENT segments of a share with no PIN and no INB, in ascending order of BASE (R119). -/
def State.movables (s : State) (tenant pclu : Nat) : List (Nat × Nat × Nat × Nat) :=
  let l := s.ctxs.flatMap (fun c =>
    if c.2.tenant ≠ tenant then []
    else (c.2.segs.filter (fun g => g.2.placed && g.2.state = .resident && g.2.pin = 0 && g.2.inb = 0 &&
      c.2.group.pclu g.2.home = pclu)).map (fun g => (g.2.base, g.2.size, c.1, g.1)))
  sortBy (fun a b => decide (a.1 < b.1)) l

/-- The next move of a compaction: the lowest segment that can move down, with its new base. -/
def State.nextMove (s : State) (tenant pclu : Nat) : Option (Nat × Nat × Nat) :=
  let sh := s.share tenant pclu
  (s.movables tenant pclu).findSome? (fun m =>
    match firstFit (s.spans tenant pclu (some (m.2.2.1, m.2.2.2))) sh.1 sh.2 m.2.1 with
    | some b => if b < m.1 then some (m.2.2.1, m.2.2.2, b) else none
    | none => none)

/-- The next segment of a compaction starts to move (R119). -/
def State.startMove (s : State) (m : Nat × Nat × Nat) : State :=
  s.onSeg m.1 m.2.1 (fun g => { g with state := .moving, newBase := m.2.2 })

/-- One RFRAME for a recall batch whose last member completes (R118); a member that is freed leaves its batches. Where that ends a batch,
RFRAME is the frame of the free: R118 gives only that of a completion (DESIGN CHOICE, log 17). -/
def State.batchDone (s : State) (cid idx : Nat) (freed : Bool) : State :=
  let f := s.frameCtx cid
  let c := s.ctx cid
  let bs := c.batches.map (fun b => (if freed then b.1.filter (· ≠ idx) else b.1, b.2.filter (· ≠ idx)))
  let full := (bs.filter (fun b => b.2.isEmpty)).flatMap (·.1)
  (full.foldl (fun s i => s.onSeg cid i (fun g => if g.state = .free then g else { g with rframe := f })) s).onCtx cid
    (fun c => { c with batches := bs.filter (fun b => !b.2.isEmpty) })

/-- The storage, quota and backing space of a segment are released and its index is FREE (R115). -/
def State.freeSeg (s : State) (cid idx : Nat) : State :=
  let s := s.onSeg cid idx (fun g => { gen := g.gen, age := g.age, life := g.life + 1 })
  { s with waitq := s.waitq.filter (fun w => w ≠ (cid, idx)) }.batchDone cid idx true

/-- A segment becomes RESIDENT: stouch counters are decremented and AGE moves with them (R128). -/
def State.becameResident (s : State) (cid idx : Nat) : State :=
  let g := s.seg cid idx
  let f := s.frameCtx cid
  let s := s.onSeg cid idx (fun g =>
    { g with state := .resident, recSig := [], age := if g.recSig.isEmpty then g.age else f })
  g.recSig.foldl (fun s x => if x.2 < 4096 then s.sendDec cid x.1 x.2 g.home else s) s

/-- A move ends: the granules are at the new base, and a poisoned or freed segment goes on to its state (R115). -/
def State.moveEnd (s : State) (cid idx : Nat) : State :=
  let c := s.ctx cid
  let g := c.seg idx
  let src := s.segAddr cid idx 0
  let s := { s with mem := s.mem.copy src (storeAddr (c.group.pclu g.home) + g.newBase * 64) (g.size * 64) }
  let s := s.onSeg cid idx (fun g =>
    { g with base := g.newBase, newBase := 0, poisonNext := false, state := if g.poisonNext then .poisoned else .resident })
  if g.freep ∧ g.pin = 0 ∧ g.inb = 0 then s.freeSeg cid idx
  else if g.poisonNext then s
  else s.becameResident cid idx

/-- A segment of a share that is MOVING. -/
def State.movingIn (s : State) (tenant pclu : Nat) : Option (Nat × Nat) :=
  s.ctxs.findSome? (fun c =>
    if c.2.tenant ≠ tenant then none
    else (c.2.segs.find? (fun g => g.2.state = .moving && c.2.group.pclu g.2.home = pclu)).map (fun g => (c.1, g.1)))

/-- A compaction of a share run to its end: what its turns do, one after the other. -/
def State.compacted (tenant pclu : Nat) : Nat → State → State
  | 0, s => s
  | n + 1, s =>
    match s.movingIn tenant pclu with
    | some m => State.compacted tenant pclu n (s.moveEnd m.1 m.2)
    | none =>
      match s.nextMove tenant pclu with
      | some m => State.compacted tenant pclu n (s.startMove m)
      | none => s

/-- Steps enough for every segment of the tenant to move. -/
def State.compactFuel (s : State) (tenant : Nat) : Nat :=
  2 * (s.ctxs.foldl (fun n c => if c.2.tenant = tenant then n + c.2.segs.length else n) 0) + 2

/-- The store of a home after its compaction. -/
def State.afterCompaction (s : State) (cid home : Nat) : State :=
  let c := s.ctx cid
  State.compacted c.tenant (c.group.pclu home) (s.compactFuel c.tenant) s

/-- Room as R115 has it, possibly after compaction: the store in which a first fit exists, and its base (log 27). -/
def State.makeRoom (s : State) (cid home n : Nat) (self : Option Nat) : Option (State × Nat) :=
  match s.room cid home n self with
  | some b => some (s, b)
  | none =>
    let t := s.afterCompaction cid home
    (t.room cid home n self).map (fun b => (t, b))

def State.dropWait (s : State) (w : Nat × Nat) : State := { s with waitq := s.waitq.filter (· ≠ w) }

/-- A waiting placement gets its place (R118). -/
def State.placeAt (s : State) (cid idx b : Nat) : State :=
  (s.onSeg cid idx (fun g => { g with base := b, placed := true })).dropWait (cid, idx)

/-- Serves the placements that wait in a tenant's share of a physical cluster, in request order, until one lacks room;
then a compaction starts if it makes that room, else a push, unless one is under way (R117, R119). -/
def State.pumpGo (tenant pclu : Nat) : List (Nat × Nat) → State → State
  | [], s => s
  | (cid, i) :: q, s =>
    let c := s.ctx cid
    let g := c.seg i
    if c.tenant ≠ tenant ∨ c.group.pclu g.home ≠ pclu then State.pumpGo tenant pclu q s
    else if g.state ≠ .recalling || g.placed then State.pumpGo tenant pclu q (s.dropWait (cid, i))
    else
      match s.room cid g.home g.size (some i) with
      | some b => State.pumpGo tenant pclu q (s.placeAt cid i b)
      | none =>
        match s.makeRoom cid g.home g.size (some i), s.nextMove tenant pclu with
        | some _, some m => s.startMove m
        | _, _ =>
          if c.segs.any (fun x => x.2.home = g.home && x.2.state = .pushing) then s
          else
            match s.victim cid g.home with
            | some v => s.startPush cid v false []
            | none => s

def State.pump (s : State) (tenant pclu : Nat) : State :=
  if s.compacting tenant pclu then s else State.pumpGo tenant pclu s.waitq s

/-- The share that a segment's placement is in. -/
def State.pumpFor (s : State) (cid idx : Nat) : State :=
  let c := s.ctx cid
  s.pump c.tenant (c.group.pclu (c.seg idx).home)

/-- One step of the compaction of a share (R119): the next segment starts to move, or, when none can, the waiting
placements are served. -/
def State.compact (s : State) (tenant pclu : Nat) : State :=
  if s.compacting tenant pclu then s
  else
    match s.nextMove tenant pclu with
    | some m => s.startMove m
    | none => s.pump tenant pclu

/-- A recall starts: with room now the segment is placed at once, else it waits behind the earlier ones (R117, R118). -/
def State.startRecall (s : State) (cid idx : Nat) : State :=
  let s := s.onSeg cid idx (fun g => { g with state := .recalling, rq := false })
  let g := s.seg cid idx
  match s.room cid g.home g.size (some idx) with
  | some b => s.placeAt cid idx b
  | none => { s with waitq := s.waitq ++ [(cid, idx)] }.pumpFor cid idx

/-- Requests one recall batch (R118, R121): AWAY starts RECALLING, PUSHING queues a recall, RECALLING joins. -/
def State.requestRecall (s : State) (cid : Nat) (idxs : List Nat) : State :=
  if idxs.isEmpty then s
  else
    let s := s.onCtx cid (fun c => { c with batches := c.batches ++ [(idxs, idxs)] })
    idxs.foldl (fun s i =>
      match (s.seg cid i).state with
      | .away => s.startRecall cid i
      | .pushing => s.onSeg cid i (fun g => { g with rq := true })
      | _ => s) s

/-- A segment is freed, and the share is compacted (R115, R119). -/
def State.freeNow (s : State) (cid idx : Nat) : State :=
  let c := s.ctx cid
  (s.freeSeg cid idx).compact c.tenant (c.group.pclu (c.seg idx).home)

/-- After a PIN or INB count fell (R115, R117). -/
def State.countFell (s : State) (cid idx : Nat) : State :=
  let g := s.seg cid idx
  if g.pin = 0 ∧ g.inb = 0 then
    if g.freep ∧ ¬ g.busy then s.freeNow cid idx else s.pumpFor cid idx
  else s

def State.dropInb (s : State) (cid idx : Nat) : State :=
  (s.onSeg cid idx (fun g => { g with inb := g.inb - 1 })).countFell cid idx

def State.dropPin (s : State) (cid idx : Nat) : State :=
  (s.onSeg cid idx (fun g => { g with pin := g.pin - 1 })).countFell cid idx

/-! ### The ends of pushes, moves and recalls -/

/-- R115: a push completes. -/
def State.pushDone (s : State) (cid idx : Nat) : State :=
  let c := s.ctx cid
  let g := c.seg idx
  if g.state ≠ .pushing then s
  else
    let s : State :=
      match s.backing cid with
      | some (tid, _) =>
        if g.discard then s else State.toTensor tid s (s.segAddr cid idx 0) (g.bkoff * 64) (g.size * 64)
      | none => s
    let s := g.pushSig.foldl (fun s x => if x.2 < 4096 then s.sendDec cid x.1 x.2 g.home else s) s
    let s := s.onSeg cid idx (fun g => { g with placed := false, base := 0, pushSig := [] })
    if g.freep ∧ g.pin = 0 ∧ g.inb = 0 then s.freeNow cid idx
    else
      let s : State :=
        if g.rq then
          let s := s.onSeg cid idx (fun g => { g with state := .recalling, rq := false })
          { s with waitq := s.waitq ++ [(cid, idx)] }
        else s.onSeg cid idx (fun g => { g with state := .away })
      s.compact c.tenant (c.group.pclu g.home)

/-- R115, R118: a recall that holds its storage completes; `bad` is the first granule whose backing line was
uncorrectable, if one was (R131). -/
def State.recallDone (s : State) (cid idx : Nat) (bad : Option Nat) : State :=
  let g := s.seg cid idx
  let f := s.frameCtx cid
  if ¬ (g.state = .recalling ∧ g.placed) then s
  else
    let addr := s.segAddr cid idx 0
    let n := g.size * 64
    let s : State :=
      match g.zero, s.backing cid with
      | false, some (tid, _) => State.fromTensor tid s addr (g.bkoff * 64) n
      | _, _ => { s with mem := s.mem.clear addr n }
    if g.freep ∧ g.pin = 0 ∧ g.inb = 0 then s.freeNow cid idx
    else if bad = none ∨ g.zero then
      let s := s.onSeg cid idx (fun g =>
        { g with zero := false, rframe := f, discard := false, tiles := if g.discard then [] else g.tiles })
      (s.becameResident cid idx).batchDone cid idx false
    else
      (s.onSeg cid idx (fun g => { g with state := .poisoned, tiles := [], zero := false, poison := bad.getD 0 })).batchDone cid idx false

/-- R115: a move completes. -/
def State.moveDone (s : State) (cid idx : Nat) : State :=
  let c := s.ctx cid
  let g := c.seg idx
  if g.state ≠ .moving then s else (s.moveEnd cid idx).compact c.tenant (c.group.pclu g.home)

/-- R115: an uncorrectable soft error in a granule; of several while a move runs, the first stands (R131). -/
def State.poisonSeg (s : State) (cid idx granule : Nat) : State :=
  let g := s.seg cid idx
  match g.state with
  | .resident => s.onSeg cid idx (fun g => { g with state := .poisoned, poison := granule })
  | .moving => if g.poisonNext then s else s.onSeg cid idx (fun g => { g with poisonNext := true, poison := granule })
  | _ => s

/-! ### Acquisition (R120, R121) -/

/-- Bytes that an operation names: a name, an offset and a length; a length of 0 names the segment alone. -/
structure Ext where
  name : W16
  off  : Nat
  len  : Nat
deriving DecidableEq, Repr, Inhabited

inductive Acq where
  | ok (segs : List Nat)
  | hold
  | fault (f : FaultInfo)
deriving DecidableEq, Repr, Inhabited

def segWhere (n : W16) (off : Nat) : W64 := BitVec.ofNat 64 (pack [(0, 16, n.toNat), (16, 32, off)])

/-- A check of R121 on one extent: the name, the bounds, the pins, the home. -/
def Ctx.extCheck (c : Ctx) (pins : Option (List Nat)) (home : Option Nat) (k : Nat) (x : Ext) : Option FaultInfo :=
  let g := c.seg (nameIdx x.name)
  let w := segWhere x.name x.off
  let when_ := fun (b : Bool) (f : FaultInfo) => if b then some f else none
  match k with
  | 0 => when_ (c.stale x.name) { cause := .segStale, info := BitVec.ofNat 64 (g.gen % 16), wher := w }
  | 1 => when_ (x.len ≠ 0 && decide (g.size * 64 < x.off + x.len))
      { cause := .segBounds, info := BitVec.ofNat 64 (g.size * 64 % 2 ^ 32), wher := w }
  | 2 => when_ (pins.any (fun ps => !ps.contains (nameIdx x.name))) { cause := .segUndeclared, wher := w }
  | _ => when_ (home.any (fun h => g.home ≠ h))
      { cause := .segBounds, info := BitVec.ofNat 64 (g.size * 64 % 2 ^ 32 + 2 ^ 32), wher := w }

/-- The checks of R121 on all that names one segment, each check over every extent before the next. -/
def Ctx.segFault (c : Ctx) (pins : Option (List Nat)) (home : Option Nat) (l : List Ext) : Option FaultInfo :=
  ([0, 1, 2, 3] : List Nat).findSome? (fun k => l.findSome? (c.extCheck pins home k))

/-- The distinct segments of a set, in operand order, each with the first extent that names it. -/
def distinctExts (l : List Ext) : List (Nat × Ext) :=
  l.foldl (fun acc x => if acc.any (fun p => p.1 = nameIdx x.name) then acc else acc ++ [(nameIdx x.name, x)]) []

/-- `acquire` of R121 up to the tile states. `engine`: an operation that takes INB counts. -/
def Ctx.acquire (c : Ctx) (pins : Option (List Nat)) (home : Option Nat) (engine : Bool) (exts : List Ext) : Acq :=
  let set := distinctExts exts
  match set.findSome? (fun p => c.segFault pins home (exts.filter (fun x => nameIdx x.name = p.1))) with
  | some f => .fault f
  | none =>
    let total := (set.map (fun p => (c.seg p.1).size)).foldl (· + ·) 0
    let first := match set with
      | p :: _ => segWhere p.2.name p.2.off
      | [] => 0
    if c.quota < total then .fault { cause := .segQuota, info := BitVec.ofNat 64 (total % 2 ^ 32), wher := first }
    else
      match set.find? (fun p => (c.seg p.1).state = .poisoned) with
      | some p =>
        .fault { cause := .tilePoison, info := BitVec.ofNat 64 (c.seg p.1).poison, wher := segWhere p.2.name p.2.off }
      | none =>
        let away := set.filter (fun p => (c.seg p.1).state.absent)
        match away with
        | p :: _ =>
          .fault { cause := .segAbsent, info := BitVec.ofNat 64 ((c.seg p.1).state.num + away.length * 256),
                   wher := segWhere p.2.name p.2.off, recalls := away.map (·.1) }
        | [] =>
          if set.any (fun p => (c.seg p.1).state = .moving || (engine && decide (255 ≤ (c.seg p.1).inb))) then .hold
          else .ok (set.map (·.1))

/-- Holds an acquired set: INB counts and AGE (R120, R121). -/
def State.holdSet (s : State) (cid : Nat) (idxs : List Nat) : State :=
  let f := s.frameCtx cid
  idxs.foldl (fun s i => s.onSeg cid i (fun g => { g with inb := g.inb + 1, age := f })) s

/-- AGE := frame after a touch that succeeded (R120). -/
def State.touch (s : State) (cid idx : Nat) : State :=
  let f := s.frameCtx cid
  s.onSeg cid idx (fun g => { g with age := f })

/-! ### salloc, sfree, sstat, tstat (R125 to R127, R238) -/

inductive Alloc where
  | fault (f : FaultInfo)
  | none (status : Nat)                   -- delivers all ones and this status
  | made (s : State) (name : W16) (status : Nat)

/-- The n granules of `trigger` bytes. -/
def allocGranules (bytes : Nat) : Nat := cdiv bytes 64

/-- `salloc` of R125. -/
def State.salloc (s : State) (cid bytes home : Nat) (empty : Bool) : Alloc :=
  let c := s.ctx cid
  let n := allocGranules bytes
  if bytes = 0 ∨ 393216 < n ∨ 64 ≤ home ∨ ¬ c.group.hasClu home then
    .fault { cause := .segBounds, info := BitVec.ofNat 64 (n * 64 % 2 ^ 32) }
  else if c.quota < n then .fault { cause := .segQuota, info := BitVec.ofNat 64 (n % 2 ^ 32) }
  else
    match (List.range 4096).find? (fun i => (c.seg i).state = .free) with
    | Option.none => .none 2
    | some x =>
      match s.backPlace cid n with
      | Option.none => .none 3
      | some bk =>
        let f := s.frameCtx cid
        let tiles : List (Nat × Tile) :=
          if empty then (List.range (max 1 (cdiv (n * 64) 16384))).map (fun t => (t, { st := .empty })) else []
        let g : Seg := { gen := (c.seg x).gen, life := (c.seg x).life, home := home, size := n, age := f, bkoff := bk, tiles := tiles }
        let s := s.tickFresh
        match s.makeRoom cid home n Option.none with
        | some (s, b) =>
          let s := s.onCtx cid (fun c => c.setSeg x { g with state := .resident, base := b, placed := true })
          let s : State := if empty then s else { s with mem := s.mem.clear (s.segAddr cid x 0) (n * 64) }
          .made s (segName x g.gen) 0
        | Option.none =>
          let s := s.onCtx cid (fun c => c.setSeg x { g with state := .recalling, zero := true })
          .made ({ s with waitq := s.waitq ++ [(cid, x)] }.pumpFor cid x) (segName x g.gen) 1

/-- `sfree` of R126 at its result bundle, on a name that was not stale at the trigger: 0 released, 1 deferred. -/
def State.sfree (s : State) (cid : Nat) (name : W16) : State × Nat :=
  let i := nameIdx name
  if (s.ctx cid).stale name then (s, 0)
  else
    let g := s.seg cid i
    let s := s.onSeg cid i (fun g => { g with gen := (g.gen + 1) % 16 })
    if g.pin ≠ 0 ∨ g.inb ≠ 0 ∨ g.busy then (s.onSeg cid i (fun g => { g with freep := true }), 1)
    else (s.freeNow cid i, 0)

/-- The state word and AGE of R127; for a stale name AGE is that of the descriptor. -/
def Ctx.sstat (c : Ctx) (name : W16) : Nat × Nat :=
  let g := c.seg (nameIdx name)
  if c.stale name then (2 ^ 63, g.age)
  else
    (pack [(0, 3, g.state.num), (3, 1, b2n g.zero), (4, 1, b2n g.freep), (5, 6, g.home), (11, 8, g.pin),
           (19, 8, g.inb), (27, 19, g.size)], g.age)

/-- The value of tstat (R238). -/
def Ctx.tstat (c : Ctx) (name : W16) (off : Nat) : Nat :=
  let g := c.seg (nameIdx name)
  if c.stale name || g.state ≠ .resident || decide (g.size * 64 ≤ off) then 2 ^ 63 else (g.tile (off / 16384)).word

/-- A segment descriptor as R113 lays it out. -/
def Seg.word (g : Seg) (idx : Nat) : Nat :=
  pack [(0, 12, idx), (12, 4, g.gen), (16, 3, g.state.num), (19, 1, b2n g.zero), (20, 1, b2n g.freep),
        (21, 1, b2n g.rq), (22, 6, g.home), (32, 19, g.base), (64, 19, g.size), (96, 8, g.pin), (104, 8, g.inb),
        (128, 64, g.age), (192, 64, g.rframe), (256, 32, g.bkoff)]

/-! ### Bytes of a segment -/

/-- Bytes of a segment that is on chip. -/
def State.segRead (s : State) (cid idx off n : Nat) : List Byte := s.mem.read (s.segAddr cid idx off) n

/-- Writes bytes of a segment: to its storage, or, while it holds none, to its backing space (R42; a gated store that
commits after a push). -/
def State.segWrite (s : State) (cid idx off : Nat) (bs : List Byte) : State :=
  let g := s.seg cid idx
  if g.placed then { s with mem := s.mem.write (s.segAddr cid idx off) bs }
  else
    match s.backing cid with
    | some (tid, _) =>
      let s : State :=
        if g.zero then
          (State.tensorWrite tid s (g.bkoff * 64) (List.replicate (g.size * 64) 0)).onSeg cid idx
            (fun g => { g with zero := false })
        else s
      State.tensorWrite tid s (g.bkoff * 64 + off) bs
    | none => s

end Sys2Proof.Machine
end

