-- ==== Sys2Proof/Machine/Tier.lean ====
section
/-! DEFINITION. The tiers of memory: page states (R135), translation caches (R136, R138), frames, the shared pool and its retries
(R143, R144), and the count of the operations that hold a page (R138). -/

namespace Sys2Proof.Machine

/-! ### Page states (R135) -/

def Page.stateNum (p : Page) : Nat :=
  if p.psn then 5 else if p.p then 1 else if p.mov then (if p.lp then 4 else 2) else if p.lp then 3 else 0

def Page.fetching (p : Page) : Bool := p.stateNum = 4
def Page.evicting (p : Page) : Bool := p.stateNum = 2

/-- The epoch of R134: frame counter bits [32:10]. -/
def State.epoch (s : State) : Nat := s.frame / 1024 % 2 ^ 23

/-! ### Translation caches (R136, R138, R139) -/

def CoreSt.eng (c : CoreSt) : CUnit → CEngine
  | .c0 => c.eng0
  | .c1 => c.eng1

def CoreSt.setEng (c : CoreSt) (u : CUnit) (e : CEngine) : CoreSt :=
  match u with
  | .c0 => { c with eng0 := e }
  | .c1 => { c with eng1 := e }

def dieOf (core : Nat) : Nat := core / 64

def State.dcache (s : State) (die : Nat) : List TEnt := (alook s.dcaches die).getD []

/-- A small entry, or the large one that covers it. -/
def TEnt.covers (e : TEnt) (tid page : Nat) : Bool :=
  e.tid = tid && (if e.large then e.page / 32 = page / 32 else e.page = page)

def installT (n : Nat) (l : List TEnt) (e : TEnt) : List TEnt := (e :: l.filter (fun x => x ≠ e)).take n

def CEngine.dropT (e : CEngine) (p : TEnt → Bool) : CEngine := { e with tcache := e.tcache.filter (fun x => !p x) }

def CoreSt.dropT (c : CoreSt) (p : TEnt → Bool) : CoreSt := { c with eng0 := c.eng0.dropT p, eng1 := c.eng1.dropT p }

/-- An invalidation reaches every cache of the package. -/
def State.dropT (s : State) (p : TEnt → Bool) : State :=
  { s with core := s.core.dropT p, parked := s.parked.map (fun (x : Nat × CoreSt) => (x.1, x.2.dropT p)),
           dcaches := s.dcaches.map (fun (x : Nat × List TEnt) => (x.1, x.2.filter (fun e => !p e))) }

/-- Whether a cached entry is a copy of the entry at an address, or a large one that covers it. -/
def State.copyOf (s : State) (a : Nat) (e : TEnt) : Bool :=
  match s.tensor e.tid with
  | some t => t.ttbase + 8 * e.page = a || (e.large && decide (t.ttbase + 8 * e.page ≤ a) && decide (a < t.ttbase + 8 * e.page + 256))
  | none => false

/-- Every cached copy of an entry goes, whichever tensor it was cached for (R138). -/
def State.invalidate (s : State) (tid page : Nat) : State :=
  match (s.tensor tid).bind (fun t => s.entryAt t page) with
  | some a => s.dropT (fun e => e.covers tid page || s.copyOf a e)
  | none => s.dropT (fun e => e.covers tid page)

/-- Whether some cache of the package holds the small entry of a page. -/
def State.smallCached (s : State) (tid page : Nat) : Bool :=
  let e : TEnt := ⟨tid, page, false⟩
  let has := fun (c : CoreSt) => c.eng0.tcache.contains e || c.eng1.tcache.contains e
  has s.core || s.parked.any (fun x => has x.2) || s.dcaches.any (fun x => x.2.contains e)

/-- A lookup of a page with P = 1: the engine's cache, the die's, a walk; DUALM counts a lookup that matches both (R139). -/
def State.lookup (s : State) (u : Option CUnit) (tid page : Nat) : State :=
  let die := dieOf s.cur
  let large : TEnt := ⟨tid, page / 32 * 32, true⟩
  let mine := match u with
    | some u => (s.core.eng u).tcache
    | none => []
  let dual := s.splits.contains (tid, page / 32) && (mine.contains large || (s.dcache die).contains large) && s.smallCached tid page
  let s : State := if dual then { s with dualm := sset 0 s.dualm die ((sget 0 s.dualm die + 1) % 2 ^ 64) } else s
  let pick := fun (l : List TEnt) =>
    let found := l.filter (fun e => e.covers tid page)
    match found.find? (fun e => !e.large) with
    | some e => some e
    | none => found.head?
  let inEngine := fun (s : State) (e : TEnt) =>
    match u with
    | some u => s.upd (fun c => c.setEng u { c.eng u with tcache := installT 256 (c.eng u).tcache e })
    | none => s
  let inDie := fun (s : State) (e : TEnt) => { s with dcaches := aput s.dcaches die (installT 16384 (s.dcache die) e) }
  let walk : TEnt := if (s.page tid page).lg then large else ⟨tid, page, false⟩
  -- a lookup goes no further than the cache that answers it; one that meets both entries takes the small one (R139)
  let both := if dual then (mine ++ s.dcache die).find? (fun e => e.covers tid page && !e.large) else none
  match both with
  | some e => inEngine (inDie s e) e
  | none =>
    match pick mine, pick (s.dcache die) with
    | some e, _ => inEngine s e
    | none, some e => inEngine (inDie s e) e
    | none, none => inEngine (inDie s walk) walk

/-! ### Frames and the pool (R143) -/

/-- Frames of a tier in use: mapped pages, and what moves are filling. -/
def State.framesUsed (s : State) (lp : Bool) : List Nat :=
  s.pages.flatMap (fun x =>
    let p := x.2.2
    (if p.mapped && p.lp = lp then [p.pfn] else []) ++
      (match p.target with
       | some f => if p.mov && p.lp ≠ lp then [f] else []
       | none => []))

/-- Whether the tile table of a tensor stands in a frame of the HBM tier. -/
def Tensor.tableIn (t : Tensor) (f : Nat) : Bool :=
  t.npage ≠ 0 && decide (t.ttbase < (f + 1) * 65536) && decide (f * 65536 < t.ttbase + 8 * t.npage)

/-- Whether a frame of a tier is taken: by a page, by a move, or by a tile table. -/
def State.frameTaken (s : State) (lp : Bool) (f : Nat) : Bool :=
  (s.framesUsed lp).contains f || (!lp && s.tensors.any (fun t => t.2.tableIn f))

/-- The first of n free frames in a row of a tier; which one is open (log 5). -/
def State.freeFrames (s : State) (lp : Bool) (n : Nat) : Option Nat :=
  let m := if lp then Config.lpFrames else s.hbmFrames
  let free := fun (f : Nat) => decide (f + n ≤ m) && (List.range n).all (fun i => !s.frameTaken lp (f + i))
  let h := Config.freeNat s.fresh % m
  if free h then some h
  else (0 :: (s.framesUsed lp).map (· + 1) ++ s.tensors.map (fun (t : Nat × Tensor) => (t.2.ttbase + 8 * t.2.npage + 65535) / 65536)).find? free

/-- A free frame of a tier. -/
def State.freeFrame (s : State) (lp : Bool) : Option Nat := s.freeFrames lp 1

/-- A page of a TPOL 0 tensor of a tenant that takes pool entries: PRESENT, EVICTING or FETCHING (R143). -/
def State.poolPage (s : State) (tenant : Nat) (x : Nat × Nat × Page) : Bool :=
  (match s.tensor x.1 with
   | some t => t.tenant = tenant && t.tpol = 0
   | none => false) &&
  ((x.2.2.p && !x.2.2.lp && !x.2.2.psn) || x.2.2.evicting || x.2.2.fetching)

/-- Entries a tenant uses, the page `skip` left out: (tensor, page). -/
def State.poolUse (s : State) (tenant : Nat) (skip : Nat × Nat) : Nat :=
  4 * (s.pages.filter (fun x => (x.1, x.2.1) ≠ skip && s.poolPage tenant x)).length

def State.floorOf (s : State) (tenant : Nat) : Nat := (alook s.floors tenant).getD 0

/-- Free entries of the shared remainder. -/
def State.sharedFree (s : State) (skip : Nat × Nat) : Nat :=
  let floors := (s.floors.map (·.2)).foldl (· + ·) 0
  let ovr := ((List.range 16).map (fun t => s.poolUse t skip - s.floorOf t)).foldl (· + ·) 0
  s.poolSize - floors - ovr

def Page.distance (p : Page) (now : Nat) : Nat := (now + 2 ^ 23 - p.age) % 2 ^ 23

/-- The victim of R143. -/
def State.poolVictim (s : State) (skip : Nat × Nat) : Option (Nat × Nat) :=
  let now := s.epoch
  let ok := fun (x : Nat × Nat × Page) =>
    match s.tensor x.1 with
    | some t => t.tpol = 0 && x.2.2.p && !x.2.2.lp && !x.2.2.psn && !x.2.2.mov && x.2.2.pinc = 0 &&
        decide (s.floorOf t.tenant < s.poolUse t.tenant skip)
    | none => false
  ((s.pages.filter ok).foldl (fun best x =>
    match best with
    | none => some (x.2.2.distance now, (x.1, x.2.1))
    | some b => if b.1 < x.2.2.distance now then some (x.2.2.distance now, (x.1, x.2.1)) else best)
    (none : Option (Nat × Nat × Nat))).map (·.2)

/-- `place` of R143 for a page that is FETCHING: a frame, an eviction whose frame it will take, or POOL_FULL (false). -/
def State.place (s : State) (tid page : Nat) : State × Bool :=
  let key := (tid, page)
  let tenant := match s.tensor tid with
    | some t => t.tenant
    | none => 0
  let direct := decide (s.poolUse tenant key + 4 ≤ s.floorOf tenant) || decide (4 ≤ s.sharedFree key)
  let full := s.onPage tid page (fun p => { p with waitPool := true, target := none })
  match direct, s.freeFrame false with
  | true, some f => ((s.onPage tid page (fun p => { p with target := some f, waitPool := false })).tickFresh, true)
  | _, _ =>
    match s.poolVictim key, s.freeFrame true with
    | some v, some f =>
      let s := s.invalidate v.1 v.2
      let s := s.onPage v.1 v.2 (fun p => { p with p := false, mov := true, target := some f, forPage := some (tid, page) })
      ((s.onPage tid page (fun p => { p with waitPool := false, target := none })).tickFresh, true)
    | _, _ => (full, false)

/-- An AWAY pool page starts to be fetched. -/
def State.startFetch (s : State) (tid page : Nat) : State :=
  ((s.onPage tid page (fun p => { p with mov := true, waitPool := false, target := none })).place tid page).1

/-- Every fetch that waits under POOL_FULL tries again, by tensor and page (R144). -/
def State.poolRetry (s : State) : State :=
  (s.pages.filter (fun x => x.2.2.fetching && x.2.2.waitPool && x.2.2.target.isNone)).foldl (fun s x => (s.place x.1 x.2.1).1) s

/-- An operation's last access to a page has completed (R138); a count that falls to zero lets waiting fetches try (R144). -/
def State.dropPinc (s : State) (tid page : Nat) : State :=
  let s := s.onPage tid page (fun p => { p with pinc := p.pinc - 1 })
  if (s.page tid page).pinc = 0 then s.poolRetry else s

end Sys2Proof.Machine
end

