-- ==== Sys2Proof/Machine/Fabric.lean ====
section
/-! DEFINITION. What the Gander and the links share: the header check code (R338), routing words and row headers (R326, R337),
sending on a link (R342, R344), orphan records (R345), permits (R351 to R353), fabric tenants (R340), messages of a dispatch. -/

namespace Sys2Proof.Machine

/-! ### The header check code (R338) -/

def eccPos : List Nat := (List.range 128).filter (fun p => decide (3 ≤ p) && !([4, 8, 16, 32, 64] : List Nat).contains p)

/-- The XOR of the positions of the bits that are 1. -/
def eccXor (w : Nat) : Nat := eccPos.zipIdx.foldl (fun x p => if nfld w p.2 1 = 1 then x ^^^ p.1 else x) 0

def parity (w n : Nat) : Nat := (List.range n).foldl (fun x i => x ^^^ nfld w i 1) 0

/-- The check code over bits [119:0]. -/
def eccOf (w : Nat) : Nat :=
  let low := eccXor w
  low + 128 * (parity w 120 ^^^ parity low 7)

/-- A header with its code in [127:120]. -/
def withEcc (w : Nat) : BitVec 128 := BitVec.ofNat 128 (w % 2 ^ 120 + eccOf (w % 2 ^ 120) * 2 ^ 120)

inductive EccResult where
  | ok
  | corrected (w : BitVec 128)
  | bad
deriving DecidableEq, Repr

def eccCheck (w : BitVec 128) : EccResult :=
  let x := eccXor (fld w 0 120) ^^^ fld w 120 7
  let t := parity w.toNat 128
  if t = 0 then (if x = 0 then .ok else .bad)
  else
    let flip := fun (i : Nat) => .corrected (w ^^^ (1#128 <<< i))
    if x = 0 then flip 127
    else
      match ([1, 2, 4, 8, 16, 32, 64] : List Nat).idxOf? x with
      | some i => flip (120 + i)
      | none => flip (eccPos.idxOf x)

/-! ### Headers (R326, R337) -/

/-- Fabric tenant of a package tenant (R340). -/
def State.fabTenant (s : State) (tenant : Nat) : Nat :=
  match alook s.tenMap tenant with
  | some t => t - 1
  | none => tenant

/-- Whether a package number is one of the fabric's: this package's own is, which others are is open (log 7). -/
def State.inFabric (s : State) (n : Nat) : Bool := n = s.pkg || Config.inFabric n

structure Route where
  dest   : Nat
  tenant : Nat
  ctx    : Nat
  cls    : Nat
  kind   : Nat
  len    : Nat
  tag    : Nat := 0
  sched  : Bool := false
  opid   : Nat := 0

/-- A routing word sent by this package. -/
def State.routing (s : State) (r : Route) : BitVec 128 :=
  withEcc (pack [(0, 11, r.dest), (11, 11, s.pkg), (22, 6, r.tenant), (28, 10, r.ctx), (38, 2, r.cls), (40, 4, r.kind), (44, 5, r.len),
    (49, 12, r.tag), (61, 1, b2n r.sched), (62, 16, r.opid)])

/-- The row packet header of R326. -/
def RowMsg.header (m : RowMsg) : BitVec 128 :=
  withEcc (pack [(0, 6, m.tenant), (6, 10, m.ctx), (16, 12, m.expert), (28, 16, m.slot), (44, 20, m.token), (64, 2, m.rank),
    (66, 16, m.weight), (82, 1, b2n m.fb), (83, 1, b2n m.last), (84, 1, b2n m.ret), (85, 1, b2n m.free), (86, 1, b2n m.pull),
    (90, 4, m.chunk), (94, 5, cdiv m.data.length 64)])

/-- The rest of a KIND 2 header flit, whose layout is not stated (log 15). -/
def RowMsg.info (m : RowMsg) : List Nat :=
  [m.srcCid, m.srcDie, m.srcSlot, m.dest.name.toNat, m.dest.rrow, m.dest.rctr, m.dest.rccl, b2n m.dest.sen, m.dest.outn.toNat, m.dest.orow,
    m.rowb, m.cap, b2n m.ack, m.dest.pmt, m.credit, b2n m.aborted]

/-- A row message as a KIND 2 packet brings it. -/
def rowOfPacket (p : Packet) : RowMsg :=
  let i := fun (k : Nat) => p.info.getD k 0
  let h := p.rh
  { net := fld p.rw 22 6, srcPkg := fld p.rw 11 11, srcCid := i 0, srcDie := i 1, srcSlot := i 2, tenant := fld h 0 6, ctx := fld h 6 10, expert := fld h 16 12,
    slot := fld h 28 16, token := fld h 44 20, rank := fld h 64 2, weight := fld h 66 16, fb := bit h 82, last := bit h 83, ret := bit h 84,
    free := bit h 85, pull := bit h 86, chunk := fld h 90 4, ack := i 12 = 1, credit := i 14, aborted := i 15 = 1,
    dest := { name := BitVec.ofNat 16 (i 3), remote := true, rrow := i 4, rctr := i 5, rccl := i 6, sen := i 7 = 1,
              outn := BitVec.ofNat 16 (i 8), orow := i 9, pmt := i 13 },
    rowb := i 10, cap := i 11, data := p.data }

/-! ### Sending (R342, R344) -/

def State.link (s : State) (l : Nat) : Link := (alook s.links l).getD {}

def State.setLink (s : State) (l : Nat) (f : Link → Link) : State := { s with links := aput s.links l (f (s.link l)) }

/-- The flits of a packet: its header and LEN data flits (R336). -/
def packetFlits (p : Packet) : Nat := 1 + fld p.rw 44 5

/-- How far a sequence number lies past another. -/
def seqDist (a b : Nat) : Nat := (a + 65536 - b % 65536) % 65536

/-- The flits that wait for their acknowledgement (R344). -/
def Link.flits (k : Link) : Nat := seqDist k.txSeq k.ackSeq

/-- What waits in a port in order: a virtual network and class, booked slots apart (R341). -/
def queueOf (p : Packet) : Nat × Nat × Bool := (fld p.rw 22 6, fld p.rw 38 2, bit p.rw 61)

/-- A packet can leave: the link is UP, none of its network and class is before it, and the port can keep it until it is acknowledged
(R341, R344). That the next port has room for it is taken for granted: what that port holds is another package's (log 21). -/
def Link.ready (k : Link) (p : Packet) : Bool :=
  k.state = 2 && !k.waiting.any (fun q => queueOf q = queueOf p) && decide (k.flits + packetFlits p ≤ 256)

/-- A packet as its flits carry it from flit `first` on, their tags acknowledging what the port has received in order (R336, R344;
log 21). -/
def Link.flit (k : Link) (seq : Nat) (p : Packet) (first : Nat := 0) : FlitIn :=
  { seq := (seq + first) % 65536, ack := (k.rxSeq + 65535) % 65536, crcOk := true, pkt := p, first := first }

/-- A packet leaves on a link, or waits in its port; the port keeps what it sent. -/
def State.sendOn (s : State) (l : Nat) (p : Packet) : State :=
  let k := s.link l
  if k.ready p then
    { s.setLink l (fun k => { k with replay := k.replay ++ [(k.txSeq, p)], txSeq := (k.txSeq + packetFlits p) % 65536 })
      with sent := s.sent ++ [(l, k.flit k.txSeq p)] }
  else s.setLink l (fun k => { k with waiting := k.waiting ++ [p] })

/-- What waits in a port leaves as far as it can. -/
def State.pumpLink (s : State) (l : Nat) : State :=
  (s.link l).waiting.foldl (fun s p => s.sendOn l p) (s.setLink l (fun k => { k with waiting := [] }))

/-- What a port keeps from a sequence number on: packets with the numbers of their headers, and the first flit of each (R344). -/
def Link.since (k : Link) (seq : Nat) : List (Nat × Packet × Nat) :=
  match k.replay.dropWhile (fun x => !decide (seqDist seq x.1 < packetFlits x.2)) with
  | [] => []
  | x :: l => (x.1, x.2, seqDist seq x.1) :: l.map (fun y => (y.1, y.2, 0))

/-- What a port has sent leaves again, in order (R344). -/
def State.resend (s : State) (l : Nat) (old : List (Nat × Packet × Nat)) : State :=
  { s with sent := s.sent ++ old.map (fun x => (l, (s.link l).flit x.1 x.2.1 x.2.2)) }

/-- An acknowledgement, in order, of every flit up to a sequence number; one of nothing that waits changes nothing. -/
def Link.acked (k : Link) (a : Nat) : Link :=
  let n := seqDist (a + 1) k.ackSeq
  if n = 0 ∨ k.flits < n then k
  else
    { k with ackSeq := (a + 1) % 65536, replay := k.replay.dropWhile (fun y => decide (seqDist (y.1 + packetFlits y.2) k.ackSeq ≤ n)),
             resent := k.resent.filter (fun r => decide (n ≤ seqDist r.1 k.ackSeq)) }

/-- A packet of the packet network leaves; which link leads to its destination is open (log 5), and all that go there take it in order. -/
def State.sendPacket (s : State) (p : Packet) : State := s.sendOn (Config.routeLink (fld p.rw 0 11) % Config.links) p

/-- The context that sends a message, and its virtual network (R325, R337, R340). -/
def RowMsg.sender (m : RowMsg) : Nat := if m.ret || m.ack then m.ctx else m.srcCid

def State.netOf (s : State) (cid : Nat) : Nat := s.fabTenant (s.ctx cid).tenant

/-- A row message goes to a Gander: of this package, or through the fabric, every kind of KIND 2 packet as class DATA, which R28 leaves open
(DESIGN CHOICE, log 15). -/
def State.sendRow (s : State) (pkg : Nat) (remote : Bool) (m : RowMsg) : State :=
  let net := s.netOf m.sender
  if remote then
    s.sendPacket
      { rw := s.routing { dest := pkg, tenant := net, ctx := m.sender, cls := 2, kind := 2, len := cdiv m.data.length 64 },
        rh := m.header, info := m.info, data := m.data }
  else { s with rowIn := s.rowIn ++ [{ m with net := 64 + net }] }

/-- An orphan record (R345). -/
def State.orphan (s : State) (l cause seq : Nat) (raw : BitVec 128) : State :=
  { s with orphans := s.orphans ++ [{ frame := s.frame, link := l, cause := cause, seq := seq, raw := raw }] }

/-! ### Permits (R351 to R353) -/

def State.permit (s : State) (cid n : Nat) : Permit := (alook (s.ctx cid).permits n).getD {}

def State.setPermit (s : State) (cid n : Nat) (f : Permit → Permit) : State :=
  s.onCtx cid (fun c => { c with permits := aput c.permits n (f (s.permit cid n)) })

/-- A KIND 3 packet on the sender's virtual network, a request and a return of class REQ; R28 does not say which class they have, and the
layout of what they carry is not stated (DESIGN CHOICE, log 15). -/
def State.sendPermit (s : State) (cid pkg : Nat) (info : List Nat) (opid : Nat := 0) : State :=
  s.sendPacket { rw := s.routing { dest := pkg, tenant := s.netOf cid, ctx := cid, cls := 0, kind := 3, len := 0, opid := opid },
                 rh := 0, info := info, data := [] }

/-- A return: unused and drawn credit, and whether the receiver closes the sender's regions. -/
def State.sendReturn (s : State) (cid n unused drawn : Nat) (close : Bool) : State :=
  let p := s.permit cid n
  s.sendPermit cid p.pkg [2, cid, n, p.rctx, unused, drawn, b2n close, p.rten]

/-- What a row's send in a frame finds of its permit (R353): INFO of PERMIT_EXPIRED, or none. A lease is over from the boundary that
begins the frame EXPIRY. -/
def Permit.refuses (p : Permit) (frame draw : Nat) : Option Nat :=
  if p.state = 4 ∨ (p.state = 2 ∧ p.expiry ≤ frame) then some 1
  else if p.state ≠ 2 ∧ p.state ≠ 5 then some 3
  else if p.credit < draw then some 2
  else none

/-- Credit that a closed region returns (R332, R352, R353): a permit that is no longer GRANTED passes it on to the receiver. -/
def Permit.giveBack (p : Permit) (n : Nat) : Permit :=
  let d := p.drawn - n
  if p.state = 2 then { p with drawn := d, credit := p.credit + n }
  else if p.state = 5 ∧ d = 0 then {}
  else { p with drawn := d }

/-- A permit that a reset has made FREE has given all back already (R354). -/
def State.giveBack (s : State) (cid pmt n : Nat) : State :=
  let p := s.permit cid pmt
  if p.drawn < n then s
  else
    let s : State := if p.state = 2 then s else s.sendReturn cid pmt 0 n false
    s.setPermit cid pmt (fun p => p.giveBack n)

/-! ### Messages of a dispatch (R325, R326) -/

def gKey (die slot : Nat) : Nat := die * 16 + slot

def GSlot.cntOf (g : GSlot) (e : Nat) : Nat := sget 0 g.cnt e

def GSlot.destOf (g : GSlot) (e : Nat) : MapEnt := (alook g.map e).getD {}

/-- A message of a dispatch to the region of expert e. -/
def State.gMsg (s : State) (key : Nat) (g : GSlot) (e : Nat) : RowMsg :=
  let d := g.destOf e
  { srcPkg := s.pkg, srcCid := g.cid, srcDie := key / 16, srcSlot := key % 16, expert := e, dest := d, rowb := g.blk.rowb, cap := g.blk.cap,
    tenant := if d.remote then d.rten else s.netOf g.cid, ctx := if d.remote then d.rctx else g.cid,
    credit := if g.drew.contains e then g.blk.cap * g.blk.rowb else 0 }

/-- The free message of a region (R332). -/
def State.sendFree (s : State) (key : Nat) (g : GSlot) (aborted : Bool) (e : Nat) : State :=
  let d := g.destOf e
  s.sendRow d.pkg d.remote { s.gMsg key g e with free := true, aborted := aborted }

/-- The experts with a region of the last dispatch. -/
def GSlot.experts (g : GSlot) : List Nat :=
  (List.range g.blk.nexp).filter (fun e => g.cntOf e ≠ 0 || g.drew.contains e || (g.state ≠ .running && (g.destOf e).sen))

end Sys2Proof.Machine
end

