-- ==== Sys2Proof/Machine/Tasks.lean ====
section
/-! DEFINITION. Job cards and cluster queues (R255 to R262), tasks and control blocks (R270 to R273), fault records
and the fault ring (R106, R107), bookings released and pins dropped. A task leaves the list when it retires, is
aborted or is rejected. -/

namespace Sys2Proof.Machine

def updFirst {α : Type} (p : α → Bool) (f : α → α) : List α → List α
  | [] => []
  | x :: l => if p x then f x :: l else x :: updFirst p f l

/-! ### The task list -/

/-- Two cards can carry one TASK; what a task started, and its core, name it by its card as well (R273). -/
def taskKey (serial id : Nat) : Nat := serial * 2 ^ 32 + id

def Task.key (t : Task) : Nat := taskKey t.serial t.id
def TaskRun.key (t : TaskRun) : Nat := taskKey t.serial t.id

/-- The TASK of a key. -/
def keyTask (key : Nat) : Nat := key % 2 ^ 32

def Task.is (t : Task) (cid key : Nat) : Bool := t.cid = cid && t.key = key

/-- A task as a TASK of a context names it. -/
def Task.named (t : Task) (cid id : Nat) : Bool := t.cid = cid && t.id = id

def State.onTask (s : State) (p : Task → Bool) (f : Task → Task) : State := { s with tasks := updFirst p f s.tasks }

def State.dropTask (s : State) (p : Task → Bool) : State :=
  match s.tasks.find? p with
  | some _ => { s with tasks := s.tasks.eraseP p }
  | none => s

/-- Whether a card's task is the one meant, in a state. -/
def Task.same (t x : Task) : Bool := x.is t.cid t.key && x.state = t.state && x.clu = t.clu

/-- The task that runs on, is faulted on or retires from a physical core. -/
def State.taskOn (s : State) (c cid id : Nat) : Option Task := s.tasks.find? (fun t => t.is cid id && t.core = some c)

def TaskState.live : TaskState → Bool
  | .running | .retiring | .starting => true
  | _ => false

/-- Whether a core still has to stop for a pre-emption of the context (R103, R106). -/
def CoreSt.stopping (c : CoreSt) (cid : Nat) : Bool :=
  c.task.cid = cid && ((c.preempt && (c.run = .running || c.run = .faulted)) || c.run = .saving)

/-- Every core on record, the one in focus among them. -/
def State.anyCore (s : State) (p : CoreSt → Bool) : Bool := p s.core || s.parked.any (fun x => p x.2)

/-- R93, R268: RUNNING while a task runs, else RUNNABLE; a kernel with no task and no card is RETIRED; a
pre-emption is over when its last core has stopped. -/
def State.settleCtx (s : State) (cid : Nat) : State :=
  let ts := s.tasks.filter (fun t => t.cid = cid)
  s.onCtx cid (fun c =>
    let c := if c.kstate = .launched && ts.isEmpty && s.pqueues.all (fun q => q.2.all (fun x => x.2 ≠ cid)) then
        { c with kstate := .retired } else c
    match c.state with
    | .runnable | .running =>
      if c.preempting && !s.anyCore (fun k => k.stopping cid) then { c with state := .suspended, preempting := false }
      else { c with state := if c.preempting || ts.any (fun t => t.state.live) then .running else .runnable }
    | _ => c)

/-! ### Cards (R255 to R257) -/

structure Card where
  tcbSeg : W16
  tcbOff : Nat
  prio   : Nat
  timed  : Bool
  release : Nat
  lkey   : Nat
  stage  : Nat
  group  : Nat
  cmask  : Nat
  tclu   : Nat
  task   : Nat
deriving DecidableEq, Repr, Inhabited

def decodeCard (w : BitVec 512) : Card where
  tcbSeg := w.extractLsb' 0 16
  tcbOff := fld w 16 32
  prio := fld w 48 5
  timed := bit w 53
  release := fld w 64 64
  lkey := fld w 128 16
  stage := fld w 144 4
  group := fld w 148 16
  cmask := fld w 164 4
  tclu := fld w 168 6
  task := fld w 192 32

/-- The group ordinal and the stage of a linear logical index (R276). -/
def Group.ordinal (g : Group) (lin : Nat) : Nat := ((lin / 64) * g.c + (lin / 4) % 16) * g.k + lin % 4

def Group.stage (g : Group) (lin : Nat) : Nat := g.ordinal lin * g.s / (g.d * g.c * g.k)

/-- The allowed cores of a card in a logical cluster: (physical, linear) pairs, ascending (R256). -/
def Group.allowed (g : Group) (clu cmask stage : Nat) : List (Nat × Nat) :=
  (g.map.filter (fun m => m.1 / 4 = clu && (cmask = 0 || nfld cmask (m.1 % 4) 1 = 1) && g.stage m.1 = stage)).map
    (fun m => (m.2, m.1))

/-- R257: a card that no queue takes. -/
def Ctx.cardRefused (c : Ctx) (clu : Nat) (k : Card) : Bool :=
  k.tcbOff % 256 ≠ 0 || !c.kgroup || k.group ≠ c.group.num || decide (c.group.s ≤ k.stage) ||
    (c.group.allowed clu k.cmask k.stage).isEmpty

/-- R263: the queues take the cards of a launched context that is not being destroyed. -/
def Ctx.queueOpen (c : Ctx) : Bool :=
  match c.state with
  | .runnable | .running | .suspended => true
  | _ => false

/-- A card that holds a slot of a cluster queue. -/
def Task.queued (t : Task) : Bool := t.state = .posted || t.state = .ready

/-- Whether a level of a physical cluster is full for a tenant (R259). -/
def State.levelFull (s : State) (tenant pclu prio : Nat) : Bool :=
  let used := (s.tasks.filter (fun t => t.queued && t.prio = prio && (s.ctx t.cid).tenant = tenant &&
    (s.ctx t.cid).group.pclu t.clu = pclu)).length
  match s.partOf tenant with
  | some p => decide (p.qshare ≤ used)
  | none => true

/-- Offers a card to the queue of a logical cluster: the state and the code of R170. -/
def State.offer (s : State) (cid clu : Nat) (k : Card) : State × Nat :=
  let c := s.ctx cid
  let prio := min k.prio c.pcap
  if ¬ c.group.hasClu clu then (s, 2)
  else if c.cardRefused clu k ∨ ¬ c.queueOpen then (s, 3)
  else if s.levelFull c.tenant (c.group.pclu clu) prio then (s, 1)
  else
    let t : Task :=
      { cid := cid, id := k.task, serial := s.cards, clu := clu, prio := prio, timed := k.timed, release := k.release, lkey := k.lkey,
        stage := k.stage, cmask := k.cmask, tcbSeg := k.tcbSeg, tcbOff := k.tcbOff }
    ({ s with tasks := s.tasks ++ [t], cards := s.cards + 1 }, 0)

/-- A counter in OPEN (R294, R297). -/
def Cell.counterOpen (x : Cell) : Bool := !x.barrier && x.st = 0

def cellKey (clu n : Nat) : Nat := clu * 4096 + n

def Ctx.cell (c : Ctx) (clu n : Nat) : Cell := (alook c.cells (cellKey clu n)).getD {}

/-- R260: whether a card in a queue is ready; a card that resumes is ready at once (R262). -/
def State.isReady (s : State) (t : Task) : Bool :=
  t.resume ||
    (t.depRead && decide (t.release ≤ s.frameCtx t.cid) &&
      (match t.depCell with
       | none => true
       | some n => ((s.ctx t.cid).cell t.clu n).counterOpen))

/-- Readiness of every card after cells or F have changed (R260, R297), with the ready order of those that it makes ready. -/
def State.refreshAt (s : State) (now : Nat) : State :=
  { s with tasks := s.tasks.map (fun t =>
      match t.state with
      | .posted => if s.isReady t then { t with state := .ready, readyAt := now } else t
      | .ready => if s.isReady t then t else { t with state := .posted }
      | _ => t) }

/-- A new ready order is the turn of the change. -/
def State.refreshReady (s : State) : State := s.refreshAt s.turns

/-! ### Control blocks (R270, R271) -/

def decodeTcb (w : BitVec 2048) : Tcb where
  entry := fld w 0 13
  window := fld w 16 13
  timed := bit w 29
  rpol := fld w 30 2
  cm := bit w 32
  eacct := fld w 40 8
  nbook := fld w 48 5
  npin := fld w 53 5
  depid := fld w 64 12
  depcnt := fld w 80 16
  nsucc := fld w 96 4
  succ := (List.range (min (fld w 96 4) 8)).map (fun i => (fld w (128 + 32 * i) 12, fld w (140 + 32 * i) 6))
  books := (List.range (min (fld w 48 5) 16)).map (fun i => w.extractLsb' (384 + 64 * i) 64)
  pins := (List.range (min (fld w 53 5) 16)).map (fun i => w.extractLsb' (1408 + 16 * i) 16)

/-- A nonzero field that has to be zero (R270). -/
def tcbReserved (w : BitVec 2048) : Bool :=
  fld w 13 3 ≠ 0 || fld w 33 7 ≠ 0 || fld w 58 6 ≠ 0 || fld w 76 4 ≠ 0 || fld w 100 28 ≠ 0

def bookRes (b : W64) : Nat := fld b 0 4
def bookStart (b : W64) : Nat := fld b 4 12
def bookLen (b : W64) : Nat := fld b 16 13
def bookMask (b : W64) : Nat := fld b 32 32

/-- The first condition of R271 that rejects a TCB, or 0. -/
def tcbReject (w : BitVec 2048) (t : Task) (nbundles : Nat) : Nat :=
  let k := decodeTcb w
  if tcbReserved w then 1
  else if k.rpol = 3 then 2
  else if k.timed ≠ t.timed then 3
  else if nbundles ≤ k.entry then 4
  else if !k.timed && (k.window ≠ 0 || k.nbook ≠ 0 || k.npin ≠ 0) then 5
  else if k.timed && (k.window = 0 || k.books.any (fun b =>
      decide (8 ≤ bookRes b) || bookLen b = 0 || decide (k.window < bookStart b + bookLen b))) then 6
  else if 16 < k.nbook ∨ 16 < k.npin ∨ 8 < k.nsucc then 7
  else 0

/-! ### Causes and records (R105, R107) -/

def Cause.code : Cause → Nat
  | .illegalBundle => 1
  | .illegalMove => 2
  | .formatUnsupported => 3
  | .segAbsent => 4
  | .segStale => 5
  | .segBounds => 6
  | .segQuota => 7
  | .segUndeclared => 8
  | .pageAbsent => 9
  | .pagePerm => 10
  | .permInvalid => 11
  | .timedStall => 12
  | .overrun => 13
  | .tilePoison => 14
  | .eccUncorr => 15
  | .divZero => 16
  | .landingBusy => 17
  | .permitExpired => 18
  | .trap => 19
  | .brk => 20

/-- The resume points of R105 that a core's own fault can have. -/
inductive ResumePoint where
  | mark | next | same | none
deriving DecidableEq, Repr

def Cause.resumePoint : Cause → ResumePoint
  | .segAbsent | .pageAbsent | .permInvalid | .timedStall | .overrun | .tilePoison | .divZero | .permitExpired => .mark
  | .trap => .next
  | .brk => .same
  | _ => .none

/-- Whether the device can handle the fault under AUTO: a recall, or a fetch that is under way (R105, R137). -/
def FaultInfo.autoable (f : FaultInfo) : Bool :=
  match f.cause with
  | .segAbsent => true
  | .pageAbsent => bit f.info 3
  | _ => false

/-- A record as R107 lays it out. -/
def FaultRec.word (r : FaultRec) : Nat :=
  pack [(0, 8, r.code), (8, 1, b2n r.rstb), (9, 1, b2n r.roll), (10, 1, b2n r.auto), (11, 4, r.unit), (16, 8, r.core),
        (32, 32, r.task), (64, 13, r.bidx), (80, 13, r.mark), (128, 64, r.frame.toNat), (192, 64, r.wher.toNat),
        (256, 64, r.info.toNat), (320, 64, r.resume.toNat)]

inductive RingRoom where
  | yes | no | recalls
deriving DecidableEq, Repr

/-- Whether the fault ring takes a record now (R107): the record is written as an engine operation writes a segment, so a
MOVING ring and a tile that R123 does not let it write hold it. -/
def State.ringRoom (s : State) (cid : Nat) : RingRoom :=
  let c := s.ctx cid
  let g := c.seg (nameIdx c.frseg)
  if c.frdepth = 0 || c.stale c.frseg || g.state = .poisoned || decide (g.size < c.frdepth) then .no
  else if (c.frtail + 1) % c.frdepth = c.frhead then .no
  else if g.state.absent then .recalls
  else if g.state = .moving || !g.tilesOk (64 * c.frtail) 64 true then .no
  else .yes

/-- Writes a record at FRTAIL, advances FRTAIL and decrements FSUP (R107). Where FRDEPTH has been lowered to FRTAIL or below, the record
still goes to FRTAIL, which then wraps: R107 does not say (DESIGN CHOICE, log 29). -/
def State.putRecord (s : State) (cid : Nat) (r : FaultRec) : State :=
  let c := s.ctx cid
  let i := nameIdx c.frseg
  let s := (s.segWrite cid i (64 * c.frtail) (bytesLE 64 r.word)).touch cid i
  let s := s.onCtx cid (fun c => { c with frtail := (c.frtail + 1) % c.frdepth })
  if c.fsupen then s.sendDec cid (c.seg i).home c.fsup (c.seg i).home else s

/-- Waiting records are tried again, in order (R107). -/
def State.flushRecords (cid : Nat) : List (FaultRec × Option Nat) → State → State
  | [], s => s
  | (r, core) :: l, s =>
    match s.ringRoom cid with
    | .yes =>
      let s := (s.putRecord cid r).onCtx cid (fun c => { c with frwait := l })
      let s : State := match core with
        | some k => s.onCore k (fun c => { c with latch := c.latch.erase r })
        | none => s
      State.flushRecords cid l s
    | .recalls => s.requestRecall cid [nameIdx (s.ctx cid).frseg]
    | .no => s

def State.retryRecords (s : State) (cid : Nat) : State := State.flushRecords cid (s.ctx cid).frwait s

/-- A record of a fault: written, dropped and counted under AUTO, or latched (R106, R107); discarded while the context
drains (R94). One under AUTO whose ring is AWAY, RECALLING or PUSHING starts the recall and is dropped: R107 says of such a ring that
the record waits, and of AUTO records that they do not (DESIGN CHOICE, log 29). -/
def State.record (s : State) (cid : Nat) (r : FaultRec) (core : Option Nat) : State :=
  let c := s.ctx cid
  if c.state = .draining then s
  else if r.auto then
    match s.ringRoom cid with
    | .yes => s.putRecord cid r
    | .recalls => (s.onCtx cid (fun c => { c with adrop := min (c.adrop + 1) 65535 })).requestRecall cid [nameIdx c.frseg]
    | .no => s.onCtx cid (fun c => { c with adrop := min (c.adrop + 1) 65535 })
  else
    let s := s.onCtx cid (fun c => { c with frwait := c.frwait ++ [(r, core)] })
    let s : State := match core with
      | some k => s.onCore k (fun c => { c with latch := c.latch ++ [r] })
      | none => s
    if c.frwait.isEmpty then s.retryRecords cid else s

/-! ### Pins, pages and the commands of a task -/

def State.dropPins (s : State) (cid : Nat) (pins : List Nat) : State := pins.foldl (fun s i => s.dropPin cid i) s

/-- What a copy command holds is released: INB counts, page pins (R121, R138). -/
def State.releaseCmd (s : State) (cid : Nat) (c : Cmd) : State :=
  let s := c.held.foldl (fun s i => s.dropInb cid i) s
  c.pages.foldl (fun s p => s.dropPinc p.1 p.2) s

def State.setTiles (s : State) (cid : Nat) (l : List (Nat × Nat)) (t : Tile) : State :=
  l.foldl (fun s p => s.onSeg cid p.1 (fun g => g.setTile p.2 t)) s

/-- An aborted command leaves its landed elements and sets its tiles READY (R240). -/
def State.abortCmd (s : State) (cid : Nat) (c : Cmd) : State :=
  (s.setTiles cid (c.wtiles ++ c.stiles) {}).releaseCmd cid c

/-- The tiles of the ranges that a dispatch pre-checked (R222). -/
def Routine.tiles (r : Routine) : List (Nat × Nat) :=
  (r.ranges.flatMap (fun x => (tileSpan x.2.1 (x.2.2 - x.2.1)).map (fun t => (x.1, t)))).eraseDups

/-- The M commands of a task leave the queue, and its routine ends (log 11). -/
def Matrix.dropped (m : Matrix) (cid id : Nat) : Matrix :=
  let mine := fun (k : MCmd) => k.cid = cid && k.task = id
  let gone := (m.queue.filter mine).map (·.seq) ++ (match m.routine with
    | some r => if mine r.call then [r.call.seq] else []
    | none => [])
  { m with queue := m.queue.filter (fun k => !mine k), routine := m.routine.filter (fun r => !mine r.call),
           relPend := m.relPend.filter (fun p => !gone.contains p.2),
           lastCall := m.lastCall.filter (fun q => !gone.contains q) }

/-- One receive region: source package, context and expert, at one receiver (R327). -/
def Region.same (x r : Region) : Bool :=
  x.srcPkg = r.srcPkg && x.srcCid = r.srcCid && x.expert = r.expert && x.die = r.die && x.cid = r.cid

/-- What an open receive region holds is released (R327, R332). -/
def State.freeRegion (s : State) (r : Region) : State :=
  if r.opened && !r.complete then
    -- a tile that another open region of the Gander covers stays FILLING
    let others := (s.regions.filter (fun x => x.opened && !x.complete && x.cid = r.cid && x.die = r.die && !x.same r)).flatMap (·.tiles)
    let s := s.setTiles r.cid (r.tiles.filter (fun t => !others.contains t)) {}
    let s := r.pages.foldl (fun s p => s.dropPinc p.1 p.2) s
    if r.dest.remote then s else s.dropInb r.cid (nameIdx r.dest.name)
  else s

/-- A region is closed and its bitmap cleared. -/
def State.closeRegion (s : State) (r : Region) : State := { s.freeRegion r with regions := s.regions.filter (fun x => !x.same r) }

/-- Routing slots return to EMPTY: their areas are released and the regions of their dispatches are freed, those on other packages by
free messages; their rows, pulls and return rows that have not been taken inside the package go with them (R318). A slot keeps the context that configured it last (R329). -/
def State.freeSlots (s : State) (p : GSlot → Bool) : State :=
  let hit := fun (g : Nat × GSlot) => g.2.state ≠ .empty && p g.2
  let gone := s.gslots.filter hit
  let mine := fun (r : Region) => r.srcPkg = s.pkg && gone.any (fun g => g.2.cid = r.srcCid && g.1 = gKey r.srcDie r.srcSlot)
  let stray := fun (m : RowMsg) => m.srcPkg = s.pkg && !m.free && !m.ack && (m.ret || !m.dest.remote) && gone.any (fun g => g.2.cid = m.srcCid && g.1 = gKey m.srcDie m.srcSlot)
  let s := gone.foldl (fun s g => g.2.held.foldl (fun s i => s.dropInb g.2.cid i) s) s
  let s := gone.foldl (fun s g => (g.2.experts.filter (fun e => (g.2.destOf e).remote)).foldl (fun s e => s.sendFree g.1 g.2 true e) s) s
  let s := (s.regions.filter mine).foldl State.closeRegion s
  { s with rowIn := s.rowIn.filter (fun m => !stray m),
           gslots := s.gslots.map (fun g => if hit g then (g.1, { cid := g.2.cid, ever := g.2.ever }) else g) }

/-- The commands and subscriptions of a task on a core end, and so does its routine (R108; log 11). -/
def State.abortEngines (s : State) (k cid id : Nat) : State :=
  let c := s.getCore k
  let mine := fun (x : Cmd) => x.cid = cid && x.task = id
  let mySub := fun (x : Nat × SubSt) => x.2.cid = cid && x.2.task = id
  let s := ((c.eng0.cmds ++ c.eng1.cmds).filter mine).foldl (fun s x => s.abortCmd cid x) s
  let s := ((c.eng0.subs ++ c.eng1.subs).filter mySub).foldl (fun s x =>
    x.2.pages.foldl (fun s p => s.dropPinc p.1 p.2) (x.2.held.foldl (fun s i => s.dropInb cid i) s)) s
  let s : State := match c.mat.routine with
    | some r => if r.call.cid = cid ∧ r.call.task = id then
        r.held.foldl (fun s i => s.dropInb cid i) (s.setTiles cid r.tiles {}) else s
    | none => s
  let s := (c.mat.queue.filter (fun k => k.cid = cid && k.task = id)).foldl (fun s k => k.held.foldl (fun s i => s.dropInb cid i) s) s
  let s := s.freeSlots (fun g => g.cid = cid && g.taskId = id)
  let clear := fun (e : CEngine) =>
    let cmds := e.cmds.filter (fun x => !mine x)
    { e with cmds := cmds, subs := e.subs.filter (fun x => !mySub x), closed := e.closed.filter (fun b => cmds.any (fun x => x.batch = b)) }
  s.onCore k (fun c =>
    { c with eng0 := clear c.eng0, eng1 := clear c.eng1, oldj := c.oldj.filter (fun x => x.1 ≠ (cid, id)),
             mat := c.mat.dropped cid id })

/-- Frees a core for the dispatcher (R273). -/
def CoreSt.freed (c : CoreSt) : CoreSt :=
  { c with run := .idle, ended := false, gates := [], branches := [], preempt := false, markNext := false, mark := none, shadow := [],
           dshadow := [], counted := [], gated := [], journal := [], jsigs := [], inflight := [], xfers := [], maskq := [], permq := [],
           stores := [], skipBrk := none }

/-- What a saved task still holds is released (R108). -/
def State.abortSnap (s : State) (t : Task) : State :=
  match t.snap with
  | some c =>
    let s := (c.eng0.cmds ++ c.eng1.cmds).foldl (fun s x => s.abortCmd t.cid x) s
    (c.eng0.subs ++ c.eng1.subs).foldl (fun s x =>
      x.2.pages.foldl (fun s p => s.dropPinc p.1 p.2) (x.2.held.foldl (fun s i => s.dropInb t.cid i) s)) s
  | none => s

/-- Abort of a task (R108): gated stores and journal discarded, no successor decremented, pins and bookings released. -/
def State.abortTask (s : State) (t : Task) : State :=
  let p := fun (x : Task) => t.same x && x.core = t.core
  let s := s.abortSnap t
  let s : State := match t.core with
    | some k =>
      let c := s.getCore k
      if t.state.live || t.state = .faulted || t.state = .suspended || t.resume then
        let s := s.abortEngines k t.cid t.key
        if c.task.cid = t.cid && c.task.key = t.key && c.run ≠ .idle then s.onCore k CoreSt.freed else s
      else s
    | none => s.freeSlots (fun g => t.snap.isSome && g.cid = t.cid && g.taskId = t.key)
  let s : State := if t.pinned then s.dropPins t.cid (t.tcb.pins.map nameIdx).eraseDups else s
  (s.dropTask p).settleCtx t.cid

/-- R108, R262: a suspended task whose records can all be resumed re-enters its queue as a ready card. -/
def State.resumeTask (s : State) (t : Task) : State :=
  (s.onTask t.same (fun x =>
    { x with state := .ready, resume := true, readyAt := s.turns, rstb := [], autow := false, waitSeg := [],
             waitPg := none, susp := 0 })).settleCtx t.cid

/-- A task that the device resumes by itself, with no record that is answered for (R106 AUTO). -/
def Task.autoWaits (t : Task) : Bool := t.state = .faulted && t.autow && t.rstb.isEmpty

/-- The tasks that a fault has suspended: one that waits under AUTO is not among them (R106, R108). -/
def State.suspendedTasks (s : State) (cid : Nat) : List Task :=
  s.tasks.filter (fun t => t.cid = cid && t.state = .faulted && !t.autoWaits)

/-- Saved tasks of a context re-enter their queues (R93, R262). -/
def State.wakeSaved (s : State) (cid : Nat) : State :=
  { s with tasks := s.tasks.map (fun t =>
      if t.cid = cid ∧ t.state = .suspended then { t with state := .ready, resume := true, readyAt := s.turns, susp := 0 } else t) }

/-- The resume request of R108 and R159: a task id, or the whole context, which is SUSPENDED or has FSTOP = 1. False: refused. -/
def State.requestResume (s : State) (cid : Nat) (task : Option Nat) : State × Bool :=
  let c := s.ctx cid
  match task with
  | none =>
    let ts := s.suspendedTasks cid
    if ts.all (fun t => t.rstb.all id) && (c.state = .suspended || (c.fstop && !ts.isEmpty)) then
      let s := s.onCtx cid (fun c => if c.state = .suspended then { c with state := .runnable } else c)
      ((ts.foldl (fun s t => s.resumeTask t) s).wakeSaved cid, true)
    else (s, false)
  | some id =>
    match (s.suspendedTasks cid).find? (fun t => t.id = id) with
    | some t => if t.rstb.all (fun b => b) then (s.resumeTask t, true) else (s, false)
    | none => (s, false)

/-- A task that an abort ends: it has left its queue and does not retire yet (R273, R285). -/
def Task.abortable (t : Task) : Bool := !t.queued && t.state ≠ .retiring

/-- The abort request: a task, or the whole context with FSTOP = 1 (R108, R273). -/
def State.requestAbort (s : State) (cid : Nat) (task : Option Nat) : State × Bool :=
  match task with
  | none =>
    if (s.ctx cid).fstop then
      ((s.tasks.filter (fun t => t.cid = cid && t.abortable)).foldl (fun s t => s.abortTask t) s, true)
    else (s, false)
  | some id =>
    -- of two tasks with one TASK, the one that a fault has suspended is meant (R108, R159)
    match ((s.suspendedTasks cid).find? (fun t => t.id = id)).or (s.tasks.find? (fun t => t.named cid id && t.abortable)) with
    | some t => (s.abortTask t, true)
    | none => (s, false)

/-! ### The context block (R95) -/

def CtxState.num : CtxState → Nat
  | .created => 0
  | .loaded => 1
  | .runnable => 2
  | .running => 3
  | .suspended => 4
  | .draining => 5
  | .destroyed => 6

/-- The context block as R95 lays it out. -/
def Ctx.block (c : Ctx) (cid : Nat) : BitVec 512 :=
  BitVec.ofNat 512 (pack [(0, 10, cid), (10, 4, c.tenant), (14, 1, b2n c.atom), (15, 1, b2n c.cmode), (16, 5, c.pcap),
    (21, 1, b2n c.fstop), (22, 3, c.state.num), (32, 16, c.adrop), (64, 64, c.seed.toNat), (128, 32, c.quota),
    (160, 16, c.frseg.toNat), (176, 8, c.frdepth), (184, 8, c.frtail), (192, 8, c.frhead), (200, 12, c.fsup),
    (212, 1, b2n c.fsupen), (216, 16, c.backt), (232, 16, c.savet), (256, 64, c.energy / 1000), (320, 9, c.rega),
    (329, 9, c.regb), (338, 7, c.regs)])

/-- Replaces `n` bits from bit `lo`. -/
def setBits (b : BitVec 512) (lo n v : Nat) : BitVec 512 :=
  BitVec.ofNat 512 (b.toNat - fld b lo n * 2 ^ lo + (v % 2 ^ n) * 2 ^ lo)

/-- The RW fields of the block that wait for a dispatch, from a block. -/
def Ctx.withBlock (c : Ctx) (b : BitVec 512) : Ctx :=
  { c with atom := bit b 14, cmode := bit b 15, pcap := fld b 16 5, fstop := bit b 21, seed := b.extractLsb' 64 64, fsup := fld b 200 12,
           fsupen := bit b 212, backt := fld b 216 16, savet := fld b 232 16 }

/-- Writes that wait take effect, at a dispatch or a resumption (R95). -/
def Ctx.applyPend (c : Ctx) (cid : Nat) : Ctx :=
  if c.pendW.isEmpty then c
  else { c.withBlock (c.pendW.foldl (fun b w => setBits b w.1 w.2.1 w.2.2) (c.block cid)) with pendW := [] }

/-- Tasks that the device resumes by itself once what they wait for is there (R106 AUTO); a task whose page or
segment left that wait any other way retries and meets it. -/
def State.autoWake (s : State) : State :=
  (s.tasks.filter (fun t => t.autoWaits &&
      t.waitSeg.all (fun i => !(s.ctx t.cid).batches.any (fun b => b.2.contains i)) &&
      (match t.waitPg with
       | some (tid, pg) => !(s.page tid pg).mov
       | none => true))).foldl (fun s t =>
    let s := s.onCtx t.cid (fun c => c.applyPend t.cid)
    let s := s.onTask t.same
      (fun x => { x with state := .running, autow := false, waitSeg := [], waitPg := none })
    (match t.core with
     | some k => s.onCore k (fun c => if c.run = RunState.faulted then { c with run := .running, markNext := true } else c)
     | none => s).settleCtx t.cid) s

end Sys2Proof.Machine
end

