-- ==== Sys2Proof/Machine/Ops.lean ====
section
/-! DEFINITION. The operations over a core that every meaning goes through: registers (R12, R14, R60), the restart shadow,
marks and rollback (R101, R102), results and transfers that land (R13, R18 to R20, R204), stores (R101, R154, R274),
and TAKING A FAULT with the way back (R102, R105 to R108). -/

namespace Sys2Proof.Machine

/-! ### Values (R60) -/

def Val.scalar : Val → W64
  | .sc x => x
  | .vec v => (lane v 0).signExtend 64

def Val.vector : Val → Vec
  | .sc x => splat (x.setWidth 32)
  | .vec v => fullVec v

def Val.truth : Val → Bool
  | .sc x => x ≠ 0
  | .vec v => lane v 0 ≠ 0

def maskBits : List (BitVec 32) → Nat
  | [] => 0
  | x :: l => (if x = 0 then 0 else 1) + 2 * maskBits l

def Val.mask : Val → Mask
  | .sc x => if x = 0 then 0 else allLanes
  | .vec v => BitVec.ofNat 256 (maskBits v)

/-- The form a domain takes a value in: V0 and V1 a vector, the others a scalar. -/
def Val.forDom (d : Dom) (v : Val) : Val :=
  match d with
  | .v0 | .v1 => .vec v.vector
  | _ => .sc v.scalar

/-! ### Registers -/

/-- s0 reads zero (R12). -/
def CoreSt.sreg (c : CoreSt) (i : Nat) : W64 := if i = 0 then 0 else sget 0 c.sregs i

/-- a0 (0) and b0 (320) read zero (R12). -/
def CoreSt.vreg (c : CoreSt) (i : Nat) : Vec := if i = 0 ∨ i = 320 then zeroVec else sget zeroVec c.vregs i

def CoreSt.setSreg (c : CoreSt) (i : Nat) (x : W64) : CoreSt :=
  if i = 0 then c else { c with sregs := sset 0 c.sregs i x }

def CoreSt.setVreg (c : CoreSt) (i : Nat) (v : Vec) : CoreSt :=
  if i = 0 ∨ i = 320 then c else { c with vregs := sset zeroVec c.vregs i v }

/-- g0 is always true (R14). -/
def CoreSt.guard (c : CoreSt) (i : Nat) : Bool := i = 0 || bit c.guards i

/-- A write to g0 is discarded (R14). -/
def CoreSt.setGuard (c : CoreSt) (i : Nat) (b : Bool) : CoreSt :=
  if i = 0 then c
  else { c with guards := if b then c.guards ||| (1#8 <<< i) else c.guards &&& ~~~(1#8 <<< i) }

/-- k0 is all true (R14). -/
def CoreSt.mask (c : CoreSt) (i : Nat) : Mask := if i = 0 then allLanes else sget 0 c.masks i

def CoreSt.setMask (c : CoreSt) (i : Nat) (m : Mask) : CoreSt :=
  if i = 0 then c else { c with masks := sset 0 c.masks i m }

def idPerm : List Nat := List.range 256

def CoreSt.perm (c : CoreSt) (i : Nat) : List Nat := sget idPerm c.perms i

def CoreSt.setPerm (c : CoreSt) (i : Nat) (p : List Nat) : CoreSt := { c with perms := sset idPerm c.perms i p }

def CoreSt.mreg (c : CoreSt) (i : Nat) : W64 := sget 0 c.mregs i

def CoreSt.dword (c : CoreSt) (u : CUnit) (i : Nat) : W64 :=
  match u with
  | .c0 => sget 0 c.dfile0 i
  | .c1 => sget 0 c.dfile1 i

def CoreSt.setDword (c : CoreSt) (u : CUnit) (i : Nat) (x : W64) : CoreSt :=
  match u with
  | .c0 => { c with dfile0 := sset 0 c.dfile0 i x }
  | .c1 => { c with dfile1 := sset 0 c.dfile1 i x }

def CoreSt.dixOf (c : CoreSt) (u : CUnit) : Nat := sget 0 c.dix u.num

def CoreSt.word (c : CoreSt) (i : Nat) : W64 := sget 0 c.words i
def CoreSt.line (c : CoreSt) (i : Nat) : Vec := sget zeroVec c.lines i

def CoreSt.mkOf (c : CoreSt) (v : VUnit) : Nat := sget 0 c.mks v.num

def CoreSt.rtOf (c : CoreSt) (d : Dom) : W16 := sget 0 c.rt d.num

def CoreSt.level (c : CoreSt) (l : Nat) : NestLevel := sget {} c.nest l

def CoreSt.setLevel (c : CoreSt) (l : Nat) (x : NestLevel) : CoreSt := { c with nest := sset {} c.nest l x }

def nullTile : W64 := BitVec.allOnes 64

def CoreSt.ntReg (c : CoreSt) (i : Nat) : W64 := sget nullTile c.nt i

/-- The result port of a domain; V0 and V1 hold vectors (R60). -/
def zeroVal (d : Dom) : Val :=
  match d with
  | .v0 | .v1 => .vec zeroVec
  | _ => .sc 0

def CoreSt.resOf (c : CoreSt) (d : Dom) : Val := sget (zeroVal d) c.res d.num
def CoreSt.res2Of (c : CoreSt) (d : Dom) : Val := sget (zeroVal d) c.res2 d.num

def CoreSt.ring (c : CoreSt) (q : Nat) : Ring := sget {} c.rings q

def CoreSt.setRing (c : CoreSt) (q : Nat) (r : Ring) : CoreSt := { c with rings := sset {} c.rings q r }

/-- The ring bound to a head latch (R21). -/
def CoreSt.headRing (c : CoreSt) (h : Nat) : Option (Nat × Ring) := c.rings.find? (fun p => p.2.hen && p.2.hl = h)

/-- The ring bound to a tail port. -/
def CoreSt.tailRing (c : CoreSt) (t : Nat) : Option (Nat × Ring) := c.rings.find? (fun p => p.2.ten && p.2.tp = t)

def Ring.depth (r : Ring) : Nat := r.depM1 + 1
def Ring.free (r : Ring) : Nat := r.depth - r.filled
def Ring.popN (r : Ring) (n : Nat) : Ring := { r with head := (r.head + n) % r.depth, filled := r.filled - n }
def Ring.pushN (r : Ring) (n : Nat) : Ring := { r with tail := (r.tail + n) % r.depth, filled := r.filled + n }

/-! ### Input files (R17) -/

def inKey (d : Dom) (second : Bool) : Nat := 2 * d.num + b2n second

def emptyIn (d : Dom) : InFile := { last := zeroVal d }

def CoreSt.input (c : CoreSt) (d : Dom) (second : Bool) : InFile := sget (emptyIn d) c.inputs (inKey d second)

def CoreSt.setInput (c : CoreSt) (d : Dom) (second : Bool) (f : InFile) : CoreSt :=
  { c with inputs := sset (emptyIn d) c.inputs (inKey d second) f }

/-- The head: the oldest readable unread entry, or the entry read last. -/
def InFile.head (f : InFile) (now : Nat) : Val :=
  match f.q with
  | (v, at_) :: _ => if at_ ≤ now then v else f.last
  | [] => f.last

/-- The head becomes read. -/
def InFile.take (f : InFile) (now : Nat) : InFile :=
  match f.q with
  | (v, at_) :: q => if at_ ≤ now then { last := v, q := q } else f
  | [] => f

def InFile.append (f : InFile) (v : Val) (from_ : Nat) : InFile := { f with q := f.q ++ [(v, from_)] }

/-! ### The context generator (R82, R83) -/

def genZero : W64 := 0x9E3779B97F4A7C15#64

/-- Stream j of a context with this SEED on the core of this linear index, on its first issue there. -/
def seedStream (seed : W64) (lin j : Nat) : W64 :=
  let x := seed ^^^ (BitVec.ofNat 64 lin * genZero) ^^^ (BitVec.ofNat 64 j * 0xD1B54A32D192ED03#64)
  if x = 0 then genZero else x

def CoreSt.stream (c : CoreSt) (j : Nat) : W64 := sget (seedStream 0 0 j) c.gen j

def CoreSt.setStream (c : CoreSt) (j : Nat) (x : W64) : CoreSt := { c with gen := sset (seedStream 0 0 j) c.gen j x }

/-- One draw: the new state, whose upper half is the value drawn. -/
def drawStep (x : W64) : W64 :=
  let x := x ^^^ (x <<< 13)
  let x := x ^^^ (x >>> 7)
  x ^^^ (x <<< 17)

def drawOf (x : W64) : Nat := fld x 32 32

/-! ### The restart shadow (R101) -/

def CoreSt.readKey (c : CoreSt) : ShKey → Val
  | .sreg i => .sc (c.sreg i)
  | .vreg i => .vec (c.vreg i)
  | .word i => .sc (c.word i)
  | .line i => .vec (c.line i)

def CoreSt.putKey (c : CoreSt) (k : ShKey) (v : Val) : CoreSt :=
  match k with
  | .sreg i => c.setSreg i v.scalar
  | .vreg i => c.setVreg i v.vector
  | .word i => { c with words := sset 0 c.words i v.scalar }
  | .line i => { c with lines := sset zeroVec c.lines i v.vector }

/-- Writes a shadowed register by an operation of bundle `trig`: the first write of a bundle at or after the mark
records the prior value; a result from before the mark stands. -/
def CoreSt.writeKey (c : CoreSt) (trig : Nat) (k : ShKey) (f : Val → Val) : CoreSt :=
  match c.mark with
  | none => c.putKey k (f (c.readKey k))
  | some m =>
    if m.issue ≤ trig then
      ({ c with shadow := if c.shadow.any (fun e => e.1 = k) then c.shadow else (k, c.readKey k) :: c.shadow }).putKey k
        (f (c.readKey k))
    else
      ({ c with shadow := c.shadow.map (fun (e : ShKey × Val) => if e.1 = k then (k, f e.2) else e) }).putKey k (f (c.readKey k))

/-- A masked write: disabled lanes keep their contents. -/
def maskedVal (m : Mask) (new : Val) (old : Val) : Val := .vec (blend m new.vector old.vector)

def CoreSt.writeS (c : CoreSt) (trig i : Nat) (x : W64) : CoreSt := c.writeKey trig (.sreg i) (fun _ => .sc x)

def CoreSt.writeV (c : CoreSt) (trig i : Nat) (m : Mask) (v : Vec) : CoreSt :=
  c.writeKey trig (.vreg i) (maskedVal m (.vec v))

/-- KIND and INDEX of a result target latch (R18). -/
def rtKind (rt : W16) : Nat := fld rt 13 3
def rtIdx (rt : W16) : Nat := fld rt 0 10

/-! ### Stores to the segment store (R101, R154, R274) -/

/-- The place of a segment byte in a journal: of one life of its index, so that a segment freed and created again does
not take the bytes of the one before (R126). -/
def jSeg (life idx off : Nat) : Nat := 2 ^ 64 + (life * 4096 + idx) * 2 ^ 25 + off

/-- The place of a tensor byte in a journal. -/
def jTen (tid off : Nat) : Nat := tid * 2 ^ 48 + off

/-- The place of a byte of a segment as it lives now. -/
def State.jKey (s : State) (cid idx off : Nat) : Nat := jSeg (s.seg cid idx).life idx off

def putBytes : List (Nat × Byte) → Nat → List Byte → List (Nat × Byte)
  | j, _, [] => j
  | j, a, b :: bs => putBytes (aput j a b) (a + 1) bs

def overlayGo (j : List (Nat × Byte)) : Nat → List Byte → List Byte
  | _, [] => []
  | a, b :: bs => (alook j a).getD b :: overlayGo j (a + 1) bs

/-- What a journal lays over bytes read at a place. -/
def overlay (j : List (Nat × Byte)) (a : Nat) (bs : List Byte) : List Byte := if j.isEmpty then bs else overlayGo j a bs

/-- Writes bytes of a segment for the task on the core: to its journal in committed mode. -/
def State.taskWrite (s : State) (idx off : Nat) (bs : List Byte) : State :=
  if s.core.task.cm then s.upd (fun c => { c with journal := putBytes c.journal (s.jKey s.cid idx off) bs })
  else s.segWrite s.cid idx off bs

/-- Whether a placed segment, or the place one moves to, has one of n bytes of the stores from an address on. -/
def State.storeOwned (s : State) (a n : Nat) : Bool :=
  s.ctxs.any (fun c => c.2.segs.any (fun g =>
    let hit := fun (base : Nat) =>
      let lo := storeAddr (c.2.group.pclu g.2.home) + base * 64
      decide (lo < a + n) && decide (a < lo + g.2.size * 64)
    (g.2.placed && hit g.2.base) || (g.2.state = .moving && hit g.2.newBase)))

/-- Storage that a segment has left takes the bytes of an access that passed its check before, while no other segment
has it (R114, R126; log 27). -/
def State.oldWrite (s : State) (a : Nat) (bs : List Byte) : State :=
  if s.storeOwned a bs.length then s else { s with mem := s.mem.write a bs }

/-- A store to the segment it passed its check on, or, once that is freed, to the storage it had. -/
def State.performLive (s : State) (g : GStore) : State :=
  if (s.seg s.cid g.seg).life = g.life then g.pieces.foldl (fun s p => s.taskWrite g.seg p.1 p.2) s
  else if s.core.task.cm then s
  else g.pieces.foldl (fun s p => s.oldWrite (g.addr + p.1) p.2) s

/-- A store as it passes its check, with the life and the storage of its segment. -/
def State.checked (s : State) (g : GStore) : GStore :=
  { g with life := (s.seg s.cid g.seg).life, addr := s.segAddr s.cid g.seg 0 }

/-- A store that has passed its check: gated while a mark is in force, else performed. -/
def State.putStore (s : State) (g : GStore) : State :=
  match s.core.mark with
  | none => s.performLive g
  | some m => if m.issue ≤ g.trig then s.upd (fun c => { c with gated := c.gated ++ [g] }) else s.performLive g

/-- The life and the storage of the segment of a ring, as an operation that writes its tail passes its check (R126). -/
def State.ringLife (s : State) (port : Nat) : Nat × Nat :=
  match s.core.tailRing port with
  | some (_, r) =>
    if r.store = 3 then
      let idx := nameIdx (BitVec.ofNat 16 r.base)
      ((s.seg s.cid idx).life, s.segAddr s.cid idx 0)
    else (0, 0)
  | none => (0, 0)

/-! ### What a journal will hold (R274) -/

def State.layStore (s : State) (j : List (Nat × Byte)) (g : GStore) : List (Nat × Byte) :=
  g.pieces.foldl (fun j p => putBytes j (s.jKey s.cid g.seg p.1) p.2) j

/-- The line of the segment ring of a tail port that lies `ahead` entries past its tail. -/
def CoreSt.ringLine (c : CoreSt) (port ahead : Nat) : List (Nat × Nat) :=
  match c.tailRing port with
  | some (_, r) => if r.store = 3 then [(nameIdx (BitVec.ofNat 16 r.base), (r.line + (r.tail + ahead) % r.depth) * 64)] else []
  | none => []

/-- The ring lines that transfers and results write: each result takes the entry behind those before it. -/
def CoreSt.ringLines (c : CoreSt) (xs : List Xfer) (rs : List Result) (first : Nat → Nat) : List (Nat × Nat) :=
  xs.flatMap (fun x => match x.dst with
    | .tail i => c.ringLine i 0
    | _ => []) ++
  (List.range 8).flatMap (fun i =>
    (List.range (rs.filter (fun r => rtKind r.rt = 4 && rtIdx r.rt = i)).length).flatMap (fun n => c.ringLine i (first i + n)))

/-- The segment ring lines that the issuing bundle writes, through a tail port, a transfer or a result. -/
def CoreSt.stagedLines (c : CoreSt) : List (Nat × Nat) :=
  c.staged.flatMap (fun e => match e with
    | .write (.tail i) _ => c.ringLine i 0
    | _ => []) ++
  c.ringLines (c.staged.filterMap (fun e => match e with
      | .xfer x => some x
      | _ => none))
    (c.staged.filterMap (fun e => match e with
      | .result r => some r
      | _ => none))
    (fun i => (c.inflight.filter (fun r => rtKind r.rt = 4 && rtIdx r.rt = i)).length)

def State.layLines (s : State) (l : List (Nat × Nat)) (j : List (Nat × Byte)) : List (Nat × Byte) :=
  l.foldl (fun j p => putBytes j (s.jKey s.cid p.1 p.2) (List.replicate 64 0)) j

/-- The journal of the core's task with the stores that are on their way to it: the gated ones and ring lines in flight. -/
def State.journalComing (s : State) : List (Nat × Byte) :=
  let c := s.core
  s.layLines (c.ringLines c.xfers c.inflight (fun _ => 0)) (c.gated.foldl s.layStore c.journal)

/-- The gated bytes of a segment as it lives now, as a journal. -/
def gatedBytes (l : List GStore) (life idx : Nat) : List (Nat × Byte) :=
  l.foldl (fun j g => if g.seg = idx ∧ g.life = life then g.pieces.foldl (fun j p => putBytes j (jSeg life idx p.1) p.2) j else j) []

/-- Bytes of a segment as the slots of the core read them: with the task's journal and its gated stores (R101). -/
def State.slotRead (s : State) (idx off n : Nat) : List Byte :=
  let bs := s.segRead s.cid idx off n
  let bs := if s.core.task.cm then overlay s.core.journal (s.jKey s.cid idx off) bs else bs
  overlay (gatedBytes s.core.gated (s.seg s.cid idx).life idx) (s.jKey s.cid idx off) bs

/-! ### Result targets (R18) -/

/-- The first register number of a domain's own file and its allocation (R18, R100). -/
def Ctx.ownRegs (c : Ctx) (d : Dom) : Option (Nat × Nat) :=
  match d with
  | .s => some (640, c.regs)
  | .v0 => some (0, c.rega)
  | .v1 => some (320, c.regb)
  | _ => none

/-- The latch layout a value written to rt is decoded into, or none for a bad rt value (R18). -/
def decodeRt (own : Option (Nat × Nat)) (v : W64) : Option W16 :=
  let j := v.toInt
  let enc := fun (kind idx : Nat) => BitVec.ofNat 16 (kind * 8192 + idx)
  if -512 ≤ j ∧ j ≤ 511 then
    if j = 0 then some 0
    else if 0 < j then
      match own with
      | some (base, n) => if j.toNat < n then some (enc 1 (base + j.toNat)) else none
      | none => none
    else if -8 ≤ j then some (enc 2 (-1 - j).toNat)
    else if -24 ≤ j then some (enc 3 (-9 - j).toNat)
    else if -32 ≤ j then some (enc 4 (-25 - j).toNat)
    else none
  else
    let w : W16 := v.setWidth 16
    let kind := fld w 13 3
    let idx := fld w 0 10
    if 5 ≤ kind ∨ fld w 10 3 ≠ 0 then none
    else
      match kind with
      | 1 =>
        match own with
        | some (base, n) => if base ≤ idx ∧ idx < base + n then some w else none
        | none => none
      | 2 => if idx < 8 then some w else none
      | 3 => if idx < 16 then some w else none
      | 4 => if idx < 8 then some w else none
      | _ => some w

/-! ### What lands (R13, R18 to R20, R204) -/

/-- Writes the tail entry of a ring; the tail does not move (R21, R60). A masked result keeps the entry of an s-file ring where lane 0
is disabled (R174). A segment's entry is written to the storage that passed the check (R126). -/
def State.ringPut (s : State) (trig : Nat) (d : Dom) (r : Ring) (m : Mask) (v : Val) (live : Nat × Nat) : State :=
  match r.store with
  | 0 => s.upd (fun c => c.writeV trig (r.base + r.tail) m v.vector)
  | 1 => s.upd (fun c => c.writeV trig (320 + r.base + r.tail) m v.vector)
  | 2 => if bit m 0 then s.upd (fun c => c.writeS trig (r.base + r.tail) v.scalar) else s
  | _ =>
    let off := (r.line + r.tail) * 64
    let pieces : List (Nat × List Byte) :=
      match v with
      | .sc x => [(off, bytesLE 64 x.toNat)]
      | .vec v => ((List.range 16).filter (fun i => bit m i)).map (fun i => (off + 4 * i, bytesLE 4 (lane v i).toNat))
    s.putStore { trig := trig, perf := trig, dom := d, seg := nameIdx (BitVec.ofNat 16 r.base), pieces := pieces,
                 life := live.1, addr := live.2 }

/-- What was triggered before the mark and lands after it stands in the record of the mark as well (log 12). -/
def CoreSt.beforeMark (c : CoreSt) (trig : Nat) (f : Mark → Mark) : CoreSt :=
  match c.mark with
  | some m => if trig < m.issue then { c with mark := some (f m) } else c
  | none => c

def setGuardBits (g : BitVec 8) (i : Nat) (b : Bool) : BitVec 8 :=
  if i = 0 then g else if b then g ||| (1#8 <<< i) else g &&& ~~~(1#8 <<< i)

/-- A mask is written as something that was triggered in bundle `trig` lands. -/
def CoreSt.landMask (c : CoreSt) (trig i : Nat) (f : Mask → Mask) : CoreSt :=
  (c.setMask i (f (c.mask i))).beforeMark trig (fun m => if i = 0 then m else { m with masks := sset 0 m.masks i (f (sget 0 m.masks i)) })

/-- A result delivered where rt pointed at its trigger (R18, R60, R174). -/
def State.deliverTo (s : State) (r : Result) (v : Val) : State :=
  let i := rtIdx r.rt
  match rtKind r.rt with
  | 1 =>
    if i < 640 then s.upd (fun c => c.writeV r.trig i r.mask v.vector)
    else s.upd (fun c => c.writeS r.trig (i - 640) v.scalar)
  | 2 =>
    if bit r.mask 0 then
      s.upd (fun c => (c.setGuard i v.truth).beforeMark r.trig (fun m => { m with guards := setGuardBits m.guards i v.truth }))
    else s
  | 3 =>
    s.upd (fun c => c.landMask r.trig i (fun old => (old &&& ~~~r.mask) ||| (v.mask &&& r.mask)))
  | 4 =>
    match s.core.tailRing i with
    | some (q, ring) =>
      let adv := fun (x : Ring) => { x.pushN 1 with infl := x.infl - 1 }
      (s.ringPut r.trig r.dom ring r.mask v (r.life, r.addr)).upd (fun c =>
        (c.setRing q (adv (c.ring q))).beforeMark r.trig (fun m => { m with rings := sset {} m.rings q (adv (sget {} m.rings q)) }))
    | none => s
  | _ => s

/-- What sfree, sys and post do at their result bundle, with the value they deliver (R126, R159, R170). -/
def State.landAct (s : State) (a : LandAct) : State × Option W64 :=
  match a with
  | .none => (s, none)
  | .sfree n =>
    let r := s.sfree s.cid n
    (r.1.autoWake, some (BitVec.ofNat 64 r.2))
  | .sys func arg =>
    let task := fld arg 0 32
    let whole := task = 2 ^ 32 - 1
    let suspended := (s.suspendedTasks s.cid).any (fun t => t.id = task)
    if func = 1 ∧ (!whole ∨ s.me.fstop) then
      let r := s.requestResume s.cid (if whole then none else some task)
      (r.1, some (if r.2 then 0 else 1))
    else if func = 2 ∧ (whole ∨ suspended) then
      let r := s.requestAbort s.cid (if whole then none else some task)
      (r.1, some (if r.2 then 0 else 1))
    else (s, some 1)
  | .post clu card =>
    let r := s.offer s.cid clu (decodeCard card)
    (r.1, some (BitVec.ofNat 64 r.2))

/-- The value on res: disabled lanes show 0 (R174). -/
def resVal (r : Result) (v : Val) : Val :=
  match v with
  | .vec _ => .vec (blend r.mask v.vector zeroVec)
  | .sc x => .sc x

def State.landResult (s : State) (r : Result) : State :=
  let a := s.landAct r.act
  let v := match a.2 with
    | some x => Val.sc x
    | none => r.val
  let s := a.1.upd (fun c =>
    { c with res := sset (zeroVal r.dom) c.res r.dom.num (resVal r v), fst := c.fst ||| r.flags })
  let s : State := match r.val2 with
    | some v2 => s.upd (fun c => { c with res2 := sset (zeroVal r.dom) c.res2 r.dom.num v2 })
    | none => s
  s.deliverTo r v

/-- A transfer writes its destination as it lands (R13, R57, R60). Into tlN it writes the entry at the tail as the tail then stands:
which entry that is when the tail moves between issue and landing is open in R23 and R57 (DESIGN CHOICE, log 28). -/
def State.writeDst (s : State) (trig : Nat) (d : Dst) (v : Val) (live : Nat × Nat) : State :=
  match d with
  | .sreg i => s.upd (fun c => c.writeS trig i v.scalar)
  | .vreg i => s.upd (fun c => c.writeV trig i allLanes v.vector)
  | .input _ _ => s
  | .rt dom =>
    match decodeRt (s.me.ownRegs dom) v.scalar with
    | some w => s.upd (fun c => { c with rt := sset 0 c.rt dom.num w })
    | none => s
  | .mk u => s.upd (fun c => { c with mks := sset 0 c.mks u.num (fld v.scalar 0 4) })
  | .dix u => s.upd (fun c => { c with dix := sset 0 c.dix u.num (fld v.scalar 0 5) })
  | .dwr u => s.upd (fun c =>
      { (c.setDword u (c.dixOf u) v.scalar) with dix := sset 0 c.dix u.num ((c.dixOf u + 1) % 32) })
  | .dword u i => s.upd (fun c => c.setDword u i v.scalar)
  | .mreg i => s.upd (fun c => { c with mregs := sset 0 c.mregs i v.scalar })
  | .guard i => s.upd (fun c => (c.setGuard i v.truth).beforeMark trig (fun m => { m with guards := setGuardBits m.guards i v.truth }))
  | .mask i => s.upd (fun c => c.landMask trig i (fun _ => v.mask))
  | .tail i =>
    match s.core.tailRing i with
    | some (_, r) => s.ringPut trig .s r allLanes v live
    | none => s
  | .spx => s.upd (fun c => { c with spx := fld v.scalar 0 8 })
  | .spd => s.upd (fun c => { (c.writeKey trig (.word c.spx) (fun _ => .sc v.scalar)) with spx := (c.spx + 1) % 256 })

def byTrig (a b : Nat × Nat) : Bool := decide (a.1 < b.1) || (a.1 = b.1 && decide (a.2 < b.2))

/-- A mask operation's write stands unless a result of a later trigger reached the mask at this bundle (R204). -/
def maskStands (landed : List Result) (w : MaskWr) : Bool :=
  !(landed.any (fun r => rtKind r.rt = 3 && rtIdx r.rt = w.kd && byTrig (w.trig, w.v.dom.num) (r.trig, r.dom.num)))

/-- Lands everything due at or before issued bundle n: results, mask operations, permutation writes, then transfers,
whose values stand (R20). Transfers that land together do so in the order of their issue and of their slots, so the later stands and an
spx before an spd moves its place: R59 leaves that order open (DESIGN CHOICE, log 28). -/
def State.landAt (s : State) (n : Nat) : State :=
  let c := s.core
  let rs := sortBy (fun a b => byTrig (a.trig, a.dom.num) (b.trig, b.dom.num)) (c.inflight.filter (fun r => r.due ≤ n))
  let ms := sortBy (fun a b => byTrig (a.trig, a.v.num) (b.trig, b.v.num)) (c.maskq.filter (fun r => r.due ≤ n))
  let ps := sortBy (fun a b => byTrig (a.trig, a.v.num) (b.trig, b.v.num)) (c.permq.filter (fun r => r.due ≤ n))
  let xs := c.xfers.filter (fun x => x.due ≤ n)
  let s := s.upd (fun c =>
    { c with inflight := c.inflight.filter (fun r => !decide (r.due ≤ n)), maskq := c.maskq.filter (fun r => !decide (r.due ≤ n)),
             permq := c.permq.filter (fun r => !decide (r.due ≤ n)), xfers := c.xfers.filter (fun x => !decide (x.due ≤ n)) })
  -- a sys that aborts its own task ends it there: nothing of the task lands any more (R108, R159)
  let live := fun (s : State) => c.run = .idle || s.core.run ≠ .idle
  let s := rs.foldl (fun s r => if live s then s.landResult r else s) s
  if live s then
    let s := ms.foldl (fun s w => if maskStands rs w then s.upd (fun c => c.landMask w.trig w.kd (fun _ => w.val)) else s) s
    let s := ps.foldl (fun s w => s.upd (fun c => c.setPerm w.pd w.val)) s
    xs.foldl (fun s x => s.writeDst x.trig x.dst x.val (x.life, x.addr)) s
  else s

/-- Every exposed result and transfer of earlier bundles lands (R66), at most 24 bundles ahead. -/
def State.drain (s : State) : State :=
  (List.range 25).foldl (fun s k => s.landAt (s.core.issued + k)) s

/-! ### Marks and rollback (R101, R102) -/

/-- Commits the shadow: gated stores perform in order and the records are dropped. -/
def State.commit (s : State) : State :=
  let g := s.core.gated
  g.foldl State.performLive (s.upd (fun c => { c with gated := [], shadow := [], dshadow := [], counted := [], mark := none }))

/-- A mark at the bundle about to issue. -/
def State.takeMark (s : State) : State :=
  s.commit.upd (fun c =>
    { c with markNext := false,
             mark := some { pc := c.pc, issue := c.issued, guards := c.guards, masks := c.masks, rings := c.rings,
                            nest := c.nest, fst := c.fst, fmt := c.fmt, fmtq := c.fmtq, gen0 := c.stream 0,
                            branches := c.branches } })

def CoreSt.restoreMark (c : CoreSt) (m : Mark) : CoreSt :=
  let c := c.shadow.foldl (fun c e => c.putKey e.1 e.2) c
  let c := c.dshadow.foldl (fun c e => c.setDword e.1 e.2.1 e.2.2) c
  { c.setStream 0 m.gen0 with
    guards := m.guards, masks := m.masks, rings := m.rings, nest := m.nest, fst := m.fst, fmt := m.fmt, pc := m.pc,
    -- a FMTW that waited at the mark comes into force as many bundles after the mark as it would have (R49)
    fmtq := m.fmtq.map (fun (f : FmtWr) => { f with due := f.due + (c.issued - m.issue) }),
    -- and a branch taken before it takes effect after its own delay bundles (R67)
    branches := m.branches.map (fun b => (b.1 + (c.issued - m.issue), b.2)) }

/-- Rollback (R102), after the exposed results have landed: fetch resumes at the mark, which is taken again. A task that has ended at
its mark goes back there (R371). -/
def State.rollback (s : State) : State :=
  s.upd (fun c =>
    let c := match c.markNext, c.mark with
      | false, some m => c.restoreMark m
      | _, _ => c
    let c := { c with ended := c.ended && !c.markNext }
    { c with shadow := [], dshadow := [], counted := [], gated := [], mark := none, markNext := true, inputs := [], stores := [] })

/-- The bundle index of the mark in force (R107). -/
def CoreSt.markPc (c : CoreSt) : Nat :=
  match c.markNext, c.mark with
  | false, some m => m.pc
  | _, _ => c.pc

/-! ### Taking a fault (R102, R105 to R107) -/

/-- R287: the slip cause a suspended timed task falls under. -/
def Cause.slip : Cause → Nat
  | .overrun => 4
  | .timedStall => 5
  | _ => 6

/-- Each core on which a task of the context runs, or waits under AUTO, is asked to stop at its next safe point (R93, R106). -/
def State.askStop (s : State) (cid : Nat) : State :=
  let ts := s.tasks.filter (fun t => t.cid = cid && (t.state = .running || t.autoWaits))
  ts.foldl (fun s t =>
    match t.core with
    | some k => s.onCore k (fun c =>
        if (c.run = .running || (c.run = .faulted && t.autoWaits)) && c.task.cid = cid then { c with preempt := true } else c)
    | none => s) s

/-- With FSTOP = 1 a suspending fault suspends the context: its other cores stop at their next safe point (R93). -/
def State.stopContext (s : State) (cid : Nat) : State :=
  if (s.ctx cid).fstop then
    let s := s.askStop cid
    s.onCtx cid (fun c => { c with state := .suspended })
  else s.settleCtx cid

/-- The record of a fault on physical core k (R107). -/
def State.recordOf (s : State) (k : Nat) (t : Option Task) (f : FaultInfo) (auto : Bool) (roll : Bool) (cid id : Nat) : FaultRec :=
  let c := s.getCore k
  { code := f.cause.code, rstb := f.cause.resumePoint ≠ .none, roll := roll, auto := auto, unit := f.unit,
    core := f.core.getD (linOf c.coord), task := match t with
      | some t => t.id
      | none => keyTask id,
    bidx := f.bidx.getD c.pc, mark := c.markPc, frame := BitVec.ofNat 64 (s.frameCtx cid), wher := f.wher, info := f.info,
    resume := f.resume }

/-- The page a PAGE_ABSENT names. -/
def FaultInfo.waitPage (f : FaultInfo) : Option (Nat × Nat) :=
  if f.cause = .pageAbsent then some (fld f.wher 0 16, fld f.wher 16 48) else none

/-- A core's own fault: the exposed results land, a fault that resumes at the mark rolls back to it, the recall it asks
for starts, the record is written, and the restart policy of the task decides (R102, R105 to R107). -/
def State.takeFault (s : State) (f : FaultInfo) : State :=
  let k := s.cur
  let cid := s.cid
  let id := s.core.task.key
  let rpol := s.core.task.rpol
  let roll := f.cause.resumePoint = .mark
  let f := { f with bidx := some (f.bidx.getD s.core.pc) }
  let auto := rpol = 0 && f.autoable
  let r := s.recordOf k none f auto roll cid id
  let was := s.core.run
  let s := s.drain
  -- a sys that has landed may have aborted the task itself (R159)
  if was ≠ .idle && s.core.run = .idle then s
  else
  let s : State := if roll then s.rollback else s
  let s := s.upd (fun c => { c with run := .faulted, skipBrk := if f.cause = .brk then f.bidx else c.skipBrk })
  let s := s.requestRecall cid f.recalls
  let mine := fun (t : Task) => t.is cid id && t.core = some k
  let s := s.onTask mine (fun t =>
    { t with state := .faulted, rstb := if auto then t.rstb else t.rstb ++ [r.rstb], autow := auto,
             waitSeg := if auto then f.recalls else [], waitPg := if auto then f.waitPage else none,
             cuts := if auto then t.cuts else [], book := if t.timed && !auto then [] else t.book, susp := f.cause.slip })
  let s := s.record cid r (some k)
  if auto then s.settleCtx cid
  else if rpol = 2 ∧ f.cause ≠ .brk then
    match s.tasks.find? mine with
    | some t => s.abortTask t
    | none => s.upd CoreSt.freed
  else s.stopContext cid

/-- A fault found while a bundle is checked: the fault is taken, and the bundle does not execute (R68, R102). -/
def State.raise (s : State) (f : FaultInfo) : State := (s.takeFault f).upd (fun c => { c with raised := some f })

/-- A wait found while a bundle is checked: the bundle holds in an elastic task, and raises TIMED_STALL in a timed one
(R24, R155, R172, R209). -/
def State.holdMove (s : State) (unit : Nat) : State :=
  if s.core.task.timed then s.raise { cause := .timedStall, unit := unit } else s.upd (fun c => { c with held := true })

/-- An engine's fault on core k, task `id` (R229, R240): under AUTO the command waits for the device; else the record is
written and the core stops. OVERRUN and TIMED_STALL roll the core back. -/
def State.engineFault (s : State) (f : FaultInfo) (cid id : Nat) : State × Bool :=
  let k := s.cur
  let own := s.core.task.cid = cid && s.core.task.key = id
  let rpol := if own then s.core.task.rpol else
    match s.taskOn k cid id with
    | some t => t.tcb.rpol
    | none => 1
  let rebook := f.cause = .timedStall || f.cause = .overrun
  let auto := rpol = 0 && f.autoable
  let r := s.recordOf k none f auto rebook cid id
  let s : State := if rebook && own then s.drain.rollback else s
  let s := s.requestRecall cid f.recalls
  let mine := fun (t : Task) => t.is cid id && t.core = some k
  if auto then (s.record cid r none, true)
  else
    let s : State := if own then s.upd (fun c =>
        if c.run = .running || (c.run = .retiring && !c.ended) then { c with run := .faulted } else c) else s
    let s := s.onTask mine (fun t =>
      { t with state := .faulted, rstb := t.rstb ++ [r.rstb], cuts := [], book := if t.timed then [] else t.book, susp := f.cause.slip })
    let s := s.record cid r (some k)
    if rpol = 2 then
      match s.tasks.find? mine with
      | some t => (s.abortTask t, false)
      | none => (s, false)
    else (s.stopContext cid, false)

/-! ### The way back (R105, R108, R262) -/

/-- A faulted command goes on; one that had not started waits for its start. -/
def Cmd.woken (x : Cmd) : Cmd := { x with st := if x.total = 0 then .queued else .running, auto := false, wait := [], waitPg := none }

/-- The M commands and the routine of a resumed task are free to go on; a routine restarts from ENTRY (R229). -/
def Matrix.woken (m : Matrix) (cid id : Nat) : Matrix :=
  { m with queue := m.queue.map (fun k => if k.cid = cid ∧ k.task = id then { k with faulted := false, auto := false, wait := [] } else k),
           routine := m.routine.map (fun r => if r.call.cid = cid ∧ r.call.task = id then { r with faulted := false } else r) }

/-- A routing slot whose command has been resumed goes on with what it did (R318). -/
def GSlot.woken (g : GSlot) (p : Nat × CUnit × Nat → Bool) : GSlot :=
  if g.state = .faulted && g.cmd.any p then { g with state := if g.inverting then .inverting else .running } else g

def State.wakeSlots (s : State) (p : Nat × CUnit × Nat → Bool) : State := { s with gslots := s.gslots.map (fun g => (g.1, g.2.woken p)) }

/-- A task that resumed and was chosen again goes on where it stopped: its core issues from the resume point, and its
faulted commands are free to go on. -/
def State.returnFromFault (s : State) (t : Task) : State :=
  -- a task behind another one on its core has ended (R273)
  let ovr := fun (c : CoreSt) => c.ended || !(c.task.cid = t.cid && c.task.key = t.key)
  let done : Bool := match t.core with
    | some k => ovr (s.getCore k)
    | none => false
  let s := s.onTask (fun x => x.is t.cid t.key && x.core = t.core)
    (fun x => { x with state := if done then .retiring else .running, resume := false })
  let wake := fun (e : CEngine) =>
    { e with cmds := e.cmds.map (fun x => if x.st = .faulted && x.cid = t.cid && x.task = t.key then x.woken else x),
             subs := e.subs.map (fun x => if x.2.cid = t.cid && x.2.task = t.key then (x.1, { x.2 with faulted := false }) else x) }
  match t.core with
  | some k =>
    let s := s.wakeSlots (fun x => x.1 = k && ((s.getCore k).eng x.2.1).cmds.any (fun y =>
      y.id = x.2.2 && y.st = .faulted && y.cid = t.cid && y.task = t.key))
    (s.onCore k (fun c =>
      { c with run := if c.run = .faulted && c.task.cid = t.cid && c.task.key = t.key then (if done then .retiring else .running) else c.run,
               eng0 := wake c.eng0, eng1 := wake c.eng1,
               mat := c.mat.woken t.cid t.key })).settleCtx t.cid
  | none => s.settleCtx t.cid

end Sys2Proof.Machine
end

