-- ==== Sys2Proof/Machine/Operands.lean ====
section
/-! DEFINITION. The operand forms of a move: sources (R53, R54, R56, R58), destinations (R55, R57, R60), guards (R52),
status words (R148, R176, R216, R237), and what a trigger samples as it issues (R16 to R18, R88, R174). -/

namespace Sys2Proof.Machine

/-! ### Sources -/

/-- What a source number names in a slot. -/
inductive SrcKind where
  | imm (v : W64)
  | sreg (i : Nat)
  | vreg (i : Nat)
  | limm
  | res (d : Dom)
  | res2 (d : Dom)
  | status (d : Dom)
  | rt (d : Dom)
  | mk (v : VUnit)
  | head (h : Nat)
  | nest (l : Nat)
  | nt (i : Nat)
  | frame
  | cycle
  | mreg (i : Nat)
  | drd (u : CUnit)
  | dix (u : CUnit)
  | guard (i : Nat)
deriving DecidableEq, Repr, Inhabited

def domOf (n : Nat) : Dom :=
  match n with
  | 0 => .s
  | 1 => .v0
  | 2 => .v1
  | 3 => .m
  | 4 => .c0
  | _ => .c1

/-- Numbers 0 to 703 (R53). -/
def regSrc (n : Nat) : SrcKind := if n < 640 then .vreg n else .sreg (n - 640)

/-- SRC 704 to 1023 of a domain slot (R56). -/
def domainSrc (d : Dom) (n : Nat) : Option SrcKind :=
  if n = 704 then some (.res d)
  else if n = 705 then some (.res2 d)
  else if n = 706 then some (.status d)
  else if n = 707 then some .limm
  else if n = 708 then some (.rt d)
  else if n = 709 then
    match d with
    | .v0 => some (.mk .v0)
    | .v1 => some (.mk .v1)
    | _ => none
  else if n < 718 then some (.head (n - 710))
  else if n < 724 then some (.nest (n - 718))
  else if n < 728 then some (.nt (n - 724))
  else if n = 728 then some .frame
  else if n = 729 then some .cycle
  else
    match d with
    | .m => if n < 738 then some (.mreg (n - 730)) else none
    | .c0 => if n = 730 then some (.drd .c0) else if n = 731 then some (.dix .c0) else none
    | .c1 => if n = 730 then some (.drd .c1) else if n = 731 then some (.dix .c1) else none
    | _ => none

/-- SRC 704 to 1023 of X0 and X1 (R58). -/
def xferSrc (n : Nat) : Option SrcKind :=
  if n < 722 then
    match (n - 704) % 3 with
    | 0 => some (.res (domOf ((n - 704) / 3)))
    | 1 => some (.res2 (domOf ((n - 704) / 3)))
    | _ => some (.status (domOf ((n - 704) / 3)))
  else if n = 722 then some .limm
  else if n < 731 then some (.head (n - 723))
  else if n < 739 then some (.guard (n - 731))
  else if n = 739 then some .frame
  else if n = 740 then some .cycle
  else none

/-- What a source names in a slot; none raises ILLEGAL_MOVE (R53, R68). -/
def srcKind (sl : Slot) (src : Src) : Option SrcKind :=
  let n := src.toNat
  if 1024 ≤ n then some (.imm ((src.extractLsb' 0 10).signExtend 64))
  else
    match sl.dom? with
    | none => if n < 704 then some (regSrc n) else xferSrc n
    | some d => if n < 704 then (if ownFile d n then some (regSrc n) else none) else domainSrc d n

/-- Whether a register number 0 to 703 lies within the allocation (R100). -/
def Ctx.allocated (c : Ctx) (n : Nat) : Bool :=
  if n < 320 then decide (n < c.rega) else if n < 640 then decide (n - 320 < c.regb) else decide (n - 640 < c.regs)

/-- The domain of a ring's file; a segment ring and a ring in the s-file count as S (R59). -/
def Ring.dom (r : Ring) : Dom :=
  match r.store with
  | 0 => .v0
  | 1 => .v1
  | _ => .s

/-- The domain a source counts in for transfer timing (R13, R59). -/
def CoreSt.srcDom (c : CoreSt) (k : SrcKind) : Dom :=
  match k with
  | .vreg i => if i < 320 then .v0 else .v1
  | .res d => d
  | .res2 d => d
  | .status d => d
  | .head h =>
    match c.headRing h with
    | some (_, r) => r.dom
    | none => .s
  | _ => .s

/-! ### Status words -/

/-- Loads, stores, atomics and posts of a domain not yet performed. -/
def CoreSt.memq (c : CoreSt) (d : Dom) : Nat :=
  (c.inflight.filter (fun r => r.dom = d && r.mem)).length + (c.stores.filter (fun x => x.1 = d && decide (c.issued < x.2))).length

/-- The innermost armed nest level, 0 when none. -/
def CoreSt.innermost (c : CoreSt) : Nat :=
  ([1, 2, 3, 4, 5, 6] : List Nat).foldl (fun best l => if (c.level l).arm then l else best) 0

/-- R148. -/
def CoreSt.statusS (c : CoreSt) : W64 :=
  BitVec.ofNat 64 (pack [(0, 4, min (c.memq .s) 7), (4, 3, c.nxts.length), (7, 2, c.ntp), (9, 3, c.innermost)])

/-- R176. -/
def CoreSt.statusV (c : CoreSt) (v : VUnit) : W64 :=
  BitVec.ofNat 64 (pack [(0, 4, min (c.memq v.dom) 15), (4, 4, (c.permq.filter (fun p => p.v = v && p.solve)).length),
    (8, 4, c.mkOf v)])

/-- Whether a queued command belongs to the load lane (R215). -/
def MCmd.load (c : MCmd) : Bool := c.kind = .bload

/-- The command the compute lane holds, when no routine runs. -/
def Matrix.computeHead (m : Matrix) : Option MCmd :=
  if m.routine.isSome then none else m.queue.find? (fun c => !c.load)

/-- The bload the load lane holds: the first, once every bswap issued before it has executed. -/
def Matrix.loadHead (m : Matrix) : Option MCmd :=
  match m.queue.find? MCmd.load with
  | some b => if m.queue.any (fun c => c.kind = .bswap && decide (c.seq < b.seq)) then none else some b
  | none => none

/-- Commands in the M queue, the routine's call among them until it commits. -/
def Matrix.waiting (m : Matrix) : Nat := m.queue.length + b2n m.routine.isSome

/-- ACCRP: accumulators with a release pending. -/
def Matrix.relMask (m : Matrix) : Nat :=
  ((List.range 8).map (fun a => if m.relPend.any (fun p => p.1 = a) then 2 ^ a else 0)).foldl (· + ·) 0

/-- R216. -/
def Matrix.status (m : Matrix) : W64 :=
  BitVec.ofNat 64 (pack [(0, 4, m.waiting), (4, 1, b2n m.routine.isSome), (5, 1, b2n m.loadHead.isSome), (6, 1, b2n m.active),
    (7, 1, b2n m.warm), (8, 11, match m.routine with
      | some r => r.mpc
      | none => 0), (19, 8, m.zeroTag.toNat), (27, 8, m.relMask)])

/-- R237. -/
def CEngine.status (e : CEngine) : W64 :=
  BitVec.ofNat 64 (pack [(0, 6, (e.cmds.filter (fun c => c.st = .queued)).length), (6, 3, (e.cmds.filter (fun c => c.st ≠ .queued)).length),
    (9, 5, e.closed.length), (14, 1, b2n (e.openN ≠ 0)), (15, 1, b2n (e.cmds.any (fun c => c.st = .faulted) || e.subs.any (fun x => x.2.faulted))),
    (16, 8, ((List.range 8).map (fun i => if e.subs.any (fun x => x.1 = i) then 2 ^ i else 0)).foldl (· + ·) 0)])

def CoreSt.status (c : CoreSt) (d : Dom) : W64 :=
  match d with
  | .s => c.statusS
  | .v0 => c.statusV .v0
  | .v1 => c.statusV .v1
  | .m => c.mat.status
  | .c0 => c.eng0.status
  | .c1 => c.eng1.status

/-! ### Reading a source -/

/-- What reading a source gives: a value, with the segments it touched; a fault; or a wait. -/
inductive Rd where
  | val (v : Val) (touch : List Nat)
  | fault (f : FaultInfo)
  | hold
deriving DecidableEq, Repr

/-- The pins of a timed task, by index (R121). -/
def CoreSt.pinSet (c : CoreSt) : Option (List Nat) := if c.task.timed then some c.task.pins else none

/-- The tiles that a tile command of an engine, queued, running or faulted, writes or marks (R315). -/
def CEngine.locks (e : CEngine) (cid seg t : Nat) : Bool := e.cmds.any (fun c => c.cid = cid && c.locks.contains (seg, t))

/-- Under ATOM = W an access of the core's slots to a tile of a context waits for a tile command of the core (R96, R315). -/
def State.tileHeld (s : State) (cid seg t : Nat) : Bool :=
  !(s.ctx cid).atom && (s.core.eng0.locks cid seg t || s.core.eng1.locks cid seg t)

/-- The same of the tiles of n bytes. -/
def State.lockedIn (s : State) (cid seg off n : Nat) : Bool := (tileSpan off n).any (s.tileHeld cid seg)

/-- The locks on the tiles of the context on the core. -/
def State.tileLocked (s : State) (seg off n : Nat) : Bool := s.lockedIn s.cid seg off n

/-- An access of a slot to bytes of one segment homed in the core's cluster (R121, R123, R155, R315). -/
def State.slotAccess (s : State) (exts : List Ext) (write : Bool) : Rd :=
  match s.me.acquire s.core.pinSet (some s.lclu) false exts with
  | .fault f => .fault f
  | .hold => .hold
  | .ok segs =>
    if exts.all (fun x => (s.me.seg (nameIdx x.name)).tilesOk x.off x.len write && !s.tileLocked (nameIdx x.name) x.off x.len)
    then .val (.sc 0) segs else .hold

/-- The entry at the head of a ring (R21, R60); `vector`: the destination takes lanes. -/
def State.readHead (s : State) (r : Ring) (vector : Bool) : Rd :=
  match r.store with
  | 0 => .val (.vec (s.core.vreg (r.base + r.head))) []
  | 1 => .val (.vec (s.core.vreg (320 + r.base + r.head))) []
  | 2 => .val (.sc (s.core.sreg (r.base + r.head))) []
  | _ =>
    let name := BitVec.ofNat 16 r.base
    let off := (r.line + r.head) * 64
    match s.slotAccess [⟨name, off, 64⟩] false with
    | .val _ t =>
      let bs := s.slotRead (nameIdx name) off 64
      if vector then
        .val (.vec ((List.range 16).map (fun i => BitVec.ofNat 32 (natLE ((bs.drop (4 * i)).take 4))) ++ List.replicate 240 0)) t
      else .val (.sc (BitVec.ofNat 64 (natLE (bs.take 8)))) t
    | .fault f => .fault f
    | .hold => .hold

/-- Bundle `i` of the instruction store. -/
def CoreSt.bundle (c : CoreSt) (i : Nat) : BitVec 256 := sget fillBundle c.istore i

/-- The payload of the issuing bundle as limm reads it (R48). -/
def State.header (s : State) : Header := decodeHeader (headerBits (s.core.bundle s.core.pc))

/-- limm is the payload, sign-extended, also where HK is 1 or 2, for which R48 gives it no value (DESIGN CHOICE, log 28). -/
def State.limm (s : State) : W64 := s.header.pay.signExtend 64

/-- Reads a source at the start of the bundle (R56, R58, R59). An unbound latch raises ILLEGAL_MOVE (R22). -/
def State.readSrc (s : State) (k : SrcKind) (vector : Bool) : Rd :=
  let c := s.core
  match k with
  | .imm v => .val (.sc v) []
  | .sreg i => .val (.sc (c.sreg i)) []
  | .vreg i => .val (.vec (c.vreg i)) []
  | .limm => .val (.sc s.limm) []
  | .res d => .val (c.resOf d) []
  | .res2 d => .val (c.res2Of d) []
  | .status d => .val (.sc (c.status d)) []
  | .rt d => .val (.sc ((c.rtOf d).setWidth 64)) []
  | .mk v => .val (.sc (BitVec.ofNat 64 (c.mkOf v))) []
  | .head h =>
    match c.headRing h with
    | some (_, r) => s.readHead r vector
    | none => .fault { cause := .illegalMove }
  | .nest l => .val (.sc (BitVec.ofNat 64 (c.level (l + 1)).idx)) []
  | .nt i => .val (.sc (c.ntReg i)) []
  | .frame => .val (.sc (BitVec.ofNat 64 (s.frameCtx s.cid))) []
  | .cycle => .val (.sc c.cycle) []
  | .mreg i => .val (.sc (c.mreg i)) []
  | .drd u => .val (.sc (c.dword u (c.dixOf u))) []
  | .dix u => .val (.sc (BitVec.ofNat 64 (c.dixOf u))) []
  | .guard i => .val (.sc (if c.guard i then 1 else 0)) []

/-! ### Destinations -/

/-- A non-trigger destination of a slot (R53, R55, R57). -/
def dstOf (sl : Slot) (n : Nat) : Option Dst :=
  if n < 640 then some (.vreg n)
  else if n < 704 then some (.sreg (n - 640))
  else
    match sl.dom? with
    | some d =>
      if n = 704 then some (.input d false)
      else if n = 705 then some (.input d true)
      else if n = 706 then some (.rt d)
      else
        match d with
        | .v0 => if n = 707 then some (.mk .v0) else none
        | .v1 => if n = 707 then some (.mk .v1) else none
        | .m => if 708 ≤ n ∧ n ≤ 715 then some (.mreg (n - 708)) else none
        | .c0 => if n = 708 then some (.dix .c0) else if n = 709 then some (.dwr .c0) else none
        | .c1 => if n = 708 then some (.dix .c1) else if n = 709 then some (.dwr .c1) else none
        | .s => none
    | none =>
      if n < 722 then
        match (n - 704) % 3 with
        | 0 => some (.input (domOf ((n - 704) / 3)) false)
        | 1 => some (.input (domOf ((n - 704) / 3)) true)
        | _ => some (.rt (domOf ((n - 704) / 3)))
      else if n < 730 then some (.mreg (n - 722))
      else if n < 762 then some (.dword .c0 (n - 730))
      else if n < 794 then some (.dword .c1 (n - 762))
      else if n < 802 then some (.guard (n - 794))
      else if n < 818 then some (.mask (n - 802))
      else if n < 826 then some (.tail (n - 818))
      else if n = 826 then some .spx
      else if n = 827 then some .spd
      else none

/-- The domain a destination counts in (R13, R59). -/
def Dst.dom : Dst → Dom
  | .sreg _ => .s
  | .vreg i => if i < 320 then .v0 else .v1
  | .input d _ => d
  | .rt d => d
  | .mk u => u.dom
  | .dix u => u.dom
  | .dwr u => u.dom
  | .dword u _ => u.dom
  | .mreg _ => .m
  | .guard _ => .s
  | .mask _ => .v0
  | .tail _ => .s
  | .spx => .s
  | .spd => .s

/-- Whether a destination takes lanes (R60). -/
def State.dstVector (s : State) (d : Dst) : Bool :=
  match d with
  | .vreg _ => true
  | .input .v0 _ => true
  | .input .v1 _ => true
  | .tail i =>
    match s.core.tailRing i with
    | some (_, r) => decide (r.store < 2)
    | none => false
  | _ => false

/-- The dynamic checks of step 5 of R70 on a destination: input-file overflow (R17), a bad rt value (R18), an unbound
tail port (R22); for a segment ring also the access to its tail line (R195, R206). -/
def State.checkDst (s : State) (d : Dst) (v : Val) : Rd :=
  match d with
  | .input dom second => if 4 ≤ (s.core.input dom second).q.length then .fault { cause := .illegalMove } else .val v []
  | .rt dom =>
    match decodeRt (s.me.ownRegs dom) v.scalar with
    | some _ => .val v []
    | none => .fault { cause := .illegalMove }
  | .tail i =>
    match s.core.tailRing i with
    | some (_, r) =>
      if r.store = 3 then
        match s.slotAccess [⟨BitVec.ofNat 16 r.base, (r.line + r.tail) * 64, 64⟩] true with
        | .val _ t => .val v t
        | x => x
      else .val v []
    | none => .fault { cause := .illegalMove }
  | _ => .val v []

/-! ### Staging (R45, R68): the effects of a bundle wait until every check has passed -/

def State.stage (s : State) (es : List Eff) : State := s.upd (fun c => { c with staged := c.staged ++ es })

def State.raiseIn (s : State) (sl : Slot) (f : FaultInfo) : State := s.raise { f with unit := sl.num }

/-- Reads the source of a move and goes on with its value; a false guard does nothing (R52). -/
def State.withSrc (s : State) (sl : Slot) (g : Guard) (src : Src) (vector : Bool) (k : Val → List Nat → State) : State :=
  if !s.core.guard g.toNat then s
  else
    match srcKind sl src with
    | none => s.raiseIn sl { cause := .illegalMove }
    | some sk =>
      match s.readSrc sk vector with
      | .val v t => k v t
      | .fault f => s.raiseIn sl f
      | .hold => s.holdMove sl.num

def touches (t : List Nat) : List Eff := t.map Eff.touch

/-- A move of a domain slot into a register or a non-trigger port. -/
def State.moveInto (s : State) (sl : Slot) (g : Guard) (dst : Dst) (src : Src) : State :=
  s.withSrc sl g src (s.dstVector dst) (fun v t =>
    match s.checkDst dst v with
    | .val v t2 =>
      match dst with
      | .input d second => s.stage (touches t ++ [.append d second (v.forDom d) (s.core.issued + 1)])
      | _ => s.stage (touches (t ++ t2) ++ [.write dst v])
    | .fault f => s.raiseIn sl f
    | .hold => s.holdMove sl.num)

/-- A transfer: it lands in the bundle after it within a domain, in the second bundle after it across domains (R13). -/
def State.transferInto (s : State) (sl : Slot) (g : Guard) (dst : Dst) (src : Src) : State :=
  s.withSrc sl g src (s.dstVector dst) (fun v t =>
    match s.checkDst dst v with
    | .val v t2 =>
      let same : Bool := match srcKind sl src with
        | some sk => decide (s.core.srcDom sk = dst.dom)
        | none => false
      let due := s.core.issued + (if same then 1 else 2)
      match dst with
      | .input d second => s.stage (touches t ++ [.append d second (v.forDom d) due])
      | _ => s.stage (touches (t ++ t2) ++ [.xfer { due := due, trig := s.core.issued, dst := dst, val := v }])
    | .fault f => s.raiseIn sl f
    | .hold => s.holdMove sl.num)

/-! ### Triggers (R16, R18, R19, R88, R174) -/

/-- What a trigger has sampled: its bundle, its operands in the order of R16, rt, mask and format register. -/
structure Trig where
  dom  : Dom
  now  : Nat
  a    : Val
  b    : Val
  t    : Val
  rt   : W16
  mask : Mask
  fmt  : BitVec 40
  touch : List Nat
  reads : Nat                             -- input files read: 0, 1 or 2
deriving DecidableEq, Repr

/-- Results of a unit, and any staged by the issuing bundle, that land at a bundle (R19). -/
def CoreSt.collides (c : CoreSt) (d : Dom) (due : Nat) : Bool := c.inflight.any (fun r => r.dom = d && r.due = due)

/-- Whether an operation that delivers can go to the target rt names: a segment ring's tail line has to be accessible
(R206), a port bound (R22). -/
def State.checkTarget (s : State) (rt : W16) : Rd :=
  if rtKind rt = 4 then
    match s.core.tailRing (rtIdx rt) with
    | none => .fault { cause := .illegalMove }
    | some (_, r) =>
      if r.store = 3 then
        s.slotAccess [⟨BitVec.ofNat 16 r.base, (r.line + (r.tail + r.infl) % r.depth) * 64, 64⟩] true
      else .val (.sc 0) []
  else .val (.sc 0) []

/-- What a trigger of domain `d` samples, given the value of its source and the segments that reading it touched. -/
def State.trigAt (s : State) (d : Dom) (v : Val) (t : List Nat) (reads : Nat) : Trig :=
  let c := s.core
  { dom := d, now := c.issued, a := (c.input d false).head c.issued, b := (c.input d true).head c.issued, t := v.forDom d,
    rt := c.rtOf d,
    mask := match d.vu? with
      | some u => c.mask (c.mkOf u)
      | none => allLanes,
    fmt := c.fmt, touch := t, reads := reads }

/-- A trigger of domain `d` whose operation takes `reads` input files and delivers with exposed latency `lat`, or
delivers nothing: the checks of step 5, then the operation itself. -/
def State.trigger (s : State) (d : Dom) (g : Guard) (src : Src) (reads : Nat) (lat : Option Nat) (k : Trig → State) : State :=
  let sl := d.slot
  s.withSrc sl g src d.vu?.isSome (fun v t =>
    match lat with
    | none => k (s.trigAt d v t reads)
    | some l =>
      if s.core.collides d (s.core.issued + l) then s.raiseIn sl { cause := .illegalMove }
      else
        match s.checkTarget (s.core.rtOf d) with
        | .val _ t2 => k (s.trigAt d v (t ++ t2) reads)
        | .fault f => s.raiseIn sl f
        | .hold => s.holdMove sl.num)

/-- The effects every trigger has: the heads it read become read, the segments it touched take AGE. -/
def Trig.took (tr : Trig) : List Eff :=
  touches tr.touch ++ (if 1 ≤ tr.reads then [Eff.took tr.dom false] else []) ++ (if 2 ≤ tr.reads then [Eff.took tr.dom true] else [])

/-- An operation that delivers a result. -/
def State.deliver (s : State) (tr : Trig) (lat : Nat) (v : Val) (v2 : Option Val := none) (fl : Flags := 0) (mem : Bool := false)
    (act : LandAct := .none) (mask : Mask := tr.mask) (more : List Eff := []) : State :=
  let r : Result :=
    { due := tr.now + lat, trig := tr.now, dom := tr.dom, val := v, val2 := v2, rt := tr.rt, mask := mask, flags := fl, mem := mem,
      act := act }
  let infl := if rtKind tr.rt = 4 then
      match s.core.tailRing (rtIdx tr.rt) with
      | some (q, _) => [Eff.ringInfl q]
      | none => []
    else []
  s.stage (tr.took ++ [Eff.result r] ++ infl ++ more)

/-- An operation that delivers nothing. -/
def State.effects (s : State) (tr : Trig) (es : List Eff) : State := s.stage (tr.took ++ es)

end Sys2Proof.Machine
end

