-- ==== Sys2Proof/Machine/Formats.lean ====
section
/-! DEFINITION. Number formats and arithmetic (04_number_formats): what every format's bits stand for (R71 to R78),
rounding and conversion (R77, R80 to R84), IEEE arithmetic by exact values rounded once (R85, R178 to R180). -/

namespace Sys2Proof.Machine

/-- A number as a format's bits stand for it: a sign with an exact magnitude num/den, an infinity, or a NaN (which
may be signalling). -/
inductive Num where
  | fin (neg : Bool) (num den : Nat)
  | inf (neg : Bool)
  | nan (sig : Bool)
deriving DecidableEq, Repr, Inhabited

/-- Parameters of a binary floating format (R74): exponent and fraction widths, bias, the largest finite magnitude's
code, whether it has infinities and NaNs, and the canonical NaN. -/
structure FP where
  eb     : Nat
  m      : Nat
  bias   : Nat
  maxEnc : Nat
  hasInf : Bool
  nan    : Nat
deriving DecidableEq, Repr

def fp4 : FP := ⟨2, 1, 1, 7, false, 0⟩
def fp6a : FP := ⟨2, 3, 1, 31, false, 0⟩
def fp6b : FP := ⟨3, 2, 3, 31, false, 0⟩
def fp8a : FP := ⟨4, 3, 7, 0x7E, false, 0x7F⟩
def fp8b : FP := ⟨5, 2, 15, 0x7B, true, 0x7E⟩
def fp16 : FP := ⟨5, 10, 15, 0x7BFF, true, 0x7E00⟩
def bf16 : FP := ⟨8, 7, 127, 0x7F7F, true, 0x7FC0⟩
def fp19 : FP := ⟨8, 10, 127, 0x3FBFF, true, 0x3FE00⟩
def fp32 : FP := ⟨8, 23, 127, 0x7F7FFFFF, true, 0x7FC00000⟩
def fp64 : FP := ⟨11, 52, 1023, 0x7FEFFFFFFFFFFFFF, true, 0x7FF8000000000000⟩

/-- The kinds of format codes (R71). -/
inductive Fmt where
  | int (signed : Bool) (bits : Nat)
  | ter2
  | fp (p : FP)
  | fp19box
  | d8
  | mxint8
deriving DecidableEq, Repr

/-- The element format of a code; an MX code's element is that of R71, and codes 24 and above have none. -/
def fmtOf (code : Nat) : Option Fmt :=
  match code with
  | 0 => some (.int true 4)
  | 1 => some (.int false 4)
  | 2 => some .ter2
  | 3 => some (.fp fp4)
  | 4 => some (.int true 8)
  | 5 => some (.int false 8)
  | 6 => some (.fp fp6a)
  | 7 => some (.fp fp6b)
  | 8 => some (.fp fp8a)
  | 9 => some (.fp fp8b)
  | 10 => some .d8
  | 11 => some (.int true 16)
  | 12 => some (.fp fp16)
  | 13 => some (.fp bf16)
  | 14 => some .fp19box
  | 15 => some (.fp fp32)
  | 16 => some (.fp fp64)
  | 17 => some (.fp fp4)
  | 18 => some (.fp fp6a)
  | 19 => some (.fp fp6b)
  | 20 => some (.fp fp8a)
  | 21 => some (.fp fp8b)
  | 22 => some .mxint8
  | 23 => some .d8
  | _ => none

def isMX (code : Nat) : Bool := 17 ≤ code && code ≤ 23

/-- The integer formats. TER2 counts as one: its values −1, 0 and 1 are integers, so one converted into an integer format is cut or
clamped as R84 says of integers (DESIGN CHOICE, log 9). -/
def isIntFmt (code : Nat) : Bool := [0, 1, 2, 4, 5, 11].contains code

/-- The field an element occupies in a lane (R184). -/
def fieldBits (code : Nat) : Nat :=
  match code with
  | 2 => 2
  | 0 | 1 | 3 | 17 => 4
  | 4 | 5 | 6 | 7 | 8 | 9 | 10 | 18 | 19 | 20 | 21 | 22 | 23 => 8
  | 11 | 12 | 13 => 16
  | 14 | 15 => 32
  | 24 | 25 => 32
  | _ => 64

/-- The element width in memory (R41, R71, R72): FP6 is dense. -/
def memBits (code : Nat) : Nat :=
  match code with
  | 6 | 7 | 18 | 19 => 6
  | c => fieldBits c

/-- The class of a format: 0 Q4, 1 Q8, 2 Q16, 3 Q32, 4 FP64 (R71, R89). -/
def fmtClass (code : Nat) : Nat :=
  match code with
  | 0 | 1 | 2 | 3 | 17 => 0
  | 4 | 5 | 6 | 7 | 8 | 9 | 10 | 18 | 19 | 20 | 21 | 22 | 23 => 1
  | 11 | 12 | 13 | 14 => 2
  | 15 => 3
  | _ => 4

def pow2 (e : Int) : Nat × Nat := if e < 0 then (1, 2 ^ (-e).toNat) else (2 ^ e.toNat, 1)

/-- num/den × 2^e. -/
def scale2 (neg : Bool) (num den : Nat) (e : Int) : Num :=
  .fin neg (num * (pow2 e).1) (den * (pow2 e).2)

/-- A binary floating code (R74). A NaN with a clear top fraction bit signals (IEEE 754; log 9). -/
def decodeFP (p : FP) (x : Nat) : Num :=
  let neg := nfld x (p.eb + p.m) 1 = 1
  let e := nfld x p.m p.eb
  let f := nfld x 0 p.m
  let mag := x % 2 ^ (p.eb + p.m)
  if p.hasInf ∧ e = 2 ^ p.eb - 1 then
    if f = 0 then .inf neg else .nan (nfld x (p.m - 1) 1 = 0)
  else if p.nan ≠ 0 ∧ ¬ p.hasInf ∧ mag = p.nan then .nan false
  else if e = 0 then scale2 neg f 1 (1 - (p.bias : Int) - p.m)
  else scale2 neg (2 ^ p.m + f) 1 ((e : Int) - p.bias - p.m)

/-- The length of the run of bits equal to c[6] that starts at c[6] (R75). -/
def d8Run (c : Nat) : Nat → Nat → Nat
  | 0, _ => 0
  | n + 1, pos => if nfld c pos 1 = nfld c 6 1 then 1 + d8Run c n (pos - 1) else 0

/-- The magnitude of a D8 code 1..127 as num/den (R75). -/
def d8Mag (c : Nat) : Nat × Nat :=
  if c = 0x7F then (1000000, 1)
  else
    let r := d8Run c 7 6
    let w := 6 - r
    let f := c % 2 ^ w
    if nfld c 6 1 = 1 then (10 ^ (r - 1) * (2 ^ w + 9 * f), 2 ^ w)
    else (2 ^ w + 9 * f, 2 ^ w * 10 ^ r)

def decodeD8 (x : Nat) : Num :=
  let c := x % 128
  if c = 0 then (if nfld x 7 1 = 1 then .nan false else .fin false 0 1)
  else .fin (nfld x 7 1 = 1) (d8Mag c).1 (d8Mag c).2

def numOfInt (v : Int) : Num := .fin (v < 0) v.natAbs 1

/-- What an element's bits stand for, before any scale (R71, R73 to R75, R78). -/
def decodeNum (code bits : Nat) : Num :=
  match fmtOf code with
  | some (.int true w) => numOfInt (toSigned w bits)
  | some (.int false w) => .fin false (bits % 2 ^ w) 1
  | some .ter2 =>
    match bits % 4 with
    | 1 => .fin false 1 1
    | 3 => .fin true 1 1
    | _ => .fin false 0 1
  | some (.fp p) => decodeFP p bits
  | some .fp19box => decodeFP fp19 (nfld bits 13 19)
  | some .d8 => decodeD8 bits
  | some .mxint8 =>
    let v := toSigned 8 bits
    .fin (v < 0) v.natAbs 64
  | none => .fin false 0 1

/-- The flag that reading the code 0b10 of TER2 sets (R73). -/
def readFlags (code bits : Nat) : Flags := flagIf (code == 2 && bits % 4 == 2) fTBAD

/-! ### Rounding (R81, R82) -/

/-- A rounding mode; STOCH carries its draw (R82). -/
inductive RM where
  | rne | rtz | rup | rdn
  | stoch (u : Nat)
deriving DecidableEq, Repr

/-- RM of the format register, with STOCH read as RNE (R81). -/
def rmOf (code : Nat) : RM :=
  match code with
  | 1 => .rtz
  | 2 => .rup
  | 3 => .rdn
  | _ => .rne

/-- RM of a conversion that can be stochastic, with its draw (R81, R82). -/
def rmDraw (code u : Nat) : RM := if code = 4 then .stoch u else rmOf code

/-- Whether a magnitude k + r/d is rounded up to k + 1. -/
def roundUp (rm : RM) (neg : Bool) (k r d : Nat) : Bool :=
  match rm with
  | .rne => 2 * r > d || (2 * r == d && k % 2 == 1)
  | .rtz => false
  | .rup => r ≠ 0 && !neg
  | .rdn => r ≠ 0 && neg
  | .stoch u => r ≠ 0 && u * d < r * 2 ^ 32

/-- floor(log2(num/den)) for positive num and den. -/
def floorLog2 (num den : Nat) : Int :=
  let l : Int := (num.log2 : Int) - den.log2
  let p := pow2 l
  if num * p.2 < den * p.1 then l - 1 else l

/-- num/den in units of 2^q, as quotient, remainder and divisor. -/
def inUnits (num den : Nat) (q : Int) : Nat × Nat × Nat :=
  let p := pow2 q
  let n := num * p.2
  let d := den * p.1
  (n / d, n % d, d)

/-- A positive magnitude rounded at unit 2^q: the rounded count and whether it was inexact. -/
def roundAt (rm : RM) (neg : Bool) (num den : Nat) (q : Int) : Nat × Bool :=
  let u := inUnits num den q
  (u.1 + (if roundUp rm neg u.1 u.2.1 u.2.2 then 1 else 0), u.2.1 ≠ 0)

def signBit (p : FP) (neg : Bool) : Nat := if neg then 2 ^ (p.eb + p.m) else 0

/-- The result of a magnitude beyond the largest finite one (R84): with SAT, or without infinities, the largest;
else as IEEE 754 gives it for the mode, and an infinity under STOCH. -/
def overflowFP (p : FP) (rm : RM) (sat neg : Bool) : Nat :=
  let infEnc := (2 ^ p.eb - 1) * 2 ^ p.m
  let toInf :=
    match rm with
    | .rne => true
    | .rtz => false
    | .rup => !neg
    | .rdn => neg
    | .stoch _ => true
  signBit p neg + (if p.hasInf && !sat && toInf then infEnc else p.maxEnc)

/-- `round_to` of R44 for a binary floating format: bits and flags (R84, R85). -/
def roundFP (p : FP) (rm : RM) (sat : Bool) (x : Num) : Nat × Flags :=
  match x with
  | .nan sig => if p.nan = 0 then (0, fINV) else (p.nan, flagIf sig fINV)
  | .inf neg =>
    if p.hasInf then (signBit p neg + (2 ^ p.eb - 1) * 2 ^ p.m, 0) else (signBit p neg + p.maxEnc, fOVF)
  | .fin neg num den =>
    if num = 0 then (signBit p neg, 0)
    else
      let e := floorLog2 num den
      let emin : Int := 1 - (p.bias : Int)
      let q := (if e < emin then emin else e) - p.m
      let (k, inx) := roundAt rm neg num den q
      let enc := ((q + p.m + p.bias - 1).toNat) * 2 ^ p.m + k
      if enc > p.maxEnc then (overflowFP p rm sat neg, fOVF ||| fINX)
      else
        -- tiny after rounding: the magnitude rounded with an unbounded exponent stays below 2^emin
        let tiny := e < emin && ((roundAt rm neg num den (e - p.m)).1 < 2 ^ (p.m + 1) || e + 1 < emin)
        (signBit p neg + enc, flagIf inx fINX ||| flagIf (inx && tiny) fUNF)

/-- A real rounded to an integer of a range, saturating with the given flag (R84, R80). -/
def roundInt (lo hi : Int) (rm : RM) (ovr : Flags) (neg : Bool) (num den : Nat) : Int × Flags :=
  let (k, inx) := roundAt rm neg num den 0
  let v : Int := if neg then -(k : Int) else k
  if v < lo then (lo, ovr) else if hi < v then (hi, ovr) else (v, flagIf inx fINX)

def intBounds (signed : Bool) (w : Nat) : Int × Int :=
  if signed then (-(2 ^ (w - 1) : Nat), (2 ^ (w - 1) : Nat) - 1) else (0, (2 ^ w : Nat) - 1)

/-- Compares num/den with a D8 magnitude. -/
def leQ (a b : Nat × Nat) : Bool := a.1 * b.2 ≤ b.1 * a.2

/-- The largest D8 code 0..127 whose magnitude is at most num/den. -/
def d8Floor (num den : Nat) : Nat :=
  (List.range 128).foldl (fun best c => if c ≠ 0 ∧ leQ (d8Mag c) (num, den) then c else best) 0

/-- A conversion into D8 (R77): to the nearest value, ties to the even code, whatever the mode but STOCH. -/
def roundD8 (rm : RM) (x : Num) : Nat × Flags :=
  match x with
  | .nan _ => (0x80, 0)
  | .inf neg => ((if neg then 0x80 else 0) + 0x7F, fDSAT)
  | .fin neg num den =>
    if num = 0 then (0, 0)
    else if ¬ leQ (num, den) (1000000, 1) then ((if neg then 0x80 else 0) + 0x7F, fDSAT)
    else
      let c := d8Floor num den
      let z : Nat × Nat := if c = 0 then (0, 1) else d8Mag c
      if z.1 * den = num * z.2 then ((if neg then 0x80 else 0) + c, 0)
      else
        let h := d8Mag (c + 1)
        -- position of |x| between z and h: r/d with r = |x| - z and d = h - z
        let r := (num * z.2 - z.1 * den) * h.2
        let d := (h.1 * z.2 - z.1 * h.2) * den
        let up : Bool :=
          match rm with
          | .stoch u => decide (u * d < r * 2 ^ 32)
          | _ => decide (2 * r > d) || (2 * r == d && c % 2 == 1)
        let c' := if up then c + 1 else c
        if c' = 0 then (0, fUNF ||| fINX) else ((if neg then 0x80 else 0) + c', fINX)

/-- A conversion into TER2 (R73). -/
def roundTer2 (rm : RM) (x : Num) : Nat × Flags :=
  match x with
  | .nan _ => (0, fINV)
  | .inf neg => (if neg then 3 else 1, fOVF)
  | .fin neg num den =>
    let (k, inx) := roundAt rm neg num den 0
    if k = 0 then (0, flagIf inx fINX)
    else if k = 1 then (if neg then 3 else 1, flagIf inx fINX)
    else (if neg then 3 else 1, fOVF ||| fINX)

/-- A real or special rounded into the format of a code (R73, R77, R84): bits and flags. An MX code rounds into its
element format. -/
def roundNum (code : Nat) (rm : RM) (sat : Bool) (x : Num) : Nat × Flags :=
  match fmtOf code with
  | some (.int s w) =>
    match x with
    | .nan _ => (0, fINV)
    | .inf neg => (ofInt w (if neg then (intBounds s w).1 else (intBounds s w).2), fINV)
    | .fin neg num den =>
      let r := roundInt (intBounds s w).1 (intBounds s w).2 rm fINV neg num den
      (ofInt w r.1, r.2)
  | some .ter2 => roundTer2 rm x
  | some (.fp p) => roundFP p rm sat x
  | some .fp19box =>
    let r := roundFP fp19 rm sat x
    (r.1 * 2 ^ 13, r.2)
  | some .d8 => roundD8 rm x
  | some .mxint8 =>
    match x with
    | .nan _ => (0, fINV)
    | .inf neg => (ofInt 8 (if neg then -128 else 127), fINV)
    | .fin neg num den =>
      let r := roundInt (-128) 127 rm (fOVF ||| fINX) neg (num * 64) den
      (ofInt 8 r.1, r.2)
  | none => (0, 0)

/-- An integer into an integer format (R84): cut to the low bits, or clamped with OVF under SAT. -/
def convInt (s : Bool) (w : Nat) (sat : Bool) (v : Int) : Nat × Flags :=
  let b := intBounds s w
  if b.1 ≤ v ∧ v ≤ b.2 then (ofInt w v, 0)
  else if sat then (ofInt w (if v < b.1 then b.1 else b.2), fOVF)
  else (ofInt w v, 0)

/-- The integer an integer format's bits hold. -/
def intOfBits (code bits : Nat) : Int :=
  match fmtOf code with
  | some (.int true w) => toSigned w bits
  | some (.int false w) => (bits % 2 ^ w : Nat)
  | _ => match bits % 4 with
    | 1 => 1
    | 3 => -1
    | _ => 0

/-- An element converted from one code's format into another's (R84, R77, R73), not MX. -/
def convert (src dst : Nat) (rm : RM) (sat : Bool) (bits : Nat) : Nat × Flags :=
  let r :=
    match fmtOf dst with
    | some (.int s w) =>
      if isIntFmt src then convInt s w sat (intOfBits src bits) else roundNum dst rm sat (decodeNum src bits)
    | _ => roundNum dst rm sat (decodeNum src bits)
  (r.1, r.2 ||| readFlags src bits)

/-! ### Exact arithmetic -/

def Num.isNaN : Num → Bool
  | .nan _ => true
  | _ => false

def Num.isSig : Num → Bool
  | .nan s => s
  | _ => false

def Num.negate : Num → Num
  | .fin n a b => .fin (!n) a b
  | .inf n => .inf (!n)
  | .nan s => .nan s

/-- The signed numerator of a finite number over den. -/
def sgn (neg : Bool) (n : Nat) : Int := if neg then -(n : Int) else n

/-- x + y exactly; the sign of an exact zero sum follows IEEE 754 for the mode. The Bool says: invalid operation. -/
def Num.add (rm : RM) (x y : Num) : Num × Bool :=
  match x, y with
  | .nan a, .nan b => (.nan false, a || b)
  | .nan a, _ => (.nan false, a)
  | _, .nan b => (.nan false, b)
  | .inf a, .inf b => if a = b then (.inf a, false) else (.nan false, true)
  | .inf a, _ => (.inf a, false)
  | _, .inf b => (.inf b, false)
  | .fin a n d, .fin b m e =>
    let s := sgn a (n * e) + sgn b (m * d)
    if s = 0 then
      (.fin (if a = b then a else decide (rm = .rdn)) 0 1, false)
    else (.fin (s < 0) s.natAbs (d * e), false)

/-- x × y exactly. -/
def Num.mul (x y : Num) : Num × Bool :=
  match x, y with
  | .nan a, .nan b => (.nan false, a || b)
  | .nan a, _ => (.nan false, a)
  | _, .nan b => (.nan false, b)
  | .inf a, .inf b => (.inf (a != b), false)
  | .inf a, .fin b m _ => if m = 0 then (.nan false, true) else (.inf (a != b), false)
  | .fin a n _, .inf b => if n = 0 then (.nan false, true) else (.inf (a != b), false)
  | .fin a n d, .fin b m e => (.fin (a != b) (n * m) (d * e), false)

/-- x × y + z with no rounding between (R85). -/
def Num.fma (rm : RM) (x y z : Num) : Num × Bool :=
  let p := Num.mul x y
  let r := Num.add rm p.1 z
  (r.1, p.2 || r.2)

/-- x < y for numbers that are no NaN; −0 equals +0. -/
def Num.lt (x y : Num) : Bool :=
  match x, y with
  | .nan _, _ => false
  | _, .nan _ => false
  | .inf a, .inf b => a && !b
  | .inf a, _ => a
  | _, .inf b => !b
  | .fin a n d, .fin b m e => sgn a (n * e) < sgn b (m * d)

def Num.eq (x y : Num) : Bool :=
  match x, y with
  | .inf a, .inf b => a == b
  | .fin a n d, .fin b m e => sgn a (n * e) == sgn b (m * d)
  | _, _ => false

def Num.isNeg : Num → Bool
  | .fin n _ _ => n
  | .inf n => n
  | .nan _ => false

def Num.isZero : Num → Bool
  | .fin _ 0 _ => true
  | _ => false

/-- fmin and fmax of R179 on decoded operands: which operand stands (false the first), or none for two NaNs. -/
def minmaxPick (wantMax : Bool) (x y : Num) : Option Bool :=
  match x.isNaN, y.isNaN with
  | true, true => none
  | true, false => some true
  | false, true => some false
  | false, false =>
    let less := x.lt y || (x.eq y && x.isNeg && !y.isNeg)
    some (if wantMax then less else !less)

/-! ### Functions rounded once (R180) -/

/-- Integer square root, bit by bit from bit `n - 1`. -/
def isqrtGo (v : Nat) : Nat → Nat → Nat
  | 0, r => r
  | n + 1, r => let t := r + 2 ^ n; isqrtGo v n (if t * t ≤ v then t else r)

def isqrt (v : Nat) : Nat := isqrtGo v (v.log2 / 2 + 1) 0

/-- An irrational magnitude known to be strictly between a/2^p and (a+1)/2^p, as one that rounds like it. -/
def between (a p : Nat) : Nat × Nat := (2 * a + 1, 2 ^ (p + 1))

/-- 1/√(num/den): exact when rational, else a magnitude that rounds like it. -/
def rsqrtMag (num den : Nat) : Nat × Nat :=
  let p := 200 + num.log2
  let v := den * 4 ^ p / num
  let s := isqrt v
  if s * s * num = den * 4 ^ p then (s, 2 ^ p) else between s p

/-- Σ z^(2k+1)/(2k+1) for z = a/2^p, n terms from power t, in units of 2^-p. -/
def atanhGo (p z2 : Nat) : Nat → Nat → Nat → Nat
  | 0, _, _ => 0
  | n + 1, t, k => t / (2 * k + 1) + atanhGo p z2 n (t * z2 / 2 ^ p) (k + 1)

/-- atanh(num/den) for 0 ≤ num/den ≤ 1/3, in units of 2^-p. -/
def atanhU (p num den : Nat) : Nat :=
  let z := num * 2 ^ p / den
  atanhGo p (z * z / 2 ^ p) (p / 3 + 2) z 0

def ln2U (p : Nat) : Nat := 2 * atanhU p 1 3

/-- exp(x/2^p) − 0 for 0 ≤ x < 2^p by its series, in units of 2^-p. -/
def expGo (p x : Nat) : Nat → Nat → Nat → Nat
  | 0, _, _ => 0
  | n + 1, t, k => t + expGo p x n (t * x / (2 ^ p * (k + 1))) (k + 1)

/-- The working precision of fex2 and flg2 (log 9). -/
def fnPrec : Nat := 320

/-- 2^(num/den) for a fraction 0 < num/den < 1, in units of 2^-fnPrec. -/
def exp2Frac (num den : Nat) : Nat :=
  let x := num * ln2U fnPrec / den
  expGo fnPrec x 120 (2 ^ fnPrec) 0

/-- 2^x for a finite x: exact for an integer, else a magnitude that rounds like it (log 9). Beyond ±5,000 every
format overflows or underflows alike. -/
def exp2Mag (neg : Bool) (num den : Nat) : Nat × Nat :=
  let n : Int := if neg then -(cdiv num den : Nat) else (num / den : Nat)
  let r := if neg then (cdiv num den) * den - num else num % den
  if n > 5000 then (2 ^ 5000, 1)
  else if n < -5000 then (1, 2 ^ 5000)
  else
    let f : Nat × Nat := if r = 0 then (1, 1) else between (exp2Frac r den / 2 ^ 40) (fnPrec - 40)
    let p := pow2 n
    (f.1 * p.1, f.2 * p.2)

/-- log2 of a positive magnitude: exact for a power of two, else a number that rounds like it (log 9). -/
def log2Num (num den : Nat) : Num :=
  let e := floorLog2 num den
  let p := pow2 e
  -- mantissa a/b in [1, 2)
  let a := num * p.2
  let b := den * p.1
  if a = b then numOfInt e
  else
    let l : Nat := 2 * atanhU fnPrec (a - b) (a + b) * 2 ^ fnPrec / ln2U fnPrec
    let u : Nat := 2 * (l / 2 ^ 20) + 1
    let t : Int := e * Int.ofNat (2 ^ (fnPrec - 19)) + Int.ofNat u
    .fin (t < 0) t.natAbs (2 ^ (fnPrec - 19))

/-- frcp, frsq, fex2 and flg2 on a decoded operand: the exact value and the flags of its special cases (R180). -/
def frcpN (x : Num) : Num × Flags :=
  match x with
  | .nan s => (.nan false, flagIf s fINV)
  | .inf n => (.fin n 0 1, 0)
  | .fin n 0 _ => (.inf n, fDZ)
  | .fin n a b => (.fin n b a, 0)

def frsqN (x : Num) : Num × Flags :=
  match x with
  | .nan s => (.nan false, flagIf s fINV)
  | .inf false => (.fin false 0 1, 0)
  | .inf true => (.nan false, fINV)
  | .fin n 0 _ => (.inf n, fDZ)
  | .fin true _ _ => (.nan false, fINV)
  | .fin false a b => (.fin false (rsqrtMag a b).1 (rsqrtMag a b).2, 0)

def fex2N (x : Num) : Num × Flags :=
  match x with
  | .nan s => (.nan false, flagIf s fINV)
  | .inf false => (.inf false, 0)
  | .inf true => (.fin false 0 1, 0)
  | .fin _ 0 _ => (.fin false 1 1, 0)
  | .fin n a b => (.fin false (exp2Mag n a b).1 (exp2Mag n a b).2, 0)

def flg2N (x : Num) : Num × Flags :=
  match x with
  | .nan s => (.nan false, flagIf s fINV)
  | .inf false => (.inf false, 0)
  | .inf true => (.nan false, fINV)
  | .fin _ 0 _ => (.inf true, fDZ)
  | .fin true _ _ => (.nan false, fINV)
  | .fin false a b => (log2Num a b, 0)

/-! ### Binary operations of the float lanes (R178 to R181) -/

/-- The element format of a suffix: f32, f16, b16 or f64. -/
def sfxFP (i : Nat) : FP :=
  match i with
  | 0 => fp32
  | 1 => fp16
  | 2 => bf16
  | _ => fp64

def faddE (p : FP) (rm : RM) (a t : Nat) : Nat × Flags :=
  let r := Num.add rm (decodeFP p a) (decodeFP p t)
  let b := roundFP p rm false r.1
  (b.1, b.2 ||| flagIf r.2 fINV)

def fsubE (p : FP) (rm : RM) (a t : Nat) : Nat × Flags :=
  let r := Num.add rm (decodeFP p a) (decodeFP p t).negate
  let b := roundFP p rm false r.1
  (b.1, b.2 ||| flagIf r.2 fINV)

def fmulE (p : FP) (rm : RM) (a t : Nat) : Nat × Flags :=
  let r := Num.mul (decodeFP p a) (decodeFP p t)
  let b := roundFP p rm false r.1
  (b.1, b.2 ||| flagIf r.2 fINV)

/-- An invalid product with a quiet NaN addend is still invalid (IEEE 754 leaves it open; log 9). -/
def ffmaE (p : FP) (rm : RM) (a b t : Nat) : Nat × Flags :=
  let r := Num.fma rm (decodeFP p a) (decodeFP p b) (decodeFP p t)
  let o := roundFP p rm false r.1
  (o.1, o.2 ||| flagIf r.2 fINV)

/-- −(a × b) + t (R178). -/
def fnmaE (p : FP) (rm : RM) (a b t : Nat) : Nat × Flags :=
  let r := Num.fma rm (decodeFP p a).negate (decodeFP p b) (decodeFP p t)
  let o := roundFP p rm false r.1
  (o.1, o.2 ||| flagIf r.2 fINV)

def fminmaxE (p : FP) (wantMax : Bool) (a t : Nat) : Nat × Flags :=
  let x := decodeFP p a
  let y := decodeFP p t
  let fl := flagIf (x.isSig || y.isSig) fINV
  match minmaxPick wantMax x y with
  | none => (p.nan, fl)
  | some second => (if second then t else a, fl)

def fabsE (p : FP) (t : Nat) : Nat × Flags :=
  let x := decodeFP p t
  if x.isNaN then (p.nan, flagIf x.isSig fINV) else (t % 2 ^ (p.eb + p.m), 0)

def fnegE (p : FP) (t : Nat) : Nat × Flags :=
  let x := decodeFP p t
  if x.isNaN then (p.nan, flagIf x.isSig fINV)
  else (t % 2 ^ (p.eb + p.m) + (if nfld t (p.eb + p.m) 1 = 1 then 0 else 2 ^ (p.eb + p.m)), 0)

/-- A function of R180: its exact value rounded once. -/
def fnE (f : Num → Num × Flags) (p : FP) (rm : RM) (t : Nat) : Nat × Flags :=
  let v := f (decodeFP p t)
  let r := roundFP p rm false v.1
  (r.1, r.2 ||| v.2)

/-- The float compares of R181: the relation and the flags. -/
def fceqE (p : FP) (a t : Nat) : Bool × Flags :=
  let x := decodeFP p a
  let y := decodeFP p t
  (x.eq y, flagIf (x.isSig || y.isSig) fINV)

def fcltE (p : FP) (a t : Nat) : Bool × Flags :=
  let x := decodeFP p a
  let y := decodeFP p t
  (x.lt y, flagIf (x.isNaN || y.isNaN) fINV)

def fcleE (p : FP) (a t : Nat) : Bool × Flags :=
  let x := decodeFP p a
  let y := decodeFP p t
  (x.lt y || x.eq y, flagIf (x.isNaN || y.isNaN) fINV)

def funordE (p : FP) (a t : Nat) : Bool × Flags :=
  let x := decodeFP p a
  let y := decodeFP p t
  (x.isNaN || y.isNaN, flagIf (x.isSig || y.isSig) fINV)

/-! ### D8 images, MX scales (R76, R78 to R80) -/

/-- The binary image of a D8 element (R76): its exact value rounded RNE to an 8-bit significand. -/
def d8Image (bits : Nat) : Num :=
  match decodeD8 bits with
  | .fin neg num den =>
    if num = 0 then .fin neg 0 1
    else
      let q := floorLog2 num den - 7
      let k := (roundAt .rne neg num den q).1
      scale2 neg k 1 q
  | n => n

def scaleNum (x : Num) (e : Int) : Num :=
  match x with
  | .fin n a b => scale2 n a b e
  | y => y

/-- An operand element of the slice model and of dqt: a D8 element as its image; an MX element without its scale. -/
def operandNum (code bits : Nat) : Num :=
  if code = 10 ∨ code = 23 then d8Image bits else decodeNum code bits

/-- An MX element with its scale code applied; a scale of 0xFF makes it a NaN (R78). -/
def mxNum (code s bits : Nat) : Num :=
  if s = 255 then .nan false else scaleNum (operandNum code bits) ((s : Int) - 127)

/-- emax of R79. -/
def mxEmax (code : Nat) : Int :=
  match code with
  | 17 => 2
  | 18 => 2
  | 19 => 4
  | 20 => 8
  | 21 => 15
  | 22 => 0
  | _ => 19

/-- Whether x × 2^−e, rounded into the element format, exceeds its largest finite value (R79 headroom). -/
def mxExceeds (code : Nat) (rm : RM) (num den : Nat) (e : Int) : Bool :=
  let x := scale2 false num den (-e)
  let r := roundNum code rm true x
  (r.2 &&& (fOVF ||| fDSAT)) != 0

/-- The larger of two magnitudes of finite numbers; a NaN or infinity stands (R79 amax). -/
def amaxNum (x y : Num) : Num :=
  match x, y with
  | .nan s, _ => .nan s
  | _, .nan s => .nan s
  | .inf _, _ => .inf false
  | _, .inf _ => .inf false
  | .fin _ a b, .fin _ c d => if a * d < c * b then .fin false c d else .fin false a b

/-- The scale code of a block from its amax (R79): code and flags. -/
def mxScale (code scp : Nat) (rm : RM) (amax : Num) : Nat × Flags :=
  match amax with
  | .nan _ => (255, 0)
  | .inf _ => (255, 0)
  | .fin _ num den =>
    if num = 0 then (0, fZBLK)
    else
      let e0 := floorLog2 num den - mxEmax code
      let e :=
        match scp with
        | 0 => e0
        | 1 => if mxExceeds code rm num den e0 then e0 + 1 else e0
        | _ => 0
      if e < -127 then (0, fSFLOOR) else ((e + 127).toNat, 0)

/-- An element quantised under a scale code (R80, R188): a code of 0xFF, and a block of zeros, give the zero code. -/
def mxQuant (code : Nat) (rm : RM) (s : Nat) (x : Num) : Nat × Flags :=
  if s = 255 then (0, 0)
  else
    let q := roundNum code rm true (scaleNum x (127 - (s : Int)))
    -- a D8 element that saturates tells so as the other elements do
    if q.2 &&& fDSAT = 0 then q
    else (q.1, q.2 ||| fOVF ||| (match x with
      | .fin _ _ _ => fINX
      | _ => 0))

/-- `align(x, E, w)` of R44 and R90 on the float path, and whether it was rounded. -/
def alignNum (x : Num) (e : Int) (w : Nat) : Int × Bool :=
  match x with
  | .fin neg num den =>
    if num = 0 then (0, false)
    else
      let r := roundAt .rne neg num den (e - (w : Int) + 2)
      (sgn neg r.1, r.2)
  | _ => (0, false)

/-- e(x) of R90 for a nonzero finite number. -/
def numExp (x : Num) : Option Int :=
  match x with
  | .fin _ num den => if num = 0 then none else some (floorLog2 num den)
  | _ => none

end Sys2Proof.Machine
end

