-- ==== Sys2Proof/Machine/Pages.lean ====
section
/-! DEFINITION. The page (07_page): layout (R133), touches (R137), and the turns of the tier mover and of management that act on
pages and descriptors (R132, R135, R139 to R145). -/

namespace Sys2Proof.Machine

/-! ### Layout (R133) -/

/-- The linear offset of byte `b` of stored row `row`. -/
def Tensor.linear (t : Tensor) (row b : Nat) : Nat :=
  if t.blk = 1 then ((row / 256) * (t.pitch / 64) + b / 64) * 16384 + (row % 256) * 64 + b % 64 else row * t.pitch + b

/-- Logical coordinates in storage order. -/
def Tensor.stored (t : Tensor) (c : List Nat) : List Nat :=
  (List.range t.rank).map (fun j => c.getD (t.order.getD j j) 0)

def Tensor.dim (t : Tensor) (j : Nat) : Nat := t.dims.getD j 0

def Tensor.inner (t : Tensor) : Nat := t.dim (t.rank - 1)

/-- The bytes of a stored row. -/
def Tensor.rowBytes (t : Tensor) : Nat := cdiv (t.inner * memBits t.fmt) 8

/-- The stored row and the first byte of the element at logical coordinates; none beyond DIMS. -/
def Tensor.rowCol (t : Tensor) (c : List Nat) : Option (Nat × Nat) :=
  let sc := t.stored c
  if (List.range t.rank).all (fun j => decide (sc.getD j 0 < t.dim j)) then
    some ((List.range (t.rank - 1)).foldl (fun r j => r * t.dim j + sc.getD j 0) 0, sc.getD (t.rank - 1) 0 * memBits t.fmt / 8)
  else none

/-- The coordinates with logical dimension `d` increased by `r` (R234). -/
def stepCoord (c : List Nat) (d r : Nat) : List Nat := c.set d (c.getD d 0 + r)

/-- A run of a tensor row cut where its bytes stop being consecutive in L: (linear offset, bytes). -/
def Tensor.runsGo (t : Tensor) (row : Nat) : Nat → Nat → Nat → List (Nat × Nat)
  | 0, _, _ => []
  | fuel + 1, b, n =>
    if n = 0 then []
    else
      let k := if t.blk = 1 then min n (64 - b % 64) else n
      (t.linear row b, k) :: t.runsGo row fuel (b + k) (n - k)

def Tensor.runs (t : Tensor) (row b n : Nat) : List (Nat × Nat) := t.runsGo row (n / 64 + 2) b n

/-! ### Touches (R137) -/

def pageWhere (tid page : Nat) : W64 := BitVec.ofNat 64 (pack [(0, 16, tid), (16, 48, page)])

def pagePerm (tid page reason : Nat) : FaultInfo := { cause := .pagePerm, info := BitVec.ofNat 64 reason, wher := pageWhere tid page }

/-- A touch of a page by an operation of context `cid`: the state after it, and the fault it raises. -/
def State.touchPage (s : State) (cid : Nat) (u : Option CUnit) (tid page : Nat) (write : Bool) : State × Option FaultInfo :=
  match s.tensor tid with
  | none => (s, some (pagePerm tid 0 6))
  | some t =>
    let p := s.page tid page
    let absent := fun (fetch : Bool) =>
      some { cause := .pageAbsent, info := BitVec.ofNat 64 (p.stateNum + 8 * b2n fetch), wher := pageWhere tid page : FaultInfo }
    if t.npage ≤ page then (s, some (pagePerm tid page 4))
    else if write ∧ ¬ p.w then (s, some (pagePerm tid page 1))
    else if (s.ctx cid).tenant ≠ t.tenant then (s, some (pagePerm tid page 2))
    else
      match p.stateNum with
      | 5 => (s, some { cause := .tilePoison, wher := pageWhere tid page })
      | 1 => ((s.lookup u tid page).onPage tid page (fun p => { p with age := s.epoch }), none)
      | 2 => (s.onPage tid page (fun p => { p with fetchq := true }), absent true)
      | 3 => if t.tpol = 0 then (s.startFetch tid page, absent true) else (s, absent false)
      | 4 => (s, absent true)
      | _ => (s, absent false)

/-- The pages that runs of L cover, in order. -/
def pagesOf (runs : List (Nat × Nat)) : List Nat :=
  (runs.flatMap (fun r => if r.2 = 0 then [] else
    (List.range ((r.1 + r.2 - 1) / 65536 + 1 - r.1 / 65536)).map (· + r.1 / 65536))).eraseDups

/-- Touches pages in order until one faults. -/
def State.touchAll (cid : Nat) (u : Option CUnit) (tid : Nat) (write : Bool) : List Nat → State → State × Option FaultInfo
  | [], s => (s, none)
  | p :: l, s =>
    match s.touchPage cid u tid p write with
    | (s, none) => State.touchAll cid u tid write l s
    | (s, some f) => (s, some f)

/-- Bytes of runs of a tensor. -/
def State.readRuns (s : State) (tid : Nat) (runs : List (Nat × Nat)) : List Byte := runs.flatMap (fun r => s.tensorRead tid r.1 r.2)

def State.writeRuns (tid : Nat) : List (Nat × Nat) → List Byte → State → State
  | [], _, s => s
  | r :: l, bs, s => State.writeRuns tid l (bs.drop r.2) (State.tensorWrite tid s r.1 (bs.take r.2))

/-! ### Turns of the tier mover (R135, R144, R145) -/

/-- What an uncorrectable read leaves of a move: the page POISONED, the move abandoned, the frame it was filling released (R135,
R145). -/
def Page.poisoned (p : Page) : Page :=
  { p with psn := true, mov := false, target := none, waitPool := false, fetchq := false, forPage := none }

/-- Whether every line of a page can be read where it stands. -/
def State.readable (s : State) (tid page : Nat) : Bool := !s.badPages.contains (tid, page)

/-- A bad line of a page matters no longer: the read that met it has poisoned the page, or the page stands elsewhere. -/
def State.dropBad (s : State) (tid page : Nat) : State := { s with badPages := s.badPages.filter (· ≠ (tid, page)) }

/-- A read of a page met an uncorrectable error (R135, R145). -/
def State.poisonPage (s : State) (tid page : Nat) : State := (s.dropBad tid page).onPage tid page Page.poisoned

/-- An eviction ends: the page is AWAY, or goes on to FETCHING; its frame serves the fetch it made room for. After an uncorrectable
read the page is POISONED, and that fetch waits for room again. -/
def execEvictionComplete (tid page : Nat) (s : State) : Host.Outcome State Fault Refusal :=
  let p := s.page tid page
  match p.evicting, p.target, s.readable tid page with
  | true, some _, false =>
    let s := s.poisonPage tid page
    .next (match p.forPage with
      | some (t, g) =>
        let w := s.page t g
        if w.fetching && w.target.isNone then s.onPage t g (fun w => { w with waitPool := true }) else s
      | none => s).autoWake
  | true, some f, true =>
    let s := { s with mem := s.mem.copy p.addr (frameAddr true f) 65536 }.dirty true f
    let s := s.onPage tid page (fun p =>
      { p with lp := true, mov := false, pfn := f, target := none, forPage := none, fetchq := false, age := s.epoch })
    let s : State := match p.forPage with
      | some (t, g) =>
        let w := s.page t g
        if w.fetching && w.target.isNone then
          (if (s.framesUsed false).contains p.pfn then s
           else s.onPage t g (fun w => { w with target := some p.pfn, waitPool := false }))
        else s
      | none => s
    .next (if p.fetchq then s.startFetch tid page else s)
  | _, _, _ => .next s

/-- A fetch ends, with the page PRESENT in the HBM tier, or POISONED after an uncorrectable read (R145). -/
def execFetchComplete (tid page : Nat) (ok : Bool) (s : State) : Host.Outcome State Fault Refusal :=
  let p := s.page tid page
  match p.fetching, p.target with
  | true, some f =>
    if ok && s.readable tid page then
      let s := { s with mem := s.mem.copy p.addr (frameAddr false f) 65536 }.dirty false f
      .next (s.onPage tid page (fun p =>
        { p with p := true, mov := false, lp := false, pfn := f, target := none, waitPool := false, age := s.epoch })).autoWake
    else .next (s.poisonPage tid page).autoWake
  | _, _ => .next s

/-- A fetch that waits under POOL_FULL tries again (R144). -/
def execPoolRetry (tid page : Nat) (s : State) : Host.Outcome State Fault Refusal :=
  let p := s.page tid page
  .next (if p.fetching && p.waitPool && p.target.isNone then (s.place tid page).1 else s)

/-! ### Management commands (R132, R134, R138 to R142) -/

def MStatus.num : MStatus → Nat
  | .done => 0
  | .busy => 1
  | .refused => 2
  | .full => 3
  | .deferred => 4
  | .poolFull => 5
  | .exhausted => 6

/-- The status of a command that a SYS packet brought returns as a KIND 5 response with its OPID, and with it what the command has read
(R340, R361), 1,024 bytes a packet (its layout: log 15). -/
def State.respond (s : State) (q : Option MgmtReq) (m : MStatus) (data : List Byte := []) : State :=
  match q with
  | some q =>
    (List.range (max 1 (cdiv data.length 1024))).foldl (fun s k =>
      let part := (data.drop (1024 * k)).take 1024
      s.sendPacket { rw := s.routing { dest := q.srce, tenant := q.net, ctx := 0, cls := 3, kind := 5, len := cdiv part.length 64, opid := q.opid },
                     rh := 0, info := [m.num], data := part }) s
  | none => s

def State.answerTo (s : State) (q : Option MgmtReq) (m : MStatus) (data : List Byte := []) : Host.Outcome State Fault Refusal :=
  .next (({ s with status := some m } : State).respond q m data)

/-- The status of the command that is served: of the oldest that a SYS packet brought, where one waits. -/
def State.answer (s : State) (m : MStatus) (data : List Byte := []) : Host.Outcome State Fault Refusal :=
  ({ s with mgmtIn := s.mgmtIn.tail } : State).answerTo s.mgmtIn.head? m data

/-- The virtual network that the command comes on: its own, or the fabric owner's where no SYS packet brought it (R340). -/
def State.issuerNet (s : State) : Nat := (s.mgmtIn.head?.map (·.net)).getD 63

/-- A host node reaches what is its tenant's, the fabric owner everything (R340). -/
def State.reaches (s : State) (tenant : Nat) : Bool := s.issuerNet = 63 || s.issuerNet = s.fabTenant tenant

/-- A command of the management window: none is served outside BRINGUP and SERVICE (R355). -/
def State.command1 (s : State) (k : State → Host.Outcome State Fault Refusal) : Host.Outcome State Fault Refusal :=
  if s.serving then k s else s.answer .refused

/-- A command that acts on the package or the fabric as a whole, which no tenant's host node may do (R340; log 26). -/
def State.commandOwner (s : State) (k : State → Host.Outcome State Fault Refusal) : Host.Outcome State Fault Refusal :=
  s.command1 (fun s => if s.issuerNet = 63 then k s else s.answer .refused)

/-- A command that acts on what is a tenant's. -/
def State.commandOf (s : State) (tenant : Option Nat) (k : State → Host.Outcome State Fault Refusal) : Host.Outcome State Fault Refusal :=
  s.command1 (fun s => if tenant.all s.reaches then k s else s.answer .refused)

/-- The tenant of a context, and of a tensor. -/
def State.tenantOf (s : State) (cid : Nat) : Option Nat := (alook s.ctxs cid).map (·.tenant)
def State.tenantOfT (s : State) (tid : Nat) : Option Nat := (s.tensor tid).map (·.tenant)

/-- A command of a guest of a virtualised tenant is delivered as a notice (R140). -/
def State.defers (s : State) (guest : Option Nat) : Bool := guest.any (fun t => s.virt.contains t)

/-- A guest acts on what its own tenant has (R140, R340). -/
def foreignTo (guest : Option Nat) (tenant : Nat) : Bool := guest.any (fun t => t ≠ tenant)

/-- The RW fields of an entry written over a page (R134). -/
def Page.withEntry (p : Page) (e : W64) : Page :=
  { p with p := bit e 0, w := bit e 1, lg := bit e 2, psn := bit e 3, lp := bit e 4, pfn := fld e 16 25 }

/-- A full set of 32 LG entries whose frames do not run from a multiple of 32 (R134). -/
def State.badLarge (s : State) (tid page : Nat) (p : Page) : Bool :=
  let first := page / 32 * 32
  let at_ := fun (i : Nat) => if first + i = page then p else s.page tid (first + i)
  (List.range 32).all (fun i => (at_ i).lg) &&
    ((at_ 0).pfn % 32 ≠ 0 || (List.range 32).any (fun i => (at_ i).pfn ≠ (at_ 0).pfn + i))

/-- TTW (R134, R135, R138, R139, R140). -/
def execTtw (tid page : Nat) (entry : W64) (guest : Option Nat) (s : State) : Host.Outcome State Fault Refusal :=
  s.commandOf (s.tenantOfT tid) (fun s =>
    match s.tensor tid with
    | none => s.answer .refused
    | some t =>
      let p := s.page tid page
      let n := p.withEntry entry
      let moves := n.p ≠ p.p || n.pfn ≠ p.pfn || n.lp ≠ p.lp
      if foreignTo guest t.tenant then s.answer .refused
      else if s.defers guest then { s with notices := s.notices ++ [Notice.entry tid page entry] }.answer .deferred
      else if (s.entryAt t page).isNone ∨ (if n.lp then Config.lpFrames else s.hbmFrames) ≤ n.pfn ∨ s.badLarge tid page n then s.answer .refused
      else if p.mov ∨ (moves && s.splits.contains (tid, page / 32)) ∨ (moves && p.pinc ≠ 0) then s.answer .busy
      else
        let s : State := if moves ∨ (p.w ∧ ¬ n.w) ∨ n.lg ≠ p.lg ∨ (n.psn ∧ ¬ p.psn) then s.invalidate tid page else s
        let s : State := if moves then s.dropBad tid page else s
        (s.onPage tid page (fun _ => n)).answer .done)

/-- TSPLIT (R139). `lpage` numbers large pages: pages 32 × lpage to 32 × lpage + 31. -/
def execTsplit (tid lpage : Nat) (s : State) : Host.Outcome State Fault Refusal :=
  s.commandOf (s.tenantOfT tid) (fun s =>
    match s.tensor tid with
    | none => s.answer .refused
    | some t =>
      let ps := (List.range 32).map (· + 32 * lpage)
      if s.splits.contains (tid, lpage) then s.answer .busy
      else if t.npage < 32 * lpage + 32 ∨ ¬ ps.all (fun p => (s.page tid p).lg) then s.answer .refused
      else
        let s := ps.foldl (fun s p => s.onPage tid p (fun x => { x with lg := false })) s
        .next { s with splits := s.splits ++ [(tid, lpage)], mgmtIn := s.mgmtIn.tail,
                       splitIn := s.splitIn ++ (s.mgmtIn.head?.map (fun q => ((tid, lpage), q))).toList })

/-- The broadcast of a TSPLIT has completed: DONE is reported. -/
def execTsplitDone (tid lpage : Nat) (s : State) : Host.Outcome State Fault Refusal :=
  if s.splits.contains (tid, lpage) then
    let s := s.dropT (fun e => e.tid = tid && e.large && e.page / 32 = lpage)
    let q := (s.splitIn.find? (fun x => x.1 = (tid, lpage))).map (·.2)
    { s with splits := s.splits.filter (· ≠ (tid, lpage)), splitIn := s.splitIn.filter (fun x => x.1 ≠ (tid, lpage)) }.answerTo q .done
  else .next s

/-- DSWAP (R142). -/
def execDswap (lp : Bool) (s : State) : Host.Outcome State Fault Refusal :=
  s.commandOwner (fun s =>
    (if lp then { s with dirtyL := (s.dirtyL.2, s.dirtyL.1) } else { s with dirtyH := (s.dirtyH.2, s.dirtyH.1) }).answer .done)

/-- PLOAD of R141: an AWAY page, or an unmapped one newly mapped at an LP frame, is fetched. -/
def execMgmtPload (tid page frame : Nat) (s : State) : Host.Outcome State Fault Refusal :=
  s.commandOf (s.tenantOfT tid) (fun s =>
    let p := s.page tid page
    match s.tensor tid with
    | none => s.answer .busy
    | some t =>
      if t.tpol ≠ 0 ∨ t.npage ≤ page ∨ Config.lpFrames ≤ frame then s.answer .busy
      else
        match p.stateNum with
        | 1 => s.answer .done
        | 0 | 3 =>
          let s1 := s.onPage tid page (fun p => { p with lp := true, mov := true, pfn := if p.stateNum = 3 then p.pfn else frame })
          let r := s1.place tid page
          if r.2 then r.1.answer .done else s.answer .poolFull
        | _ => s.answer .busy)

/-- POOLCFG (R143). -/
def execPoolcfg (size : Nat) (floors : List (Nat × Nat)) (s : State) : Host.Outcome State Fault Refusal :=
  s.commandOwner (fun s =>
    if size < (floors.map (·.2)).foldl (· + ·) 0 then s.answer .refused
    else { s with poolSize := size, floors := floors.foldl (fun (m : List (Nat × Nat)) (f : Nat × Nat) => aput m f.1 f.2) [] }.answer .done)

/-- The refusals of R132. -/
def tensorRefused (d : TensorWrite) : Bool :=
  let row := cdiv (d.dims.getD (d.rank - 1) 0 * memBits d.fmt) 8
  d.rank = 0 || decide (6 < d.rank) || decide (28 ≤ d.fmt) || decide (2 ≤ d.blk) || decide (3 ≤ d.tpol) ||
    d.order.any (fun j => decide (6 ≤ j)) || d.ttbase % 8 ≠ 0 || d.pitch % max 1 (memBits d.fmt / 8) ≠ 0 ||
    decide (d.pitch < row) || (d.blk = 1 && d.pitch % 64 ≠ 0)

/-- A tensor descriptor is written (R132, R140); TENANT is assigned with the identifier and stays. Another TTBASE names another tile
table, of which nothing is cached yet (log 10). -/
def execTensorDescriptorWrite (tid : Nat) (d : TensorWrite) (guest : Option Nat) (s : State) : Host.Outcome State Fault Refusal :=
  s.commandOf (some ((s.tenantOfT tid).getD d.tenant)) (fun s =>
    let tenant := match s.tensor tid with
      | some o => o.tenant
      | none => d.tenant
    if foreignTo guest tenant then s.answer .refused
    else if s.defers guest then { s with notices := s.notices ++ [Notice.desc tid d] }.answer .deferred
    else if tensorRefused d then s.answer .refused
    else
      let t : Tensor :=
        { rank := d.rank, fmt := d.fmt, blk := d.blk, tpol := d.tpol, tenant := tenant, order := d.order, pitch := d.pitch,
          dims := (List.range 6).map (fun j => if j < d.rank then d.dims.getD j 0 else 0), ttbase := d.ttbase, npage := d.npage }
      let moved : Bool := match s.tensor tid with
        | some o => o.ttbase ≠ t.ttbase
        | none => false
      let s : State := if moved then s.dropT (fun e => e.tid = tid) else s
      { s with tensors := aput s.tensors tid t }.answer .done)

end Sys2Proof.Machine
end

