-- ==== Sys2Proof/Machine/Commands.lean ====
section
/-! DEFINITION. What every C operation shares: command words and groups (R233 to R236), what a trigger queues (R239, R253,
R254), completion signals (R252, R296), engine faults (R240) and completion (R241). -/

namespace Sys2Proof.Machine

/-! ### Endpoints, SHAPE and SIGW (R234, R235) -/

def epT (w : W64) : Bool := bit w 63
def epName (w : W64) : W16 := w.setWidth 16
def epTid (w : W64) : Nat := fld w 0 16
def epOff (w : W64) : Nat := fld w 16 32
def epCd (w : W64) : Nat := fld w 16 5
def epRdim (w : W64) : Nat := fld w 21 3

def Cmd.g (c : Cmd) (j : Nat) : W64 := c.grp.getD j 0
def Cmd.srcw (c : Cmd) : W64 := c.g 0
def Cmd.dstw (c : Cmd) : W64 := c.g 1
def Cmd.rows (c : Cmd) : Nat := fld (c.g 2) 0 16
def Cmd.rowb (c : Cmd) : Nat := fld (c.g 2) 16 16
def Cmd.spitch (c : Cmd) : Nat := if fld (c.g 2) 32 16 = 0 then c.rowb else fld (c.g 2) 32 16
def Cmd.dpitch (c : Cmd) : Nat := if fld (c.g 2) 48 16 = 0 then c.rowb else fld (c.g 2) 48 16
def Cmd.sigw (c : Cmd) : W64 := c.g 3
def Cmd.extw (c : Cmd) : W64 := c.g 4

def sigCtr (w : W64) : Nat := fld w 0 12
def sigSk (w : W64) : Nat := fld w 12 2
def sigCcl (w : W64) : Nat := fld w 14 6
def sigSrcm (w : W64) : Nat := fld w 20 2
def sigFx (w : W64) : Bool := bit w 22

/-- Logical coordinates c0 to c5 of a coordinate block (R234). -/
def coordsOf (block : List W64) : List Nat := block.flatMap (fun w => [fld w 0 32, fld w 32 32])

/-! ### Triggers (R233, R236, R239) -/

/-- Which endpoints an operation has, and whether it reads SHAPE and SIGW. `seg`, `ten`: the kinds it accepts. -/
structure CmdUse where
  srcSeg : Bool := true
  srcTen : Bool := true
  src    : Bool := true
  dstSeg : Bool := true
  dstTen : Bool := true
  dst    : Bool := true
  shape  : Bool := true
  sig    : Bool := true
  joins  : Bool := true
deriving DecidableEq, Repr

def group (c : CoreSt) (u : CUnit) (w : W64) : List W64 := (List.range 8).map (fun j => c.dword u ((fld w 0 5 + j) % 32))

def coordBlock (c : CoreSt) (u : CUnit) (ep : W64) : List W64 := (List.range 3).map (fun j => c.dword u ((epCd ep + j) % 32))

/-- What a command samples at its trigger. -/
def State.sample (s : State) (u : CUnit) (op : Nat) (w : W64) : Cmd :=
  let c := s.core
  let grp := group c u w
  { id := (c.eng u).nextId, op := op, word := w, grp := grp, srcC := coordBlock c u (grp.getD 0 0), dstC := coordBlock c u (grp.getD 1 0),
    fmt := c.fmt, bidx := c.pc, cid := c.task.cid, task := c.task.key, timed := c.task.timed, cm := c.task.cm,
    pins := c.task.pins, at_ := c.issued }

/-- An endpoint of the wrong kind. -/
def wrongKind (ep : W64) (seg ten : Bool) : Bool := if epT ep then !ten else !seg

/-- The checks of R236 that every operation of a kind has. -/
def State.cmdIllegal (s : State) (use : CmdUse) (c : Cmd) : Bool :=
  (use.shape && (c.rows = 0 || c.rowb = 0)) || (use.sig && (sigSrcm c.sigw = 3 || !s.me.group.hasClu (sigCcl c.sigw))) ||
    (use.src && wrongKind c.srcw use.srcSeg use.srcTen) || (use.dst && wrongKind c.dstw use.dstSeg use.dstTen)

/-- Whether a command is local (R254). -/
def State.isLocal (s : State) (use : CmdUse) (c : Cmd) : Bool :=
  let near := fun (ep : W64) => !epT ep && (s.me.seg (nameIdx (epName ep))).home = s.lclu && s.core.task.pins.contains (nameIdx (epName ep))
  (!use.src || near c.srcw) && (!use.dst || near c.dstw)

/-- A command that is fire-and-forget wherever its endpoints are: those of the routing engine and of permits, a collective, a tsub (R254,
R291, R335). -/
def notLocal (c : Cmd) : Cmd := { c with local_ := false }

/-- The operations that raise ILLEGAL_MOVE in committed mode: lsend, lrecv, lred, coll, rtgo, tatom, mcast, sub (R274), rtinv
(R335), pmget, pmret (R352). -/
def uncommitted : List Nat := [20, 21, 22, 23, 16, 6, 5, 8, 18, 24, 25]

/-- A C operation that joins the queue: the checks of R236, then a place among the 32, then the commit of the shadow (R101). -/
def State.command (s : State) (u : CUnit) (g : Guard) (src : Src) (op : Nat) (use : CmdUse) (bad : Cmd → Bool)
    (more : Cmd → List Eff := fun _ => []) (fill : Cmd → Cmd := fun c => c) (reads : Nat := 0)
    (stall : Cmd → Bool := fun _ => false) : State :=
  s.trigger u.dom g src reads none (fun tr =>
    let sl := u.dom.slot
    let c := s.sample u op tr.t.scalar
    let c := fill { c with local_ := s.isLocal use c }
    if (s.core.task.cm && uncommitted.contains op) || s.cmdIllegal use c || bad c then s.raiseIn sl { cause := .illegalMove }
    else if s.core.task.timed && stall c then s.raiseIn sl { cause := .timedStall }
    else if 32 ≤ ((s.core.eng u).cmds.filter (fun x => x.st = .queued)).length then s.holdMove sl.num
    else s.effects tr ([.cmd u c use.joins, .commit] ++ more c))

/-! ### Commands of an engine -/

def State.cmdOf (s : State) (u : CUnit) (id : Nat) : Option Cmd := (s.core.eng u).cmds.find? (fun c => c.id = id)

def State.setCmd (s : State) (u : CUnit) (id : Nat) (f : Cmd → Cmd) : State :=
  s.upd (fun c => c.setEng u { c.eng u with cmds := (c.eng u).cmds.map (fun x => if x.id = id then f x else x) })

def CEngine.setCmd (e : CEngine) (id : Nat) (f : Cmd → Cmd) : CEngine := { e with cmds := e.cmds.map (fun x => if x.id = id then f x else x) }

/-- A command issued on core k, wherever it is now: in the engine, or saved with its task (R103). -/
def State.setCmdOn (s : State) (k : Nat) (u : CUnit) (id : Nat) (f : Cmd → Cmd) : State :=
  let s := s.onCore k (fun c => c.setEng u ((c.eng u).setCmd id f))
  { s with tasks := s.tasks.map (fun t =>
      if t.snapOn = k then { t with snap := t.snap.map (fun c => c.setEng u ((c.eng u).setCmd id f)) } else t) }

def faultUnit (u : CUnit) : Nat := 9 + u.num

def otherUnit (u : CUnit) : CUnit :=
  match u with
  | .c0 => .c1
  | .c1 => .c0

/-! ### Signals and journals (R252, R274, R296) -/

/-- The linear logical index of the core in focus in a context's group. -/
def State.linIn (s : State) (cid : Nat) : Nat := (s.ctx cid).group.linOfPhys s.cur

/-- Whether a task is the one the core runs, and not one that still retires behind it (R273). -/
def CoreSt.runs (c : CoreSt) (cid id : Nat) : Bool := c.task.cid = cid && c.task.key = id

/-- The journal of a task of the core. -/
def CoreSt.journalOf (c : CoreSt) (cid id : Nat) : List (Nat × Byte) :=
  if c.runs cid id then c.journal
  else
    match c.oldj.find? (fun x => x.1 = (cid, id)) with
    | some x => x.2.1
    | none => []

def CoreSt.setJournal (c : CoreSt) (cid id : Nat) (j : List (Nat × Byte)) : CoreSt :=
  if c.runs cid id then { c with journal := j }
  else { c with oldj := c.oldj.map (fun x => if x.1 = (cid, id) then (x.1, j, x.2.2) else x) }

def CoreSt.addJsig (c : CoreSt) (cid id : Nat) (x : Signal) : CoreSt :=
  if c.runs cid id then { c with jsigs := c.jsigs ++ [x] }
  else { c with oldj := c.oldj.map (fun y => if y.1 = (cid, id) then (y.1, y.2.1, y.2.2 ++ [x]) else y) }

/-- A signal of a task of the core: to its journal in committed mode. `u`: the engine it comes from. -/
def State.taskSignal (s : State) (u cid id : Nat) (cm : Bool) (clu n : Nat) (k : SigKind) : State :=
  let lin := s.linIn cid
  let x : Signal := { cid := cid, clu := clu, n := n, kind := k, src := lin / 4, core := lin, eng := u, at_ := s.core.issued }
  if cm then s.upd (fun c => c.addJsig cid id x) else s.signal x

/-- A signal of a command. -/
def State.cmdSignal (s : State) (u : CUnit) (c : Cmd) (clu n : Nat) (k : SigKind) : State := s.taskSignal u.num c.cid c.task c.cm clu n k

/-- Byte-count arrivals of the bytes landed since the last one (SK 3). -/
def State.flushBytes (s : State) (u : CUnit) (c : Cmd) : State :=
  if sigSk c.sigw = 3 ∧ c.unsig ≠ 0 then
    (s.cmdSignal u c (sigCcl c.sigw) (sigCtr c.sigw) (.bytes c.unsig)).setCmd u c.id (fun x => { x with unsig := 0 })
  else s

/-- The completion signal of a SIGW. -/
def State.signalSigw (s : State) (u : CUnit) (c : Cmd) (w : W64) : State :=
  match sigSk w with
  | 1 => s.cmdSignal u c (sigCcl w) (sigCtr w) (.dec 1)
  | 2 => s.cmdSignal u c (sigCcl w) (sigCtr w) (.arrive 1)
  | _ => s

/-! ### Faults and completion (R240, R241, R253) -/

/-- A command of the engine faults at its element; what has landed is counted, the command keeps what it holds. -/
def State.cmdFault (s : State) (u : CUnit) (c : Cmd) (f : FaultInfo) : State :=
  let s := s.flushBytes u c
  let f := { f with unit := if f.unit = 0 then (faultUnit u) else f.unit, bidx := some c.bidx, resume := BitVec.ofNat 64 c.elem }
  let s := s.setCmd u c.id (fun x => { x with st := .faulted, wait := f.recalls, waitPg := f.waitPage })
  let r := s.engineFault f c.cid c.task
  r.1.setCmd u c.id (fun x => { x with auto := r.2 })

/-- A wait of an engine step: TIMED_STALL in a timed task (R123, R254). -/
def State.cmdHold (s : State) (u : CUnit) (c : Cmd) : State := if c.timed then s.cmdFault u c { cause := .timedStall } else s

/-- A closed batch whose last command has gone is no longer outstanding. -/
def CEngine.settle (e : CEngine) : CEngine := { e with closed := e.closed.filter (fun b => e.cmds.any (fun c => c.batch = b)) }

/-- Flags of a context's command reach its FST: the core's while the core is that context's, else where its state of the core is
kept (R86, R87, R99). -/
def State.flagsTo (s : State) (cid : Nat) (f : Flags) : State :=
  if s.core.owner.all (fun o => o = cid) || s.core.task.cid = cid then s.upd (fun k => { k with fst := k.fst ||| f })
  else
    match alook s.away (s.cur * 1024 + cid) with
    | some c => { s with away := aput s.away (s.cur * 1024 + cid) { c with fst := c.fst ||| f } }
    | none => s

/-- A command leaves its engine: tiles take their final states, counts and pins are released, flags reach FST (R87); a record that
waited for a tile or for room is tried again. -/
def State.finishCmd (s : State) (u : CUnit) (c : Cmd) : State :=
  let s := s.flushBytes u c
  let s := s.setTiles c.cid c.stiles { st := if sigSrcm c.sigw = 2 then .empty else .ready }
  let s := s.setTiles c.cid c.wtiles {}
  let s := s.upd (fun k => (k.setEng u ({ k.eng u with cmds := (k.eng u).cmds.filter (fun x => x.id ≠ c.id) } : CEngine).settle))
  ((s.flagsTo c.cid c.flags).releaseCmd c.cid c).retryRecords c.cid

/-- Completion with the SIGW of the group. -/
def State.completeCmd (s : State) (u : CUnit) (c : Cmd) : State := (s.finishCmd u c).signalSigw u c c.sigw

/-- The command has started: `total` elements lie ahead. -/
def State.runCmd (s : State) (u : CUnit) (c : Cmd) (total : Nat) : State :=
  s.setCmd u c.id (fun x => { x with st := .running, total := max 1 total, startAt := s.core.issued })

/-! ### Acquisition and tiles at a start (R121, R123, R241) -/

/-- The pins of a timed command's task. -/
def Cmd.pinsFor (c : Cmd) : Option (List Nat) := if c.timed then some c.pins else none

/-- Bundles issued when a command started; a queued one starts now. -/
def State.sinceOf (s : State) (c : Cmd) : Nat := if c.st = .queued then s.core.issued else c.startAt

/-- Whether command x of the other engine was issued after command c of engine u. -/
def Cmd.after (x : Cmd) (u : CUnit) (c : Cmd) : Bool := decide (c.at_ < x.at_) || (x.at_ = c.at_ && u = .c0)

/-- Whether a command of the other engine locks a tile against this one (R315): it does so against every access that starts after the
bundle that issues it; of two tile commands of one tile the earlier goes first (R241; log 13). -/
def State.lockedByOther (s : State) (u : CUnit) (c : Cmd) (seg t : Nat) : Bool :=
  !(s.ctx c.cid).atom && (s.core.eng (otherUnit u)).cmds.any (fun x =>
    x.cid = c.cid && x.locks.contains (seg, t) && decide (x.at_ < s.sinceOf c) && !(c.locks.contains (seg, t) && x.after u c))

/-- Whether a command of the other engine, started before this one was issued, still reads a tile (R315). -/
def State.readByOther (s : State) (u : CUnit) (c : Cmd) (seg t : Nat) : Bool :=
  !(s.ctx c.cid).atom && (s.core.eng (otherUnit u)).cmds.any (fun x =>
    x.cid = c.cid && x.st ≠ .queued && x.rtiles.contains (seg, t) && decide (x.startAt ≤ c.at_))

/-- Whether a tile is FILLING for a command of the other engine that waits for this one to read it (R315). -/
def State.readsBefore (s : State) (u : CUnit) (c : Cmd) (seg t : Nat) : Bool :=
  !(s.ctx c.cid).atom && c.rtiles.contains (seg, t) && (s.core.eng (otherUnit u)).cmds.any (fun x =>
    x.cid = c.cid && x.wtiles.contains (seg, t) && decide (c.startAt ≤ x.at_))

/-- The tiles of extents of one segment. -/
def tilesOf (l : List (Nat × Nat × Nat)) : List (Nat × Nat) :=
  l.foldl (fun acc x => (tileSpan x.2.1 x.2.2).foldl (fun acc t => if acc.contains (x.1, t) then acc else acc ++ [(x.1, t)]) acc) []

inductive Started where
  | ok (s : State)
  | wait (s : State)
  | fault (f : FaultInfo)

/-- Acquires a set with INB counts and sets the tile states: `w` will be written, `m` are marked, `r` only read. A command that has
acquired its set and waits on a tile keeps the counts (R121, R123). -/
def State.acquireCmd (s : State) (u : CUnit) (c : Cmd) (exts : List Ext) (w m r : List (Nat × Nat)) : Started :=
  match (if c.acq then Acq.ok c.held else (s.ctx c.cid).acquire c.pinsFor none true exts) with
  | .fault f => .fault f
  | .hold => .wait s
  | .ok segs =>
    let s := if c.acq then s else (s.holdSet c.cid segs).setCmd u c.id (fun x => { x with acq := true, held := segs })
    let tile := fun (p : Nat × Nat) => (s.seg c.cid p.1).tile p.2
    if w.all (fun p => (tile p).st = .ready || (tile p).st = .empty) && m.all (fun p => (tile p).st = .ready) &&
        (w ++ m ++ r).all (fun p => !s.lockedByOther u c p.1 p.2) then
      let own := fun (st : TileSt) => { st := st, unit := (faultUnit u), core := s.linIn c.cid, cmd := c.id : Tile }
      let s := s.setTiles c.cid m (own .draining)
      let s := s.setTiles c.cid w (own .filling)
      .ok (s.setCmd u c.id (fun x => { x with wtiles := w, stiles := m.filter (fun p => !w.contains p), rtiles := r, locks := w ++ m }))
    else .wait s

/-- Goes on with a command that has acquired what it names. -/
def State.started (s : State) (u : CUnit) (c : Cmd) (r : Started) (k : State → State) : State :=
  match r with
  | .ok s => k s
  | .wait s => s.cmdHold u c
  | .fault f => s.cmdFault u c f

/-! ### Reading and writing at an element -/

/-- What an element's access gives. -/
inductive Res (α : Type) where
  | val (s : State) (a : α)
  | fault (s : State) (f : FaultInfo)
  | hold

def Res.bind {α β : Type} (r : Res α) (k : State → α → Res β) : Res β :=
  match r with
  | .val s a => k s a
  | .fault s f => .fault s f
  | .hold => .hold

/-- A segment access of a command: bounds, and the tiles, whose own states let it pass (R123, R315). -/
def State.cmdTouch (s : State) (u : CUnit) (c : Cmd) (name : W16) (off n : Nat) (write : Bool) : Res Unit :=
  let idx := nameIdx name
  let g := s.seg c.cid idx
  let owns := fun (t : Nat) => c.wtiles.contains (idx, t) || c.stiles.contains (idx, t)
  if g.size * 64 < off + n then .fault s { cause := .segBounds, info := BitVec.ofNat 64 (g.size * 64), wher := segWhere name off }
  else if (tileSpan off n).all (fun t => (owns t || (g.tile t).slotOk write || (!write && s.readsBefore u c idx t)) &&
      !s.lockedByOther u c idx t && !(write && s.readByOther u c idx t)) then .val s ()
  else .hold

/-- Bytes of a segment as a command's task reads them, with its journal in committed mode (R274). -/
def State.cmdBytes (s : State) (c : Cmd) (name : W16) (off n : Nat) : List Byte :=
  let bs := s.segRead c.cid (nameIdx name) off n
  if c.cm then overlay (s.core.journalOf c.cid c.task) (s.jKey c.cid (nameIdx name) off) bs else bs

def State.cmdRead (s : State) (u : CUnit) (c : Cmd) (name : W16) (off n : Nat) : Res (List Byte) :=
  (s.cmdTouch u c name off n false).bind (fun s _ => .val s (s.cmdBytes c name off n))

/-- The journal share of a context's tenant, for one core (R274). -/
def State.shareOf (s : State) (cid : Nat) : Nat :=
  match s.partOf (s.ctx cid).tenant with
  | some p => p.jshare
  | none => 0

/-- A journal with what the slots of its task have on the way to it. -/
def State.withComing (s : State) (cid id : Nat) (j : List (Nat × Byte)) : List (Nat × Byte) :=
  if s.core.runs cid id then s.journalComing.foldl (fun j p => if (alook j p.1).isSome then j else aput j p.1 p.2) j else j

/-- A journal past its share raises SEG_QUOTA with INFO[63] = 1 (R274). -/
def State.journaled (s : State) (c : Cmd) (j : List (Nat × Byte)) : Res Unit :=
  if s.shareOf c.cid < (s.withComing c.cid c.task j).length then .fault s { cause := .segQuota, info := 1#64 <<< 63 }
  else .val (s.upd (fun k => k.setJournal c.cid c.task j)) ()

def State.cmdWrite (s : State) (u : CUnit) (c : Cmd) (name : W16) (off : Nat) (bs : List Byte) : Res Unit :=
  (s.cmdTouch u c name off bs.length true).bind (fun s _ =>
    if c.cm then s.journaled c (putBytes (s.core.journalOf c.cid c.task) (s.jKey c.cid (nameIdx name) off) bs)
    else .val (s.segWrite c.cid (nameIdx name) off bs) ())

/-- PINC of a page is taken at its first translation and held to the last access (R138). -/
def State.pinPage (s : State) (u : CUnit) (id tid p : Nat) : State :=
  let held := match s.cmdOf u id with
    | some c => c.pages.contains (tid, p)
    | none => true
  if held then s
  else (s.onPage tid p (fun x => { x with pinc := x.pinc + 1 })).setCmd u id (fun c => { c with pages := c.pages ++ [(tid, p)] })

/-- Touches pages in order and pins each, until one faults. -/
def State.pinAll (u : CUnit) (c : Cmd) (tid : Nat) (write : Bool) : List Nat → State → Res Unit
  | [], s => .val s ()
  | p :: l, s =>
    match s.touchPage c.cid (some u) tid p write with
    | (s, none) => State.pinAll u c tid write l (s.pinPage u c.id tid p)
    | (s, some f) => .fault s f

/-- Touches the pages of runs of a tensor and pins them. -/
def State.tenTouch (s : State) (u : CUnit) (c : Cmd) (tid : Nat) (runs : List (Nat × Nat)) (write : Bool) : Res Unit :=
  State.pinAll u c tid write (pagesOf runs) s

def State.tenRead (s : State) (u : CUnit) (c : Cmd) (tid : Nat) (runs : List (Nat × Nat)) : Res (List Byte) :=
  (s.tenTouch u c tid runs false).bind (fun s _ =>
    .val s (runs.flatMap (fun r =>
      let bs := s.tensorRead tid r.1 r.2
      if c.cm then overlay (s.core.journalOf c.cid c.task) (jTen tid r.1) bs else bs)))

def journalRuns (tid : Nat) : List (Nat × Nat) → List Byte → List (Nat × Byte) → List (Nat × Byte)
  | [], _, j => j
  | r :: l, bs, j => journalRuns tid l (bs.drop r.2) (putBytes j (jTen tid r.1) (bs.take r.2))

def State.tenWrite (s : State) (u : CUnit) (c : Cmd) (tid : Nat) (runs : List (Nat × Nat)) (bs : List Byte) : Res Unit :=
  (s.tenTouch u c tid runs true).bind (fun s _ =>
    if c.cm then s.journaled c (journalRuns tid runs bs (s.core.journalOf c.cid c.task))
    else .val (State.writeRuns tid runs bs s) ())

end Sys2Proof.Machine
end

