-- ==== Sys2Proof/Machine/Copy.lean ====
section
/-! DEFINITION. The copies (11_copy_nest): cpy, cpyp, gth, grd, sct, mcast, tatom, topk: their triggers (R236, R242), how each
starts (R234, R239, R241), and their elements (R240, R243 to R249). -/

namespace Sys2Proof.Machine

/-! ### Fields of the command words (R242, R245 to R249) -/

def idxName (c : Cmd) : W16 := epName c.extw

def idxOff (c : Cmd) : Nat := epOff c.extw

def idxG (c : Cmd) : Nat := fld c.extw 48 4

/-- The bytes of a source element of grd, and of an output element (R246). -/
def grdSrc (c : Cmd) : Nat := if bit c.word 7 then 2 else 4

def grdOut (c : Cmd) : Nat := if bit c.word 8 then 2 else 4

def tatomOp (c : Cmd) : Nat := fld c.word 6 4

def tatomBytes (c : Cmd) : Nat := if bit c.word 10 then 8 else 4

def tatomRet (c : Cmd) : Bool := bit c.word 11

def topkE (c : Cmd) : Nat := fld c.word 6 12 + 1

def topkK (c : Cmd) : Nat := fld c.word 18 3

/-! ### Rows (R234, R239, R242) -/

def Cmd.ep (c : Cmd) (dst : Bool) : W64 := if dst then c.dstw else c.srcw
def Cmd.pitch (c : Cmd) (dst : Bool) : Nat := if dst then c.dpitch else c.spitch
def Cmd.coords (c : Cmd) (dst : Bool) : List Nat := coordsOf (if dst then c.dstC else c.srcC)
def Cmd.fx (c : Cmd) : Bool := sigFx c.sigw

/-- Where a row starts: a segment offset, or a byte of a stored row of a tensor. -/
inductive Loc where
  | seg (name : W16) (off : Nat)
  | ten (tid row b : Nat)
deriving DecidableEq, Repr

/-- The place of row r of an endpoint. -/
def State.locate (s : State) (c : Cmd) (dst : Bool) (r : Nat) : Except FaultInfo Loc :=
  let ep := c.ep dst
  if epT ep then
    match s.tensor (epTid ep) with
    | none => .error (pagePerm (epTid ep) 0 6)
    | some t =>
      match t.rowCol (stepCoord (c.coords dst) (epRdim ep) r) with
      | some (row, b) => .ok (.ten (epTid ep) row b)
      | none => .error (pagePerm (epTid ep) 0 3)
  else .ok (.seg (epName ep) (epOff ep + r * c.pitch dst))

def withLoc {α : Type} (s : State) (e : Except FaultInfo Loc) (k : Loc → Res α) : Res α :=
  match e with
  | .ok l => k l
  | .error f => .fault s f

/-- n bytes at distance k from a place. -/
def State.locRead (s : State) (u : CUnit) (c : Cmd) (l : Loc) (k n : Nat) : Res (List Byte) :=
  match l with
  | .seg name off => s.cmdRead u c name (off + k) n
  | .ten tid row b =>
    match s.tensor tid with
    | none => .fault s (pagePerm tid 0 6)
    | some t => if t.rowBytes < b + k + n then .fault s (pagePerm tid 0 3) else s.tenRead u c tid (t.runs row (b + k) n)

def State.locWrite (s : State) (u : CUnit) (c : Cmd) (l : Loc) (k : Nat) (bs : List Byte) : Res Unit :=
  match l with
  | .seg name off => s.cmdWrite u c name (off + k) bs
  | .ten tid row b =>
    match s.tensor tid with
    | none => .fault s (pagePerm tid 0 6)
    | some t =>
      if t.rowBytes < b + k + bs.length then .fault s (pagePerm tid 0 3) else s.tenWrite u c tid (t.runs row (b + k) bs.length) bs

/-- FP6 elements of dense bytes as 8-bit fields (R184, R239). -/
def fieldsOf (bs : List Byte) (first count : Nat) : List Byte :=
  let v := natLE bs
  (List.range count).map (fun i => BitVec.ofNat 8 (nfld v (first + 6 * i) 6))

/-- 8-bit fields packed densely, bits [7:6] dropped. -/
def denseOf (fs : List Byte) : Nat := fs.foldr (fun f acc => f.toNat % 64 + 64 * acc) 0

/-- A row of n bytes as the segment side counts them. -/
def State.rowRead (s : State) (u : CUnit) (c : Cmd) (l : Loc) (n : Nat) : Res (List Byte) :=
  match l, c.fx with
  | .ten _ _ _, true => (s.locRead u c l 0 (n * 3 / 4)).bind (fun s bs => .val s (fieldsOf bs 0 n))
  | _, _ => s.locRead u c l 0 n

def State.rowWrite (s : State) (u : CUnit) (c : Cmd) (l : Loc) (bs : List Byte) : Res Unit :=
  match l, c.fx with
  | .ten _ _ _, true => s.locWrite u c l 0 (bytesLE (bs.length * 3 / 4) (denseOf bs))
  | _, _ => s.locWrite u c l 0 bs

/-- n bytes from alignment a cut at multiples of 64: (distance, length). -/
def cutsGo : Nat → Nat → Nat → Nat → List (Nat × Nat)
  | 0, _, _, _ => []
  | fuel + 1, a, k, n =>
    if n = 0 then []
    else
      let m := min n (64 - a % 64)
      (k, m) :: cutsGo fuel (a + m) (k + m) (n - m)

def cuts (a n : Nat) : List (Nat × Nat) := cutsGo (n / 64 + 2) a 0 n

/-- The alignment of a place within a 64-B line. -/
def State.alignOf (s : State) (l : Loc) : Nat :=
  match l with
  | .seg _ off => off % 64
  | .ten tid row b =>
    match s.tensor tid with
    | some t => t.linear row b % 64
    | none => 0

/-- The pieces of row r of a cpy (R243); a row that lies outside a tensor has one, which faults. -/
def State.pieces (s : State) (c : Cmd) (r : Nat) : List (Nat × Nat) :=
  let dst := !(epT c.srcw && !epT c.dstw)
  let n := if c.fx then c.rowb * 3 / 4 else c.rowb
  match s.locate c dst r with
  | .ok l => cuts (s.alignOf l) n
  | .error _ => [(0, n)]

/-- Piece e counted over rows r, r+1, …: its row and piece. -/
def walkRows (f : Nat → List (Nat × Nat)) : Nat → Nat → Nat → Option (Nat × Nat × Nat)
  | 0, _, _ => none
  | fuel + 1, r, e =>
    let l := f r
    match l[e]? with
    | some p => some (r, p)
    | none => walkRows f fuel (r + 1) (e - l.length)

def countRows (f : Nat → List (Nat × Nat)) (rows : Nat) : Nat := (List.range rows).foldl (fun n r => n + (f r).length) 0

/-! ### Elements (R240, R243 to R249) -/

/-- One piece of a cpy (R243); with FX, k and m count bytes of the tensor side (R239). -/
def State.copyPiece (s : State) (u : CUnit) (c : Cmd) (r k m : Nat) : Res Nat :=
  withLoc s (s.locate c false r) (fun a =>
    withLoc s (s.locate c true r) (fun b =>
      if c.fx && epT c.srcw && !epT c.dstw then
        -- the fields whose last bit lies in the piece
        let i0 := (8 * k) / 6
        let i1 := (8 * (k + m)) / 6
        let from_ := 6 * i0 / 8
        (s.locRead u c a from_ (k + m - from_)).bind (fun s bs =>
          let fs := fieldsOf bs (6 * i0 - 8 * from_) (i1 - i0)
          (s.locWrite u c b i0 fs).bind (fun s _ => .val s fs.length))
      else if c.fx && !epT c.srcw then
        let i0 := 8 * k / 6
        let i1 := cdiv (8 * (k + m)) 6
        (s.locRead u c a i0 (i1 - i0)).bind (fun s fs =>
          (s.locWrite u c b k (bytesLE m (denseOf fs >>> (8 * k - 6 * i0)))).bind (fun s _ => .val s m))
      else
        (s.locRead u c a k m).bind (fun s bs => (s.locWrite u c b k bs).bind (fun s _ => .val s m))))

/-- Entry k of the index table (R245). -/
def State.idxEntry (s : State) (u : CUnit) (c : Cmd) (k : Nat) : Res Int :=
  (s.cmdRead u c (idxName c) (idxOff c + 4 * k) 4).bind (fun s bs => .val s (toSigned 32 (natLE bs)))

/-- A negative index other than −1 (R245). -/
def State.badIndex (s : State) (c : Cmd) (dst : Bool) : FaultInfo :=
  let ep := c.ep dst
  if epT ep then pagePerm (epTid ep) 0 3
  else { cause := .segBounds, info := BitVec.ofNat 64 ((s.seg c.cid (nameIdx (epName ep))).size * 64), wher := segWhere (epName ep) (epOff ep) }

/-- The row an index selects for row j. -/
def idxRow (c : Cmd) (i : Int) (j : Nat) : Nat := i.toNat * 2 ^ idxG c + j % 2 ^ idxG c

def State.gthRow (s : State) (u : CUnit) (c : Cmd) (j : Nat) : Res Nat :=
  (s.idxEntry u c (j / 2 ^ idxG c)).bind (fun s i =>
    let bs : Res (List Byte) :=
      if i = -1 then .val s (List.replicate c.rowb 0)
      else if i < 0 then .fault s (s.badIndex c false)
      else withLoc s (s.locate c false (idxRow c i j)) (fun l => s.rowRead u c l c.rowb)
    bs.bind (fun s bs => withLoc s (s.locate c true j) (fun l => (s.rowWrite u c l bs).bind (fun s _ => .val s bs.length))))

def State.sctRow (s : State) (u : CUnit) (c : Cmd) (j : Nat) : Res Nat :=
  (s.idxEntry u c (j / 2 ^ idxG c)).bind (fun s i =>
    if i = -1 then .val s 0
    else if i < 0 then .fault s (s.badIndex c true)
    else
      withLoc s (s.locate c false j) (fun a => (s.rowRead u c a c.rowb).bind (fun s bs =>
        withLoc s (s.locate c true (idxRow c i j)) (fun b => (s.rowWrite u c b bs).bind (fun s _ => .val s bs.length)))))

/-- One output element of grd: FP32 fused steps in ascending k, then the output format (R246). -/
def grdElem (c : Cmd) (srcs : List (Nat × List Byte)) (x : Nat) : List Byte × Flags :=
  let w := grdSrc c
  let r := srcs.foldl (fun (acc : Nat × Flags) e =>
    let v := natLE ((e.2.drop (w * x)).take w)
    let o := ffmaE fp32 .rne e.1 (if w = 2 then v * 65536 else v) acc.1
    (o.1, acc.2 ||| o.2)) (0, 0)
  if bit c.word 8 then
    let o := roundFP bf16 .rne false (decodeFP fp32 r.1)
    (bytesLE 2 o.1, r.2 ||| o.2)
  else (bytesLE 4 r.1, r.2)

/-- The entries of row j, from entry k on, with the source rows they name: (weight as FP32, row bytes). -/
def State.grdSources (u : CUnit) (c : Cmd) (j : Nat) : Nat → Nat → State → Res (List (Nat × List Byte))
  | 0, _, s => .val s []
  | n + 1, k, s =>
    (s.cmdRead u c (idxName c) (idxOff c + 8 * (idxG c * j + k)) 8).bind (fun s bs =>
      let e : W64 := BitVec.ofNat 64 (natLE bs)
      if bit e 63 then State.grdSources u c j n (k + 1) s
      else
        withLoc s (s.locate c false (fld e 0 24)) (fun l => (s.rowRead u c l c.rowb).bind (fun s row =>
          (State.grdSources u c j n (k + 1) s).bind (fun s rest =>
            .val s ((if bit c.word 6 then fld e 32 16 * 65536 else 0x3F800000, row) :: rest)))))

def State.addFlags (s : State) (u : CUnit) (id : Nat) (f : Flags) : State := s.setCmd u id (fun c => { c with flags := c.flags ||| f })

def State.grdRow (s : State) (u : CUnit) (c : Cmd) (j : Nat) : Res Nat :=
  (State.grdSources u c j (idxG c) 0 s).bind (fun s srcs =>
    let out := (List.range (c.rowb / grdSrc c)).map (grdElem c srcs)
    withLoc s (s.locate c true j) (fun l =>
      let bs := out.flatMap (·.1)
      (s.rowWrite u c l bs).bind (fun s _ => .val (s.addFlags u c.id (orFlags (out.map (·.2)))) bs.length)))

/-! #### mcast (R247) -/

def mcastN (c : Cmd) : Nat := fld c.word 6 6 + 1

/-- The buffer address and the control word of destination i, read when the command started. -/
def mcastBuf (c : Cmd) (i : Nat) : W64 := (alook c.acc (2 * i)).getD 0
def mcastCtl (c : Cmd) (i : Nat) : W64 := (alook c.acc (2 * i + 1)).getD 0

def mcastLines (c : Cmd) (i r : Nat) : List (Nat × Nat) := cuts (epOff (mcastBuf c i) + 64 + r * c.dpitch) c.rowb

def mcastCount (c : Cmd) (i : Nat) : Nat := countRows (mcastLines c i) c.rows

/-- Element e over the destinations: the destination, the element's number in it, and how many it has. -/
def mcastFind (c : Cmd) : Nat → Nat → Nat → Option (Nat × Nat × Nat)
  | 0, _, _ => none
  | fuel + 1, i, e =>
    let n := mcastCount c i
    if e < n then some (i, e, n) else mcastFind c fuel (i + 1) (e - n)

/-- What an element of mcast did: bytes landed, and elements passed over with it. -/
def State.mcastLine (s : State) (u : CUnit) (c : Cmd) : Res (Nat × Nat) :=
  match mcastFind c (mcastN c) 0 c.elem with
  | none => .val s (0, 1)
  | some (i, e, n) =>
    let buf := mcastBuf c i
    let ctl := mcastCtl c i
    let name := epName buf
    let home := (s.seg c.cid (nameIdx name)).home
    match walkRows (mcastLines c i) c.rows 0 e with
    | none => .val s (0, 1)
    | some (r, k, m) =>
      let line := fun (s : State) =>
        withLoc s (s.locate c false r) (fun a =>
          (if c.fx && epT c.srcw then (s.rowRead u c a c.rowb).bind (fun s bs => .val s ((bs.drop k).take m)) else s.locRead u c a k m).bind
            (fun s bs => (s.cmdTouch u c name (epOff buf + 64 + r * c.dpitch + k) m true).bind (fun s _ => .val s bs)))
      let land := fun (s : State) (bs : List Byte) =>
        (s.cmdWrite u c name (epOff buf + 64 + r * c.dpitch + k) bs).bind (fun s _ =>
          let s : State := if sigSk ctl = 3 then s.cmdSignal u c home (sigCtr ctl) (.bytes m) else s
          let s : State := if e + 1 = n then
              (match sigSk ctl with
               | 1 => s.cmdSignal u c home (sigCtr ctl) (.dec 1)
               | 2 => s.cmdSignal u c home (sigCtr ctl) (.arrive 1)
               | _ => s)
            else s
          .val s (m, 1))
      if e = 0 then
        (s.cmdRead u c name (epOff buf) 1).bind (fun s b =>
          if (natLE b) % 2 = 1 then
            let f : FaultInfo := { cause := .landingBusy, unit := faultUnit u, wher := segWhere name (epOff buf), bidx := some c.bidx,
                                   resume := BitVec.ofNat 64 c.elem, core := some (fld ctl 14 8) }
            .val (s.engineFault f c.cid c.task).1 (0, n)
          else
            (line s).bind (fun s bs =>
              (s.cmdWrite u c name (epOff buf) (b.map (fun x => x ||| 1))).bind (fun s _ => land s bs)))
      else (line s).bind land

/-! #### tatom (R248) -/

/-- The new value and its flags, at a width in bits. -/
def tatomNew (op w old a b : Nat) : Nat × Flags :=
  match op with
  | 0 => ((old + a) % 2 ^ w, 0)
  | 1 => faddE (if w = 64 then fp64 else fp32) .rne old a
  | 2 => (old &&& a, 0)
  | 3 => (old ||| a, 0)
  | 4 => (old ^^^ a, 0)
  | 5 => (if toSigned w a < toSigned w old then a else old, 0)
  | 6 => (if toSigned w old < toSigned w a then a else old, 0)
  | 7 => (a, 0)
  | _ => (if old = b then a else old, 0)

def State.tatomElem (s : State) (u : CUnit) (c : Cmd) : Res Nat :=
  withLoc s (s.locate c false 0) (fun l =>
    match l, s.tensor (epTid c.srcw) with
    | .ten tid row b, some t =>
      let n := tatomBytes c
      let off := t.linear row b
      if off % n ≠ 0 then .fault s (pagePerm tid (off / 65536) 5)
      else
        let ret := c.extw
        (s.tenTouch u c tid [(off, n)] true).bind (fun s _ =>
          (if tatomRet c then s.cmdTouch u c (epName ret) (epOff ret) 8 true else .val s ()).bind (fun s _ =>
            let old := natLE (s.tensorRead tid off n)
            let v := tatomNew (tatomOp c) (8 * n) old ((c.g 1).toNat % 2 ^ (8 * n)) ((c.g 2).toNat % 2 ^ (8 * n))
            let s := (State.tensorWrite tid s off (bytesLE n v.1)).addFlags u c.id v.2
            if tatomRet c then (s.cmdWrite u c (epName ret) (epOff ret) (bytesLE 8 old)).bind (fun s _ => .val s (n + 8)) else .val s n))
    | _, _ => .fault s (pagePerm (epTid c.srcw) 0 6))

/-! #### topk (R249) -/

/-- x ranks before y: descending, NaNs below everything; equal values keep their order. -/
def ranksBefore (x y : Nat × Num) : Bool := if x.2.isNaN then false else if y.2.isNaN then true else Num.lt y.2 x.2

/-- The K first of a row in rank order. -/
def topkPick (k : Nat) (row : List Num) : List (Nat × Num) :=
  (row.zipIdx.map (fun p => (p.2, p.1))).foldl (fun best x => (insertBy ranksBefore x best).take k) []

def Num.div (x y : Num) : Num :=
  match x, y with
  | .fin a n d, .fin b m e => .fin (a != b) (n * e) (d * m)
  | x, _ => x

/-- The weights of the chosen values: BF16 bits and flags. -/
def topkWeights (wm : Bool) (vs : List Num) : List (Nat × Flags) :=
  if wm then
    let sum := vs.foldl (fun (acc : Num × Flags) v =>
      let r := Num.add .rne acc.1 v
      let b := roundFP fp32 .rne false r.1
      (decodeFP fp32 b.1, acc.2 ||| b.2 ||| flagIf r.2 fINV)) (.fin false 0 1, 0)
    match sum.1 with
    | .fin _ n _ =>
      if n = 0 then vs.map (fun _ => (0x7FC0, sum.2 ||| fINV))
      else vs.map (fun v =>
        let q := roundFP fp32 .rne false (Num.div v sum.1)
        let o := roundFP bf16 .rne false (decodeFP fp32 q.1)
        (o.1, sum.2 ||| q.2 ||| o.2))
    | _ => vs.map (fun _ => (0x7FC0, sum.2 ||| fINV))
  else vs.map (fun v => roundFP bf16 .rne false v)

/-- A choice row of 16 B. -/
def choiceRow (picks : List (Nat × Num)) (ws : List (Nat × Flags)) : List Byte :=
  (List.range 4).flatMap (fun i =>
    match picks[i]?, ws[i]? with
    | some p, some w => bytesLE 4 (pack [(0, 12, p.1), (16, 16, w.1)])
    | _, _ => bytesLE 4 0xFFF)

def State.topkRow (s : State) (u : CUnit) (c : Cmd) (r : Nat) : Res Nat :=
  let e := topkE c
  let fmt := match s.tensor (epTid c.srcw) with
    | some t => t.fmt
    | none => 15
  let w := memBits fmt / 8
  withLoc s (s.locate c false r) (fun a => (s.locRead u c a 0 (e * w)).bind (fun s bs =>
    let row := (List.range e).map (fun i => decodeNum fmt (natLE ((bs.drop (w * i)).take w)))
    let picks := topkPick (topkK c) row
    let ws := topkWeights (bit c.word 21) (picks.map (·.2))
    withLoc s (s.locate c true r) (fun b => (s.locWrite u c b 0 (choiceRow picks ws)).bind (fun s _ =>
      .val (s.addFlags u c.id (orFlags (ws.map (·.2)))) 16))))

/-- Bytes of a destination row. -/
def dstRowB (c : Cmd) : Nat :=
  match c.op with
  | 3 => c.rowb / grdSrc c * grdOut c
  | 7 => 16
  | _ => c.rowb

/-- The next element of a copy: bytes landed, and elements done. -/
def State.copyElem (s : State) (u : CUnit) (c : Cmd) : Res (Nat × Nat) :=
  let one := fun (r : Res Nat) => r.bind (fun s n => .val s (n, 1))
  match c.op with
  | 0 =>
    match walkRows (s.pieces c) c.rows 0 c.elem with
    | some (r, k, m) => one (s.copyPiece u c r k m)
    | none => .val s (0, 1)
  | 1 =>
    one (withLoc s (s.locate c false (c.elem / 256 * 256 + c.perm.getD (c.elem % 256) 0)) (fun a => (s.rowRead u c a 64).bind (fun s bs =>
      withLoc s (s.locate c true c.elem) (fun b => (s.rowWrite u c b bs).bind (fun s _ => .val s bs.length)))))
  | 2 => one (s.gthRow u c c.elem)
  | 3 => one (s.grdRow u c c.elem)
  | 4 => one (s.sctRow u c c.elem)
  | 5 => s.mcastLine u c
  | 6 => one (s.tatomElem u c)
  | _ => one (s.topkRow u c c.elem)

/-- The pages that n bytes of rows of a tensor endpoint reach. -/
def State.rowPages (s : State) (c : Cmd) (dst : Bool) (n : Nat) (rows : List Nat) : List (Nat × Nat) :=
  if !epT (c.ep dst) then []
  else rows.flatMap (fun r =>
    match s.locate c dst r with
    | .ok (.ten tid row b) =>
      match s.tensor tid with
      | some t => (pagesOf (t.runs row b n)).map (fun p => (tid, p))
      | none => []
    | _ => [])

/-- Bytes of a row on the tensor side. -/
def Cmd.tenRow (c : Cmd) : Nat := if c.fx then c.rowb * 3 / 4 else c.rowb

/-- Row cpyp moves as element e comes from this one (R244). -/
def Cmd.permRow (c : Cmd) (e : Nat) : Nat := e / 256 * 256 + c.perm.getD (e % 256) 0

/-- Whether an element at or past the next one still reaches a page it holds; the rows that an index or entry table names, and the
chunks of a collective, are not known ahead of it (R138; log 13). -/
def State.pageAhead (s : State) (c : Cmd) : Nat × Nat → Bool :=
  let from_ := fun (e : Nat) => (List.range (c.rows - e)).map (· + e)
  let all := fun (dst : Bool) (p : Nat × Nat) => epT (c.ep dst) && p.1 = epTid (c.ep dst)
  match c.op with
  | 0 =>
    match walkRows (s.pieces c) c.rows 0 c.elem with
    | some (r, k, _) =>
      let cut := fun (dst : Bool) =>
        (match s.locate c dst r with
         | .ok (.ten tid row b) =>
           match s.tensor tid with
           | some t => (pagesOf (t.runs row (b + k) (c.tenRow - k))).map (fun p => (tid, p))
           | none => []
         | _ => []) ++ s.rowPages c dst c.tenRow (from_ (r + 1))
      (cut false ++ cut true).contains
    | none => fun _ => false
  | 1 => (s.rowPages c false c.tenRow ((from_ c.elem).map c.permRow) ++ s.rowPages c true c.tenRow (from_ c.elem)).contains
  | 2 | 3 =>
    let l := s.rowPages c true (if c.op = 2 then c.tenRow else dstRowB c) (from_ c.elem)
    fun p => all false p || l.contains p
  | 4 =>
    let l := s.rowPages c false c.tenRow (from_ c.elem)
    fun p => all true p || l.contains p
  | 5 =>
    match mcastFind c (mcastN c) 0 c.elem with
    | none => fun _ => false
    | some (i, e, _) =>
      match (if i + 1 = mcastN c then walkRows (mcastLines c i) c.rows 0 e else none) with
      | some (r, _, _) => (s.rowPages c false c.tenRow (from_ r)).contains
      | none => fun _ => true
  | 6 => fun _ => false
  | 7 =>
    let w := match s.tensor (epTid c.srcw) with
      | some t => memBits t.fmt / 8
      | none => 0
    (s.rowPages c false (topkE c * w) (from_ c.elem) ++ s.rowPages c true 16 (from_ c.elem)).contains
  | _ => fun _ => true

/-- Pages past their last access are released (R138). -/
def State.dropBehind (s : State) (u : CUnit) (c : Cmd) : State :=
  if c.pages.isEmpty then s
  else
    let ahead := s.pageAhead c
    let gone := c.pages.filter (fun p => !ahead p)
    gone.foldl (fun s p => s.dropPinc p.1 p.2) (s.setCmd u c.id (fun x => { x with pages := x.pages.filter ahead }))

/-- An element step's outcome enters the command: landed bytes are counted at every 4 KiB (R252). -/
def State.elemDone (s : State) (u : CUnit) (c : Cmd) (r : Res (Nat × Nat)) : State :=
  match r with
  | .val s (n, k) =>
    let s := s.setCmd u c.id (fun x => { x with elem := x.elem + k, unsig := x.unsig + n })
    let s := match s.cmdOf u c.id with
      | some c => s.dropBehind u c
      | none => s
    match s.cmdOf u c.id with
    | some c => if 4096 ≤ c.unsig then s.flushBytes u c else s
    | none => s
  | .fault s f =>
    match s.cmdOf u c.id with
    | some c => s.cmdFault u c f
    | none => s
  | .hold => s.cmdHold u c

/-! ### Starts (R121, R234, R239, R241, R242) -/

/-- The rows of a segment endpoint as extents of its segment. -/
def rowSpans (ep : W64) (pitch rows n : Nat) : List (Nat × Nat) := (List.range rows).map (fun r => (epOff ep + r * pitch, n))

def clip (size : Nat) (l : List (Nat × Nat)) : List (Nat × Nat) := l.map (fun x => (x.1, min x.2 (size - x.1)))

/-- The spans of the destination segment that a command writes, and of the source segment that it reads (R241). -/
def State.cmdSpans (s : State) (c : Cmd) (dst : Bool) : List (Nat × Nat × Nat) :=
  let ep := c.ep dst
  let idx := nameIdx (epName ep)
  let size := (s.seg c.cid idx).size * 64
  if epT ep then []
  else
    let whole := [(epOff ep, size - epOff ep)]
    let l :=
      if dst then (if c.op = 4 then whole else rowSpans ep c.dpitch c.rows (dstRowB c))
      else if c.op = 2 ∨ c.op = 3 then whole else rowSpans ep c.spitch c.rows c.rowb
    (clip size l).map (fun x => (idx, x.1, x.2))

/-- Where an mcast lands in one buffer: the landing word, and the rows. -/
def State.landSpans (s : State) (c : Cmd) (w : W64) : List (Nat × Nat × Nat) :=
  (clip ((s.seg c.cid (nameIdx (epName w))).size * 64) ((epOff w, 8) :: (List.range c.rows).map (fun r => (epOff w + 64 + r * c.dpitch, c.rowb)))).map
    (fun x => (nameIdx (epName w), x.1, x.2))

/-- The words of a landing table. -/
def tableWords (n : Nat) (bs : List Byte) : List (Nat × W64) :=
  (List.range (2 * n)).map (fun i => (i, BitVec.ofNat 64 (natLE ((bs.drop (8 * i)).take 8))))

/-- Bytes of a segment as a command of the issuing bundle will read them once the bundle has committed the shadow (R101): with the
gated stores, and those of the bundle itself. -/
def State.issuedRead (s : State) (idx off n : Nat) : List Byte :=
  let staged := s.core.staged.flatMap (fun e => match e with
    | .store g => [s.checked g]
    | .atomic seg o bs => [s.checked { trig := 0, perf := 0, dom := .s, seg := seg, pieces := [(o, bs)] }]
    | _ => [])
  overlay (gatedBytes staged (s.seg s.cid idx).life idx) (s.jKey s.cid idx off) (s.slotRead idx off n)

/-- The tiles a copy locks from its issue under ATOM = W (R315): those it will write, and those it marks; an mcast those that its
landing table names then (log 13). -/
def State.lockTiles (s : State) (c : Cmd) : List (Nat × Nat) :=
  let dst := match c.op with
    | 5 =>
      let t := tableWords (mcastN c) (s.issuedRead (nameIdx (epName c.dstw)) (epOff c.dstw) (16 * mcastN c))
      (List.range (mcastN c)).flatMap (fun i => s.landSpans c ((alook t (2 * i)).getD 0))
    | 6 => if tatomRet c then [(nameIdx (epName c.extw), epOff c.extw, 8)] else []
    | _ => s.cmdSpans c true
  tilesOf (dst ++ (if sigSrcm c.sigw = 0 ∨ c.op = 6 then [] else s.cmdSpans c false))

/-- The index or entry table of gth, sct and grd. -/
def idxExt (c : Cmd) : List Ext :=
  match c.op with
  | 2 | 4 => [⟨idxName c, idxOff c, 4 * cdiv c.rows (2 ^ idxG c)⟩]
  | 3 => [⟨idxName c, idxOff c, 8 * idxG c * c.rows⟩]
  | _ => []

/-- The extents a copy names at its start: bounds of the rows where R242 asks for them then. -/
def cmdExts (c : Cmd) (dst : Bool) : List Ext :=
  let ep := c.ep dst
  if epT ep then []
  else
    let bounded := c.op ≤ 1 || (dst && (c.op = 2 || c.op = 3))
    if bounded then (rowSpans ep (c.pitch dst) c.rows (if dst then dstRowB c else c.rowb)).map (fun x => ⟨epName ep, x.1, x.2⟩)
    else [⟨epName ep, epOff ep, 0⟩]

/-- What keeps a command with tensor endpoints from starting: no descriptor, RDIM at or beyond RANK (R137, R234). -/
def State.tensorStart (s : State) (ep : W64) (rdim : Bool) : Option FaultInfo :=
  if !epT ep then none
  else
    match s.tensor (epTid ep) with
    | none => some (pagePerm (epTid ep) 0 6)
    | some t => if rdim ∧ t.rank ≤ epRdim ep then some (pagePerm (epTid ep) 0 3) else none

/-- The address words of a command that are endpoints of its copy: a tatom's group word 1 is an operand, and a subscription has a
destination where RET asks for one (R248, R250). -/
def copyEps (c : Cmd) : List W64 :=
  match c.op with
  | 6 => [c.srcw]
  | 8 => if bit c.word 13 then [c.srcw, c.dstw] else [c.srcw]
  | _ => [c.srcw, c.dstw]

/-- FX has to fit: ROWB a multiple of 4, and every tensor side, of which there is one, FP6 (R239). -/
def State.fxStart (s : State) (c : Cmd) : Option FaultInfo :=
  let six := fun (ep : W64) => !epT ep || (match s.tensor (epTid ep) with
    | some t => [6, 7, 18, 19].contains t.fmt
    | none => true)
  let eps := copyEps c
  if c.fx && ((c.op ≠ 6 && c.rowb % 4 ≠ 0) || !eps.any epT || !eps.all six) then some { cause := .illegalMove } else none

def firstFault (l : List (Option FaultInfo)) : Option FaultInfo := l.findSome? id

/-- The start of cpy, cpyp, gth, grd, sct and topk. -/
def State.startCopy (s : State) (u : CUnit) (c : Cmd) : State :=
  let fmtOk := c.op ≠ 7 || (match s.tensor (epTid c.srcw) with
    | some t => t.fmt = 15 || t.fmt = 13
    | none => true)
  match firstFault [s.tensorStart c.srcw true, s.tensorStart c.dstw true, s.fxStart c,
      if fmtOk then none else some { cause := .formatUnsupported }] with
  | some f => s.cmdFault u c f
  | none =>
    let src := tilesOf (s.cmdSpans c false)
    let marks := sigSrcm c.sigw ≠ 0
    let table := tilesOf ((idxExt c).map (fun x => (nameIdx x.name, x.off, x.len)))
    let r := s.acquireCmd u c (cmdExts c false ++ cmdExts c true ++ idxExt c) (tilesOf (s.cmdSpans c true))
      (if marks then src else []) ((if marks then [] else src) ++ table)
    let total := if c.op = 0 then countRows (s.pieces c) c.rows else c.rows
    s.started u c r (fun s => s.runCmd u c total)

/-- The start of tatom: its word's tensor, and the return address. -/
def State.startTatom (s : State) (u : CUnit) (c : Cmd) : State :=
  match firstFault [s.tensorStart c.srcw true, s.fxStart c] with
  | some f => s.cmdFault u c f
  | none =>
    let ret : List Ext := if tatomRet c then [⟨epName c.extw, epOff c.extw, 8⟩] else []
    let r := s.acquireCmd u c ret (tilesOf (ret.map (fun x => (nameIdx x.name, x.off, x.len)))) [] []
    s.started u c r (fun s => s.runCmd u c 1)

/-- The start of mcast: the landing table in the core's cluster is read, then the whole set is acquired (R247). -/
def State.startMcast (s : State) (u : CUnit) (c : Cmd) : State :=
  let n := mcastN c
  let name := epName c.dstw
  let table : Ext := ⟨name, epOff c.dstw, 16 * n⟩
  let read : Res (List (Nat × W64)) :=
    if c.acq then .val s c.acc
    else
      match (s.ctx c.cid).acquire c.pinsFor (some (s.linIn c.cid / 4)) false [table] with
      | .fault f => .fault s f
      | .hold => .hold
      | .ok _ => (s.cmdRead u c name (epOff c.dstw) (16 * n)).bind (fun s bs => .val s (tableWords n bs))
  match firstFault [s.tensorStart c.srcw true, s.fxStart c] with
  | some f => s.cmdFault u c f
  | none =>
      match read with
      | .val s ws =>
        let c := { c with acc := ws }
        let s := s.setCmd u c.id (fun x => { x with acc := ws })
        let bufs := (List.range n).map (mcastBuf c)
        let lands := bufs.flatMap (s.landSpans c)
        let src := tilesOf (s.cmdSpans c false)
        let marks := sigSrcm c.sigw ≠ 0
        let tt := tilesOf [(nameIdx name, table.off, table.len)]
        let r := s.acquireCmd u c (cmdExts c false ++ [table] ++ bufs.map (fun w => ⟨epName w, epOff w, 0⟩)) (tilesOf lands)
          (if marks then src else []) ((if marks then [] else src) ++ tt)
        let total := ((List.range n).map (mcastCount c)).foldl (· + ·) 0
        s.started u c r (fun s => s.runCmd u c total)
      | .fault s f => s.cmdFault u c f
      | .hold => s.cmdHold u c

/-! ### Triggers (R236, R242 to R249) -/

def copyUse : CmdUse := {}

/-- A copy operation locks, under ATOM = W, the tiles it writes and marks from its issue (R315). -/
def State.copyCmd (s : State) (u : CUnit) (g : Guard) (src : Src) (op : Nat) (use : CmdUse) (bad : Cmd → Bool) : State :=
  s.command u g src op use bad (fill := fun c =>
    { c with locks := s.lockTiles c, perm := if op = 1 then s.core.perm (fld c.word 6 4) else [] })

def execCpy (u : CUnit) (g : Guard) (src : Src) (s : State) : Host.Outcome State Fault Refusal :=
  .next (s.copyCmd u g src 0 copyUse (fun _ => false))

/-- cpyp samples p[PR] (R244). -/
def execCpyp (u : CUnit) (g : Guard) (src : Src) (s : State) : Host.Outcome State Fault Refusal :=
  .next (s.copyCmd u g src 1 copyUse (fun c => c.rowb ≠ 64 || c.rows % 256 ≠ 0))

def execGth (u : CUnit) (g : Guard) (src : Src) (s : State) : Host.Outcome State Fault Refusal :=
  .next (s.copyCmd u g src 2 copyUse (fun c => idxOff c % 4 ≠ 0 || decide (8 < idxG c)))

def execGrd (u : CUnit) (g : Guard) (src : Src) (s : State) : Host.Outcome State Fault Refusal :=
  .next (s.copyCmd u g src 3 copyUse (fun c =>
    idxOff c % 4 ≠ 0 || idxG c = 0 || decide (4 < idxG c) || c.rowb % grdSrc c ≠ 0))

def execSct (u : CUnit) (g : Guard) (src : Src) (s : State) : Host.Outcome State Fault Refusal :=
  .next (s.copyCmd u g src 4 copyUse (fun c => idxOff c % 4 ≠ 0 || decide (8 < idxG c)))

def execMcast (u : CUnit) (g : Guard) (src : Src) (s : State) : Host.Outcome State Fault Refusal :=
  .next (s.copyCmd u g src 5 { dstTen := false } (fun _ => false))

def execTatom (u : CUnit) (g : Guard) (src : Src) (s : State) : Host.Outcome State Fault Refusal :=
  .next (s.copyCmd u g src 6 { srcSeg := false, dst := false, shape := false } (fun c => decide (9 ≤ tatomOp c)))

def execTopk (u : CUnit) (g : Guard) (src : Src) (s : State) : Host.Outcome State Fault Refusal :=
  .next (s.copyCmd u g src 7 { srcSeg := false } (fun c => topkK c = 0 || decide (4 < topkK c) || decide (topkE c < topkK c)))

end Sys2Proof.Machine
end

