-- ==== Sys2Proof/Machine/Agents.lean ====
section
/-! DEFINITION. Batches (R253), tstat (R238), stouch and spush (R128 to R130), and tile subscriptions with their stack agent
(R250, R251, R314). -/

namespace Sys2Proof.Machine

/-! ### Batches (R253, R254) -/

/-- A close that would make a 17th outstanding closed batch. -/
def CEngine.closeHolds (e : CEngine) : Bool := e.openN ≠ 0 && decide (16 ≤ e.closed.length)

def execBclose (u : CUnit) (g : Guard) (src : Src) (s : State) : Host.Outcome State Fault Refusal :=
  .next (s.trigger u.dom g src 0 none (fun tr =>
    if (s.core.eng u).closeHolds then s.holdMove u.dom.slot.num else s.effects tr [.closeBatch u, .commit]))

def execWaitb (u : CUnit) (g : Guard) (src : Src) (s : State) : Host.Outcome State Fault Refusal :=
  .next (s.trigger u.dom g src 0 none (fun tr =>
    let n := fld tr.t.scalar 0 5
    if 16 < n then s.raiseIn u.dom.slot { cause := .illegalMove }
    else if (s.core.eng u).closeHolds ∨ (s.core.task.timed ∧ (s.core.eng u).remote) then s.holdMove u.dom.slot.num
    else s.effects tr [.closeBatch u, .gate (.waitb u n), .commit]))

/-- tstat is not a touch (R238). -/
def execTstat (u : CUnit) (g : Guard) (src : Src) (s : State) : Host.Outcome State Fault Refusal :=
  .next (s.trigger u.dom g src 0 (some 2) (fun tr =>
    let w := tr.t.scalar
    s.deliver tr 2 (.sc (BitVec.ofNat 64 (s.me.tstat (epName w) (epOff w)))) (more := [.commit])))

/-! ### stouch and spush (R128 to R130) -/

def segUse : CmdUse := { src := false, dst := false, shape := false, sig := false }

/-- The name in o0 stands as group word 0, the counter of the trigger as a SIGW of the core's cluster. -/
def State.segCmd (s : State) (u : CUnit) (g : Guard) (src : Src) (op sigBit : Nat) (stall : Cmd → Bool) : State :=
  s.command u g src op segUse (fun _ => false) (reads := 1) (stall := stall) (fill := fun c =>
    let name := ((s.core.input u.dom false).head s.core.issued).scalar
    let sig : W64 := BitVec.ofNat 64 (pack [(0, 12, fld c.word 16 12), (12, 2, b2n (bit c.word sigBit)), (14, 6, s.lclu)])
    { c with grp := [name, 0, 0, sig] })

def execStouch (u : CUnit) (g : Guard) (src : Src) (s : State) : Host.Outcome State Fault Refusal :=
  .next (s.segCmd u g src 10 0 (fun _ => false))

def execSpush (u : CUnit) (g : Guard) (src : Src) (s : State) : Host.Outcome State Fault Refusal :=
  .next (s.segCmd u g src 11 1 (fun _ => true))

/-- The entry by which a segment remembers a waiting stouch or spush: its counter, or 4,096 where the command signals
itself or not at all. -/
def sigEntry (c : Cmd) : Nat × Nat := (sigCcl c.sigw, if sigSk c.sigw = 1 ∧ ¬ c.cm then sigCtr c.sigw else 4096)

/-- stouch and spush end; a counter that the segment has decremented is not decremented again. -/
def State.endSegCmd (s : State) (u : CUnit) (c : Cmd) (signalled : Bool) : State :=
  let s := s.finishCmd u c
  if signalled ∧ ¬ c.cm then s else s.signalSigw u c c.sigw

/-- The checks of R121 that a stouch has, up to SEG_QUOTA, with TILE_POISON; a spush has those of stale and poisoned names alone
(R128, R129). -/
def State.segCmdFault (s : State) (c : Cmd) : Option FaultInfo :=
  let name := epName c.srcw
  match (s.ctx c.cid).acquire (if c.op = 10 then c.pinsFor else none) none false [⟨name, 0, 0⟩] with
  | .fault f =>
    if f.cause = .segAbsent then none
    else if c.op = 10 ∨ f.cause = .segStale ∨ f.cause = .tilePoison then some f
    else if (s.seg c.cid (nameIdx name)).state = .poisoned then
      some { cause := .tilePoison, info := BitVec.ofNat 64 (s.seg c.cid (nameIdx name)).poison, wher := segWhere name 0 }
    else none
  | _ => none

def State.startStouch (s : State) (u : CUnit) (c : Cmd) : State :=
  let idx := nameIdx (epName c.srcw)
  match s.segCmdFault c with
  | some f => s.cmdFault u c f
  | none =>
    let g := s.seg c.cid idx
    if c.timed then (s.touch c.cid idx).finishCmd u c
    else if g.state = .resident then (s.touch c.cid idx).endSegCmd u c false
    else
      let s := s.onSeg c.cid idx (fun g => { g with recSig := g.recSig ++ [sigEntry c] })
      let s := s.runCmd u c 1
      if g.state.absent then s.requestRecall c.cid [idx] else s

def State.startSpush (s : State) (u : CUnit) (c : Cmd) : State :=
  let idx := nameIdx (epName c.srcw)
  let discard := bit c.word 0
  match s.segCmdFault c with
  | some f => s.cmdFault u c f
  | none =>
    let s := s.touch c.cid idx
    let g := s.seg c.cid idx
    if g.state = .resident ∧ g.pin = 0 ∧ g.inb = 0 ∧ (discard ∨ (s.backing c.cid).isSome) then
      (s.startPush c.cid idx discard [sigEntry c]).runCmd u c 1
    else s.endSegCmd u c false

/-- The end of a stouch or spush that had to wait. -/
def State.endSegWait (s : State) (u : CUnit) (c : Cmd) : State :=
  let g := s.seg c.cid (nameIdx (epName c.srcw))
  if c.op = 10 then
    if g.recSig.contains (sigEntry c) ∧ g.state ≠ .poisoned then s
    else if g.state = .poisoned then
      s.cmdFault u c { cause := .tilePoison, info := BitVec.ofNat 64 g.poison, wher := segWhere (epName c.srcw) 0 }
    else s.endSegCmd u c true
  else if g.pushSig.contains (sigEntry c) then s else s.endSegCmd u c true

/-! ### Subscriptions (R250, R251) -/

def subSid (c : Cmd) : Nat := fld c.word 6 3
def subRing (c : Cmd) : Nat := fld c.word 9 4
def subRet (c : Cmd) : Bool := bit c.word 13

def State.sidTaken (s : State) (u : CUnit) (sid : Nat) : Bool :=
  (s.core.eng u).subs.any (fun x => x.1 = sid) || (s.core.eng u).cmds.any (fun c => c.op = 8 && subSid c = sid)

def execCSub (u : CUnit) (g : Guard) (src : Src) (s : State) : Host.Outcome State Fault Refusal :=
  .next (s.command u g src 8 { srcSeg := false, dst := false, joins := false }
    (fun c =>
      let r := s.core.ring (subRing c)
      c.rowb ≠ 64 || (subRet c && !epT c.dstw) || s.sidTaken u (subSid c) || r.store ≠ 3 || r.ten)
    (stall := fun _ => true))

def execUnsub (u : CUnit) (g : Guard) (src : Src) (s : State) : Host.Outcome State Fault Refusal :=
  .next (s.command u g src 9 { src := false, dst := false, shape := false, joins := false } (fun _ => false) (stall := fun _ => true))

/-- What a subscription signals as, for its own context and task. -/
def SubSt.cmd (x : SubSt) : Cmd :=
  { id := 0, op := 8, word := 0, st := .running, grp := [x.src, x.dst, 0, x.sigw], srcC := x.srcC, dstC := x.dstC, fmt := 0, bidx := x.bidx, cid := x.cid,
    task := x.task }

/-- The subscription begins; the segment of its ring is held while it lasts (log 17). -/
def State.startSub (s : State) (u : CUnit) (c : Cmd) : State :=
  let r := s.core.ring (subRing c)
  match firstFault [s.tensorStart c.srcw true, if subRet c then s.tensorStart c.dstw true else none, s.fxStart c] with
  | some f => s.cmdFault u c f
  | none =>
    match (s.ctx c.cid).acquire none none true [⟨BitVec.ofNat 16 r.base, r.line * 64, r.depth * 64⟩] with
    | .fault f => s.cmdFault u c f
    | .hold => s
    | .ok segs =>
      let x : SubSt :=
        { cid := c.cid, task := c.task, bidx := c.bidx, ring := subRing c, rows := c.rows, ret := subRet c, src := c.srcw, dst := c.dstw,
          srcC := c.srcC, dstC := c.dstC, sigw := c.sigw, held := segs }
      ((s.holdSet c.cid segs).finishCmd u c).upd (fun k => k.setEng u { k.eng u with subs := aput (k.eng u).subs (subSid c) x })

def State.setSub (s : State) (u : CUnit) (sid : Nat) (f : SubSt → SubSt) : State :=
  s.upd (fun k => k.setEng u { k.eng u with subs := (k.eng u).subs.map (fun x => if x.1 = sid then (sid, f x.2) else x) })

def State.releaseSub (s : State) (x : SubSt) : State :=
  x.pages.foldl (fun s p => s.dropPinc p.1 p.2) (x.held.foldl (fun s i => s.dropInb x.cid i) s)

/-- A subscription ends and signals the lines done (R251). -/
def State.endSub (s : State) (u : CUnit) (sid : Nat) (x : SubSt) : State :=
  ((s.releaseSub x).upd (fun k => k.setEng u { k.eng u with subs := adel (k.eng u).subs sid })).signalSigw u x.cmd x.sigw

def State.startUnsub (s : State) (u : CUnit) (c : Cmd) : State :=
  let s : State := match alook (s.core.eng u).subs (subSid c) with
    | some x => s.endSub u (subSid c) x
    | none => s
  s.completeCmd u c

/-- Pages of a subscription's line are touched by the stack agent in order, and held (R137, R138). -/
def State.subPin (u : CUnit) (sid cid tid : Nat) (write : Bool) : List Nat → State → Res Unit
  | [], s => .val s ()
  | p :: l, s =>
    match s.touchPage cid none tid p write with
    | (s, some f) => .fault s f
    | (s, none) =>
      State.subPin u sid cid tid write l (match alook (s.core.eng u).subs sid with
        | some x =>
          if x.pages.contains (tid, p) then s
          else (s.onPage tid p (fun y => { y with pinc := y.pinc + 1 })).setSub u sid (fun x => { x with pages := x.pages ++ [(tid, p)] })
        | none => s)

def State.subTouch (s : State) (u : CUnit) (sid : Nat) (x : SubSt) (tid : Nat) (runs : List (Nat × Nat)) (write : Bool) : Res Unit :=
  State.subPin u sid x.cid tid write (pagesOf runs) s

def SubSt.fx (x : SubSt) : Bool := sigFx x.sigw

/-- The runs of a line at row r of a subscription's tensor: 64 B, or the 48 B of its FP6 elements (R239). -/
def State.subRuns (s : State) (x : SubSt) (dst : Bool) (r : Nat) : Except FaultInfo (Nat × List (Nat × Nat)) :=
  let n := if x.fx then 48 else 64
  match s.locate x.cmd dst r with
  | .ok (.ten tid row b) =>
    match s.tensor tid with
    | some t => if t.rowBytes < b + n then .error (pagePerm tid 0 3) else .ok (tid, t.runs row b n)
    | none => .error (pagePerm tid 0 6)
  | .ok (.seg _ _) => .error { cause := .illegalMove }
  | .error f => .error f

/-- A line of a subscription faults: RESUME is the line (R240, R250). -/
def State.subFault (s : State) (u : CUnit) (sid : Nat) (x : SubSt) (line : Nat) (f : FaultInfo) : State :=
  let f := { f with unit := faultUnit u, bidx := some x.bidx, resume := BitVec.ofNat 64 line }
  let s := s.setSub u sid (fun x => { x with faulted := true, waitPg := f.waitPage })
  let r := s.engineFault f x.cid x.task
  r.1.setSub u sid (fun x => { x with auto := r.2 })

/-- A fault handled under AUTO is over once the page's fetch has ended. -/
def State.subReady (s : State) (x : SubSt) : Bool :=
  !x.faulted || (x.auto && (match x.waitPg with
    | some (t, p) => !(s.page t p).mov
    | none => true))

/-- Lines of the subscription that the core's head has passed. -/
def SubSt.consumed (x : SubSt) (r : Ring) : Nat := x.next - r.filled

/-- Pages that no later line reaches are released (R138). -/
def State.subBehind (s : State) (u : CUnit) (sid : Nat) (x : SubSt) : State :=
  let rows := fun (dst : Bool) (e : Nat) => ((List.range (x.rows - e)).map (· + e)).flatMap (fun r =>
    match s.subRuns x dst r with
    | .ok (tid, runs) => (pagesOf runs).map (fun p => (tid, p))
    | .error _ => [])
  let ahead := rows false x.next ++ (if x.ret then rows true x.back else [])
  (x.pages.filter (fun p => !ahead.contains p)).foldl (fun s p => s.dropPinc p.1 p.2)
    (s.setSub u sid (fun x => { x with pages := x.pages.filter ahead.contains }))

/-- A line is done: its pages are released where it was the last on them, and the subscription ends with its last line. -/
def State.subOver (s : State) (u : CUnit) (sid : Nat) : State :=
  match alook (s.core.eng u).subs sid with
  | some x => if x.next = x.rows && (!x.ret || x.back = x.rows) then s.endSub u sid x else if x.pages.isEmpty then s else s.subBehind u sid x
  | none => s

/-- Byte-count arrivals of a subscription's line. -/
def State.subBytes (s : State) (u : CUnit) (x : SubSt) (n : Nat) : State :=
  if sigSk x.sigw = 3 then s.cmdSignal u x.cmd (sigCcl x.sigw) (sigCtr x.sigw) (.bytes n) else s

/-- A ring as the mark in force has it: entries that a rollback can still give back are not free to the agent, and a head advance past
them releases the core's stores first (R314). -/
def CoreSt.markRing (c : CoreSt) (q : Nat) : Ring :=
  match c.mark with
  | some m => sget {} m.rings q
  | none => c.ring q

/-- The agent pushes the next line when an entry is free: its bytes, then the tail advance (R250, R314). -/
def execSubPush (u : CUnit) (sid : Nat) (s : State) : Host.Outcome State Fault Refusal :=
  match alook (s.core.eng u).subs sid with
  | none => .next s
  | some x =>
    let r := s.core.markRing x.ring
    let room := decide (r.filled < r.depth) && (!x.ret || decide (x.next - x.back < r.depth))
    let seg := nameIdx (BitVec.ofNat 16 r.base)
    let off := (r.line + r.tail) * 64
    if !(decide (x.next < x.rows) && room && s.subReady x && (s.seg x.cid seg).tilesOk off 64 true) then .next s
    else
      match s.subRuns x false x.next with
      | .error f => .next (s.subFault u sid x x.next f)
      | .ok (tid, runs) =>
        match s.subTouch u sid x tid runs false with
        | .val s _ =>
          let bs := s.readRuns tid runs
          let s := s.segWrite x.cid seg off (if x.fx then fieldsOf bs 0 64 else bs)
          let s := s.upd (fun c => { c.setRing x.ring ((c.ring x.ring).pushN 1) with
            mark := c.mark.map (fun m => { m with rings := sset {} m.rings x.ring ((sget {} m.rings x.ring).pushN 1) }) })
          let s := s.setSub u sid (fun x => { x with next := x.next + 1, faulted := false, auto := false, waitPg := none })
          .next ((s.subBytes u x 64).subOver u sid)
        | .fault s f => .next (s.subFault u sid x x.next f)
        | .hold => .next s

/-- The agent reads back an entry that the head has passed (R250). -/
def execSubReturn (u : CUnit) (sid : Nat) (s : State) : Host.Outcome State Fault Refusal :=
  match alook (s.core.eng u).subs sid with
  | none => .next s
  | some x =>
    let r := s.core.markRing x.ring
    let seg := nameIdx (BitVec.ofNat 16 r.base)
    let off := (r.line + (r.tail + r.depth - (x.next - x.back)) % r.depth) * 64
    if !(x.ret && decide (x.back < x.consumed r) && s.subReady x && (s.seg x.cid seg).tilesOk off 64 false) then .next s
    else
      match s.subRuns x true x.back with
      | .error f => .next (s.subFault u sid x x.back f)
      | .ok (tid, runs) =>
        match s.subTouch u sid x tid runs true with
        | .val s _ =>
          let bs := s.segRead x.cid seg off 64
          let s := State.writeRuns tid runs (if x.fx then bytesLE 48 (denseOf bs) else bs) s
          let s := s.setSub u sid (fun x => { x with back := x.back + 1, faulted := false, auto := false, waitPg := none })
          .next ((s.subBytes u x (if x.fx then 48 else 64)).subOver u sid)
        | .fault s f => .next (s.subFault u sid x x.back f)
        | .hold => .next s

end Sys2Proof.Machine
end

