-- ==== Sys2Proof/Machine/Cells.lean ====
section
/-! DEFINITION. Cells (15_barrier): how signals that reach a cell together are applied (R296 to R298), and the sync
operations (R300 to R305): triggers, what each does when it is performed, and when it completes. -/

namespace Sys2Proof.Machine

/-! ### A cell (R294, R297, R298) -/

def Cell.depset (b : Bool) (val : Nat) : Cell :=
  if b then { barrier := true, st := 1, val := val } else { st := if val = 0 then 0 else 1, val := val }

/-- The sums of one cycle's signals: decrements, arrivals, bytes, expected bytes, and whether any of each came. -/
structure Sums where
  dec    : Nat := 0
  decs   : Bool := false
  arr    : Nat := 0
  got    : Nat := 0
  exp    : Nat := 0
  others : Bool := false
deriving DecidableEq, Repr

def Sums.add (x : Sums) (k : SigKind) : Sums :=
  match k with
  | .dec n => { x with dec := x.dec + n, decs := true }
  | .arrive n => { x with arr := x.arr + n, others := true }
  | .bytes n => { x with got := x.got + n, others := true }
  | .expect n arv => { x with exp := x.exp + n, arr := x.arr + b2n arv, others := true }
  | .depset _ _ => x

def maxBytes : Nat := 2 ^ 32 - 1

/-- Decrements on a counter (R297). -/
def Cell.decrement (c : Cell) (n : Nat) : Cell :=
  if c.st = 0 then { c with under := true }
  else if n < c.val then { c with val := c.val - n }
  else { c with val := 0, st := 0, under := c.under || decide (c.val < n) }

/-- The sums on a barrier, with the opening test (R298). -/
def Cell.advance (c : Cell) (x : Sums) : Cell :=
  let arr := c.arr + x.arr
  let expb := c.expb + x.exp
  let gotb := c.gotb + x.got
  let mis := c.mis || decide (c.val < arr) || decide (maxBytes ≤ expb) || decide (maxBytes ≤ gotb)
  let arr := min arr c.val
  let expb := min expb maxBytes
  let gotb := min gotb maxBytes
  if arr = c.val ∧ expb ≤ gotb then
    { c with ph := !c.ph, arr := 0, expb := 0, gotb := gotb - expb, mis := mis, st := if expb < gotb then 2 else 1 }
  else { c with arr := arr, expb := expb, gotb := gotb, mis := mis, st := 2 }

/-- A signal of the wrong kind is dropped and sets MIS (R296). -/
def Cell.applySums (c : Cell) (x : Sums) : Cell :=
  if c.barrier then
    let c := { c with mis := c.mis || x.decs }
    if x.others then c.advance x else c
  else
    let c := { c with mis := c.mis || x.others }
    if x.decs then c.decrement x.dec else c

/-- The order of the depsets of one cycle (R296): the cell's own cluster first, by core and engine; then the others. -/
def depBefore (clu : Nat) (a b : Signal) : Bool :=
  let key := fun (x : Signal) => (if x.src = clu then 0 else 1 + x.src, x.core, x.eng)
  let ka := key a
  let kb := key b
  decide (ka.1 < kb.1) || (ka.1 = kb.1 && (decide (ka.2.1 < kb.2.1) || (ka.2.1 = kb.2.1 && decide (ka.2.2 < kb.2.2))))

/-- Signals that reach a cell together. -/
def Cell.take (clu : Nat) (l : List Signal) (c : Cell) : Cell :=
  let deps := sortBy (depBefore clu) (l.filter (fun x =>
    match x.kind with
    | .depset _ _ => true
    | _ => false))
  let c := deps.foldl (fun c x =>
    match x.kind with
    | .depset b v => Cell.depset b v
    | _ => c) c
  c.applySums (l.foldl (fun a x => a.add x.kind) ({} : Sums))

/-- The condition of a bwait (R302). -/
def Cell.passes (c : Cell) (p : Bool) : Bool := if c.barrier then c.ph != p else c.st = 0

/-! ### Waiting bwaits -/

def bwaitP (c : Cmd) : Bool := bit c.word 5

def Cmd.waitsOn (x : Cmd) (cid clu n : Nat) : Bool :=
  x.op = 28 && x.performed && x.cid = cid && sigCcl x.sigw = clu && sigCtr x.sigw = n

def CEngine.markBwaits (e : CEngine) (cid clu n : Nat) (cell : Cell) : CEngine :=
  { e with cmds := e.cmds.map (fun x => if x.waitsOn cid clu n && cell.passes (bwaitP x) then { x with ready := true } else x) }

def CoreSt.markBwaits (c : CoreSt) (cid clu n : Nat) (cell : Cell) : CoreSt :=
  { c with eng0 := c.eng0.markBwaits cid clu n cell, eng1 := c.eng1.markBwaits cid clu n cell }

/-- A cell of a context is set; bwaits whose condition holds now have passed. -/
def State.setCell (s : State) (cid clu n : Nat) (cell : Cell) : State :=
  let s := s.onCtx cid (fun c => { c with cells := aput c.cells (cellKey clu n) cell })
  { s with core := s.core.markBwaits cid clu n cell,
           parked := s.parked.map (fun (p : Nat × CoreSt) => (p.1, p.2.markBwaits cid clu n cell)) }

def Signal.isFor (x : Signal) (cid clu n : Nat) : Bool := x.cid = cid && x.clu = clu && x.n = n

/-- Parts the signals for a cell whose places among them `which` lists, counted from `i`, from all others. -/
def takeSignals (cid clu n : Nat) (which : List Nat) : Nat → List Signal → List Signal × List Signal
  | _, [] => ([], [])
  | i, x :: l =>
    if x.isFor cid clu n then
      let r := takeSignals cid clu n which (i + 1) l
      if which.contains i then (x :: r.1, r.2) else (r.1, x :: r.2)
    else
      let r := takeSignals cid clu n which i l
      (r.1, x :: r.2)

/-- Signals of the cell's own cluster take 2 cycles each: none overtakes an earlier one. Those of other clusters take a variable time
(R28, R296). -/
def inOrder (cid clu n : Nat) (which : List Nat) (l : List Signal) : Bool :=
  let own := ((l.filter (fun x => x.isFor cid clu n)).zipIdx.filter (fun p => p.1.src = clu)).map (fun p => which.contains p.2)
  (own.dropWhile id).all (fun taken => !taken)

/-- Whether a signal left its core for a cell of its own cluster in an earlier cycle than another did: bundles have issued between them. -/
def Signal.before (x y : Signal) : Bool :=
  x.src = x.clu && y.src = y.clu && x.cid = y.cid && x.src = y.src && x.core = y.core && decide (x.at_ < y.at_)

/-- Signals of one core to cells of its own cluster take 2 cycles each: what left in an earlier cycle arrives in an earlier one (R296). -/
def inTime (taken all : List Signal) : Bool := taken.all (fun y => !all.any (fun x => x.before y))

/-- When signals that reach a cell together do so, as a ready order: those of its own cluster 2 cycles after they left, so that what one
turn sends to several cells reaches them in one cycle (R296, R368; log 5); with one of another cluster, now. -/
def State.arrival (s : State) (l : List Signal) : Nat :=
  if l.all (fun x => x.src = x.clu) then l.foldl (fun m x => max m x.sent) 0 else s.turns

/-- The signals on their way to a cell that `which` names by their places among them reach it in one cycle (R296); readiness of cards
follows (R260). -/
def execSignalApply (cid clu n : Nat) (which : List Nat) (s : State) : Host.Outcome State Fault Refusal :=
  let r := takeSignals cid clu n which 0 s.signals
  if r.1.isEmpty ∨ !inOrder cid clu n which s.signals ∨ !inTime r.1 s.signals then .next s
  else
    let cell := ((s.ctx cid).cell clu n).take clu r.1
    .next ((({ s with signals := r.2 } : State).setCell cid clu n cell).refreshAt (s.arrival r.1))

/-! ### Triggers (R300, R305) -/

def syncUse : CmdUse := { src := false, dst := false, shape := false }

def syncN (c : Cmd) : Nat := if fld c.word 16 16 = 0 then 1 else fld c.word 16 16
def expectBytes (c : Cmd) : Nat := fld c.word 16 24
def depMode (c : Cmd) : Bool := bit c.word 5
def depVal (c : Cmd) : Nat := fld c.word 16 16

def execArrive (u : CUnit) (g : Guard) (src : Src) (s : State) : Host.Outcome State Fault Refusal :=
  .next (s.command u g src 26 syncUse (fun _ => false))

def execExpect (u : CUnit) (g : Guard) (src : Src) (s : State) : Host.Outcome State Fault Refusal :=
  .next (s.command u g src 27 syncUse (fun c => expectBytes c = 0))

/-- bwait holds the sequencer before the next bundle (R302); a timed one on a cell of another cluster stalls (R305). -/
def execBwait (u : CUnit) (g : Guard) (src : Src) (s : State) : Host.Outcome State Fault Refusal :=
  .next (s.command u g src 28 syncUse (fun _ => false) (more := fun c => [.gate (.bwait u c.id)])
    (stall := fun c => sigCcl c.sigw ≠ s.lclu))

def execDepset (u : CUnit) (g : Guard) (src : Src) (s : State) : Host.Outcome State Fault Refusal :=
  .next (s.command u g src 29 syncUse (fun c => depMode c && depVal c = 0))

def execDepdec (u : CUnit) (g : Guard) (src : Src) (s : State) : Host.Outcome State Fault Refusal :=
  .next (s.command u g src 30 syncUse (fun _ => false))

/-- A drain, with WAIT the hold of R304. -/
def State.drainOp (s : State) (u : CUnit) (g : Guard) (src : Src) (op : Nat) : State :=
  s.command u g src op syncUse (fun c => sigSk c.sigw = 3) (more := fun c => if bit c.word 5 then [.gate (.drain u c.id)] else [])

def execDrainC (u : CUnit) (g : Guard) (src : Src) (s : State) : Host.Outcome State Fault Refusal := .next (s.drainOp u g src 31)
def execDrainD (u : CUnit) (g : Guard) (src : Src) (s : State) : Host.Outcome State Fault Refusal := .next (s.drainOp u g src 32)
def execDrainP (u : CUnit) (g : Guard) (src : Src) (s : State) : Host.Outcome State Fault Refusal := .next (s.drainOp u g src 33)
def execDrainF (u : CUnit) (g : Guard) (src : Src) (s : State) : Host.Outcome State Fault Refusal := .next (s.drainOp u g src 34)

def execFence (u : CUnit) (g : Guard) (src : Src) (s : State) : Host.Outcome State Fault Refusal :=
  .next (s.command u g src 35 syncUse (fun c => sigSk c.sigw = 3))

/-! ### Starts (R300 to R305) -/

/-- A signal of the core to a cell of its own cluster that left two bundles ago: it reaches the cell before a bwait that is performed now
or in the same cycle, and the bwait sees it (R296, R302). -/
def State.signalDue (s : State) (c : Cmd) : Bool :=
  s.signals.any (fun x => x.isFor c.cid (sigCcl c.sigw) (sigCtr c.sigw) && x.src = x.clu && x.core = s.linIn c.cid &&
    decide (x.at_ + 2 ≤ s.core.issued))

/-- A bwait is performed on its cell as it stands, once what has to be in it is (R302). -/
def State.performBwait (s : State) (u : CUnit) (c : Cmd) : State :=
  let cell := (s.ctx c.cid).cell (sigCcl c.sigw) (sigCtr c.sigw)
  if s.signalDue c then s
  else s.setCmd u c.id (fun x => { x with st := .running, total := 1, performed := true, ready := cell.passes (bwaitP c) })

/-- A sync operation starts; the signalling ones complete as they are performed. -/
def State.startSync (s : State) (u : CUnit) (c : Cmd) : State :=
  let send := fun (k : SigKind) => (s.finishCmd u c).cmdSignal u c (sigCcl c.sigw) (sigCtr c.sigw) k
  match c.op with
  | 26 => send (.arrive (syncN c))
  | 27 => send (.expect (expectBytes c) (bit c.word 5))
  | 28 => if sigCcl c.sigw = s.linIn c.cid / 4 then s.performBwait u c else s.runCmd u c 1
  | 29 => send (.depset (depMode c) (depVal c))
  | 30 => send (.dec (syncN c))
  | _ => (s.runCmd u c 1).setCmd u c.id (fun x => { x with performed := true })

/-- The end of a bwait, a drain or a fence that has been performed. -/
def State.endSync (s : State) (u : CUnit) (c : Cmd) : State :=
  if c.op = 28 then (if c.ready then s.finishCmd u c else s) else if c.performed then s.completeCmd u c else s

/-- The answer of another cluster has come: the bwait is performed (R302). -/
def execRemoteBwaitAnswer (u : CUnit) (id : Nat) (s : State) : Host.Outcome State Fault Refusal :=
  match s.cmdOf u id with
  | some c => .next (if c.op = 28 && c.st = .running && !c.performed then s.performBwait u c else s)
  | none => .next s

end Sys2Proof.Machine
end

