-- ==== Sys2Proof/Machine/Views.lean ====
section
/-! DEFINITION. The words that software reads state through: the context block (R95), system registers (R166, R357),
MTS (R231), level words (R160), energy counts (R168), the coordinate word (R11). -/

namespace Sys2Proof.Machine

/-- The level word of R160. -/
def NestLevel.word (l : NestLevel) : W64 :=
  BitVec.ofNat 64 (pack [(0, 13, l.body), (13, 1, b2n l.arm), (14, 1, b2n l.c), (15, 1, b2n l.last), (16, 32, l.t)])

/-- MTS as R231 lays it out. -/
def State.mts (s : State) : W64 :=
  BitVec.ofNat 64 (pack [(0, 3, s.throttle.step), (4, 4, s.throttle.cause), (8, 1, b2n s.core.mat.warm), (9, 5, s.core.mat.macros),
    (16, 32, s.throttle.frames)])

/-- Fetches of a tenant that wait on the pool (R144). -/
def State.poolWaiting (s : State) (tenant : Nat) : Nat :=
  (s.pages.filter (fun x => x.2.2.waitPool &&
    (match s.tensor x.1 with
     | some t => t.tenant = tenant
     | none => false))).length

def PState.num : PState → Nat
  | .dark => 0
  | .boot => 1
  | .bringup => 2
  | .service => 3
  | .fwfail => 4

/-- R356: the cluster serves in reduced service. -/
def State.reduced (s : State) : Bool := s.pstate = .bringup

def State.mon (s : State) (clu : Nat) : ClusterMon := (alook s.mons clu).getD ⟨0, 0, 0, 0⟩

/-- The hottest of the package's 64 clusters (R357), in 1/8 °C, signed. -/
def State.tmax (s : State) : Int :=
  (List.range Config.clusters).foldl (fun best k => max best (s.mon k).temp.toInt) (s.mon 0).temp.toInt

/-- A system register by number (R166, R357), or none for a number the table does not list. -/
def State.sysReg (s : State) (n : Nat) : Option W64 :=
  let c := s.core
  let m := s.mon (s.cur / 4)
  if n = 0 then some (c.coord.setWidth 64)
  else if n = 1 then some (c.fst.setWidth 64)
  else if n = 2 then some (c.fmt.setWidth 64)
  else if n = 3 then some s.mts
  else if n = 4 then some (BitVec.ofNat 64 (s.poolWaiting s.me.tenant))
  else if n = 5 then some (BitVec.ofNat 64 c.task.id)
  else if n = 6 then some (c.stream 0)
  else if 8 ≤ n ∧ n ≤ 15 then some ((s.me.block s.cid).extractLsb' (64 * (n - 8)) 64)
  else if 17 ≤ n ∧ n ≤ 22 then some (c.level (n - 16)).word
  else if n = 32 then some (m.temp.setWidth 64)
  else if n = 33 then some (m.vcore.setWidth 64)
  else if n = 34 then some (m.vsram.setWidth 64)
  else if n = 35 then some (m.proc.setWidth 64)
  else if n = 36 then some (BitVec.ofNat 64 (ofInt 16 s.tmax))
  else if n = 37 then some (BitVec.ofNat 64 (s.ppwr % 65536))
  else if n = 38 then some (BitVec.ofNat 64 (pack [(0, 16, s.throttle.cap), (16, 3, s.throttle.floor)]))
  else if n = 39 then some (BitVec.ofNat 64 (pack [(0, 3, s.pstate.num), (3, 1, b2n s.reduced)]))
  else if 40 ≤ n ∧ n ≤ 63 then some 0
  else none

/-- The cycle of the package frame clock within its quantum as a tick reads it: none before what any core has read since the quantum
began, and open otherwise (R167; log 5). -/
def State.subNow (s : State) : Nat := s.sub % 16 + Config.freeNat s.fresh % (16 - s.sub % 16)

/-- An energy count in µJ (R168), or none for a selector the rule does not list. -/
def State.energyCount (s : State) (n : Nat) : Option W64 :=
  if n ≤ 255 then some (BitVec.ofNat 64 (sget 0 s.me.ktask n / 1000))
  else if n = 256 then some (BitVec.ofNat 64 (s.me.energy / 1000))
  else if n = 257 then some (BitVec.ofNat 64 (sget 0 s.me.ktask 256 / 1000))
  else none

end Sys2Proof.Machine
end

