-- ==== Sys2Proof/Machine/Matrix.lean ====
section
/-! DEFINITION. The matrix engine (10_matrix): the M queue and its lanes (R214 to R221), calls and the micro-sequencer (R222 to
R225), streams by the slice model (R89 to R92, R226), the epilogue (R227), commit, faults and restart (R228 to R232). -/

namespace Sys2Proof.Machine

/-! ### Formats of a command (R88, R89, R210, R211) -/

def MCmd.fa (k : MCmd) : Nat := fld k.fmt 35 5
def MCmd.fb (k : MCmd) : Nat := fld k.fmt 30 5
def MCmd.fc (k : MCmd) : Nat := fld k.fmt 25 5
def MCmd.fo (k : MCmd) : Nat := fld k.fmt 20 5
def MCmd.rm (k : MCmd) : Nat := fld k.fmt 17 3
def MCmd.sat (k : MCmd) : Bool := bit k.fmt 16
def MCmd.scp (k : MCmd) : Nat := fld k.fmt 12 4

/-- The class: the wider of the classes of FA and FB. -/
def MCmd.cls (k : MCmd) : Nat := max (fmtClass k.fa) (fmtClass k.fb)

/-- The integer path (R89). -/
def MCmd.ip (k : MCmd) : Bool := isIntFmt k.fa && isIntFmt k.fb

/-- FC of the path, also FC' of R227. -/
def MCmd.fcp (k : MCmd) : FP := if k.cls = 4 then fp64 else fp32

def clsWidth (cls : Nat) : Nat :=
  match cls with
  | 0 => 5
  | 1 => 9
  | 2 => 17
  | 3 => 25
  | _ => 54

def clsCols (cls : Nat) : Nat := if cls ≤ 2 then 64 else 32

def clsBlocks (cls : Nat) : Nat :=
  match cls with
  | 0 => 256
  | 1 => 128
  | 2 => 64
  | 3 => 64
  | _ => 32

/-- K-blocks the row buffer holds (R211). -/
def rowCapacity (fa : Nat) : Nat := 128 / fieldBits fa

/-- The float path needs FC = FP32, or FP64 for the FP64 class; no format of 24 or above (R71, R89). -/
def MCmd.badFormat (k : MCmd) : Bool :=
  decide (24 ≤ k.fa) || decide (24 ≤ k.fb) || decide (24 ≤ k.fo) || (!k.ip && k.fc ≠ (if k.cls = 4 then 16 else 15))

/-! ### Triggers (R214, R215) -/

/-- What an M operation samples at its trigger. -/
def State.mSample (s : State) (tr : Trig) (kind : MKind) : MCmd :=
  let t := s.core.task
  { kind := kind, seq := 0, o0 := tr.a.scalar, o1 := tr.b.scalar, word := tr.t.scalar, wps := (List.range 8).map s.core.mreg, fmt := tr.fmt,
    bidx := s.core.pc, cid := t.cid, task := t.key, timed := t.timed, cm := t.cm, pins := t.pins }

/-- An M operation that joins the queue; a ninth command waits (R215, R232). -/
def State.mTrigger (s : State) (g : Guard) (src : Src) (reads : Nat) (kind : MKind) (bad : MCmd → Option Cause) : State :=
  s.trigger .m g src reads none (fun tr =>
    let k := s.mSample tr kind
    match bad k with
    | some c => s.raiseIn .m { cause := c }
    | none => if 8 ≤ s.core.mat.waiting then s.holdMove 3 else s.effects tr [.mcmd k, .commit])

def illegalIf (b : Bool) : Option Cause := if b then some .illegalMove else none

/-- call (R222). -/
def execMCall (g : Guard) (src : Src) (s : State) : Host.Outcome State Fault Refusal :=
  .next (s.mTrigger g src 0 .call (fun k =>
    if fld k.word 20 8 &&& fld k.word 12 8 ≠ fld k.word 20 8 then some .illegalMove
    else if k.badFormat then some .formatUnsupported else none))

def mloadFirst (k : MCmd) : Nat := fld k.word 0 11
def mloadCount (k : MCmd) : Nat := fld k.word 12 11

/-- mload (R217). -/
def execMload (g : Guard) (src : Src) (s : State) : Host.Outcome State Fault Refusal :=
  .next (s.mTrigger g src 1 .mload (fun k =>
    illegalIf (mloadCount k = 0 || decide (2048 < mloadFirst k + mloadCount k))))

def bloadNkb (k : MCmd) : Nat := fld k.word 0 9
def bloadKb0 (k : MCmd) : Nat := fld k.word 9 9

/-- bload (R218). -/
def execBload (g : Guard) (src : Src) (s : State) : Host.Outcome State Fault Refusal :=
  .next (s.mTrigger g src 2 .bload (fun k =>
    if 24 ≤ k.fa ∨ 24 ≤ k.fb then some .formatUnsupported
    else illegalIf (bloadNkb k = 0 || decide (256 < bloadNkb k) || decide (255 < bloadKb0 k) ||
      decide (clsBlocks k.cls < bloadKb0 k + bloadNkb k))))

/-- bswap (R219). -/
def execBswap (g : Guard) (src : Src) (s : State) : Host.Outcome State Fault Refusal :=
  .next (s.mTrigger g src 0 .bswap (fun _ => none))

/-- accz (R220). -/
def execAccz (g : Guard) (src : Src) (s : State) : Host.Outcome State Fault Refusal :=
  .next (s.mTrigger g src 0 .accz (fun _ => none))

/-- accrel (R220): its test is made at the end of its bundle, as it joins the queue. -/
def execAccrel (g : Guard) (src : Src) (s : State) : Host.Outcome State Fault Refusal :=
  .next (s.mTrigger g src 0 .accrel (fun _ => none))

/-- A half record (R221). -/
def Half.word (h : Half) : W64 := BitVec.ofNat 64 (pack [(0, 3, h.cls), (3, 5, h.fb), (8, 9, h.kbv)])

def Matrix.activeHalf (m : Matrix) : Half := if m.active then m.halves.2 else m.halves.1
def Matrix.idleHalf (m : Matrix) : Half := if m.active then m.halves.1 else m.halves.2

def Matrix.setIdle (m : Matrix) (h : Half) : Matrix :=
  { m with halves := if m.active then (h, m.halves.2) else (m.halves.1, h) }

/-- mstat (R221). -/
def execMstat (g : Guard) (src : Src) (s : State) : Host.Outcome State Fault Refusal :=
  .next (s.trigger .m g src 0 (some 1) (fun tr =>
    let m := s.core.mat
    let v : Option W64 := match fld tr.t.scalar 0 3 with
      | 0 => some m.status
      | 1 => some s.mts
      | 2 => some m.activeHalf.word
      | 3 => some m.idleHalf.word
      | _ => none
    match v with
    | some x => s.deliver tr 1 (.sc x) (more := [.commit])
    | none => s.raiseIn .m { cause := .illegalMove }))

/-! ### The lanes -/

def State.onMat (s : State) (f : Matrix → Matrix) : State := s.upd (fun c => { c with mat := f c.mat })

def Matrix.popCmd (m : Matrix) (k : MCmd) : Matrix := { m with queue := m.queue.filter (fun x => x.seq ≠ k.seq) }

/-- A fault of a command outside a routine: UNIT 8, the bundle of its trigger (R229). -/
def State.mFault (s : State) (k : MCmd) (f : FaultInfo) : State :=
  let mark := fun (auto : Bool) (m : Matrix) =>
    { m with queue := m.queue.map (fun x => if x.seq = k.seq then { x with faulted := true, auto := auto, wait := f.recalls } else x) }
  let r := (s.onMat (mark false)).engineFault { f with unit := 8, bidx := some k.bidx } k.cid k.task
  r.1.onMat (mark r.2)

/-- A wait of fixed length is none: TIMED_STALL in a timed task (R232). -/
def State.mHold (s : State) (k : MCmd) : State := if k.timed then s.mFault k { cause := .timedStall } else s

/-- A command that may run: not faulted, or its recall batch is over (R106). -/
def State.mReady (s : State) (k : MCmd) : Bool :=
  !k.faulted || (k.auto && k.wait.all (fun i => !(s.ctx k.cid).batches.any (fun b => b.2.contains i)))

def MCmd.pinsFor (k : MCmd) : Option (List Nat) := if k.timed then some k.pins else none

/-- Bytes of a segment as a command of the task reads them (R274). -/
def State.mRead (s : State) (k : MCmd) (name : W16) (off n : Nat) : List Byte :=
  let bs := s.segRead k.cid (nameIdx name) off n
  if k.cm then overlay (s.core.journalOf k.cid k.task) (s.jKey k.cid (nameIdx name) off) bs else bs

/-- The segments that a queued command holds. -/
def State.mHolds (s : State) (k : MCmd) (segs : List Nat) : State :=
  s.onMat (fun m => { m with queue := m.queue.map (fun x => if x.seq = k.seq then { x with held := segs } else x) })

/-- Acquires what mload or bload reads and goes on (R121, R123, R315): the INB counts stand while it waits on a tile, and are given
back once, whether the command then completes or faults (R217). -/
def State.mAcquire (s : State) (k : MCmd) (exts : List Ext) (go : State → State) : State :=
  match (if k.held.isEmpty then (s.ctx k.cid).acquire k.pinsFor none true exts else .ok k.held) with
  | .fault f => s.mFault k f
  | .hold => s.mHold k
  | .ok segs =>
    let s := if k.held.isEmpty then (s.holdSet k.cid segs).mHolds k segs else s
    if exts.all (fun x => (s.seg k.cid (nameIdx x.name)).tilesOk x.off x.len false && !s.lockedIn k.cid (nameIdx x.name) x.off x.len) then
      segs.foldl (fun s i => s.dropInb k.cid i) (go (s.mHolds k []))
    else s.mHold k

/-- The decrement that SIG asks for. -/
def State.mSignal (s : State) (k : MCmd) (on : Bool) (ctr : Nat) : State :=
  if on then s.taskSignal 2 k.cid k.task k.cm (s.linIn k.cid / 4) ctr (.dec 1) else s

/-- The head of the compute lane, if it is of a kind and may run. -/
def State.mHead (s : State) (kind : MKind) : Option MCmd :=
  match s.core.mat.computeHead with
  | some k => if k.kind = kind && s.mReady k then some k else none
  | none => none

/-- The words of an mload: bits [95:0] of each 16 B. -/
def mloadWords (bs : List Byte) (n : Nat) : List (BitVec 96) :=
  (List.range n).map (fun i => BitVec.ofNat 96 (natLE ((bs.drop (16 * i)).take 12)))

/-- Checks every word, then writes them (R217). -/
def execMloadComplete (s : State) : Host.Outcome State Fault Refusal :=
  match s.mHead .mload with
  | none => .next s
  | some k =>
    let n := mloadCount k
    .next (s.mAcquire k [⟨epName k.o0, epOff k.o0, 16 * n⟩] (fun s =>
      let ws := mloadWords (s.mRead k (epName k.o0) (epOff k.o0) (16 * n)) n
      match ws.findIdx? (fun w => (decodeMicro w).isNone) with
      | some i => s.mFault k { cause := .illegalMove, info := BitVec.ofNat 64 (mloadFirst k + i) }
      | none =>
        let s := s.onMat (fun m => { (m.popCmd k) with micro := sput 0 m.micro (mloadFirst k) ws })
        s.mSignal k (bit k.word 23) (fld k.word 24 12)))

/-! ### bload (R90, R218) -/

/-- A K-block of one row or column: 16 numbers aligned under their block exponent (R90). -/
def alignBlock (w : Nat) (xs : List Num) : BBlock :=
  if xs.any (fun x => match x with
      | .fin _ _ _ => false
      | _ => true) then { special := true, zero := false }
  else
    match xs.filterMap numExp with
    | [] => {}
    | e :: es =>
      let big := es.foldl max e
      let al := xs.map (fun x => alignNum x big w)
      { zero := false, exp := big, inx := al.any (·.2), q := al.map (·.1) }

/-- The elements of one row of B: N of them, dense. -/
def bRow (fb n : Nat) (bs : List Byte) : List Nat :=
  let v := natLE bs
  (List.range n).map (fun j => nfld v (memBits fb * j) (memBits fb))

def bRowBytes (k : MCmd) : Nat := clsCols k.cls * memBits k.fb / 8

/-- The number an element stands for, under a scale code for an MX format (R76, R78). -/
def elemNum (code scale bits : Nat) : Num := if isMX code then mxNum code scale bits else operandNum code bits

/-- The 64 columns of a K-block from its 16 rows of elements; `codes` are the E8M0 codes of its columns. -/
def bBlocks (k : MCmd) (rows : List (List Nat)) (codes : List Nat) : List BBlock :=
  (List.range 64).map (fun j =>
    if j < clsCols k.cls then alignBlock (clsWidth k.cls) (rows.map (fun r => elemNum k.fb (codes.getD j 0) (r.getD j 0))) else {})

/-- K-blocks whose bytes are given, with the scale codes by pair of K-blocks from the pair of KB0 on. -/
def bloadBlocks (k : MCmd) (bs codes : List Byte) : List BBlock × Flags :=
  let rb := bRowBytes k
  let n := clsCols k.cls
  let each := (List.range (bloadNkb k)).map (fun m =>
    let rows := (List.range 16).map (fun r => bRow k.fb n ((bs.drop ((16 * m + r) * rb)).take rb))
    let pair := (bloadKb0 k + m) / 2 - bloadKb0 k / 2
    let cs := ((codes.drop (n * pair)).take n).map BitVec.toNat
    (bBlocks k rows cs, orFlags (rows.flatMap (fun r => r.map (readFlags k.fb)))))
  (each.flatMap (·.1), orFlags (each.map (·.2)))

/-- The pairs of K-blocks that NKB from KB0 touch. -/
def bloadPairs (k : MCmd) : Nat := (bloadKb0 k + bloadNkb k - 1) / 2 - bloadKb0 k / 2 + 1

/-- The load lane's bload: the half record, then the blocks of the idle half. -/
def execBloadComplete (s : State) : Host.Outcome State Fault Refusal :=
  match s.core.mat.loadHead with
  | none => .next s
  | some k =>
    let h := s.core.mat.idleHalf
    let n := bloadNkb k * 16 * bRowBytes k
    let sc := clsCols k.cls * bloadPairs k
    let exts : List Ext := ⟨epName k.o0, epOff k.o0, n⟩ :: (if isMX k.fb then [⟨epName k.o1, epOff k.o1, sc⟩] else [])
    if !s.mReady k then .next s
    else if bloadKb0 k ≠ 0 ∧ ¬ (h.cls = k.cls ∧ h.fb = k.fb ∧ bloadKb0 k ≤ h.kbv) then .next (s.mFault k { cause := .illegalMove })
    else
      .next (s.mAcquire k exts (fun s =>
        let codes := if isMX k.fb then s.mRead k (epName k.o1) (epOff k.o1) sc else []
        let b := bloadBlocks k (s.mRead k (epName k.o0) (epOff k.o0) n) codes
        let kbv := if bloadKb0 k = 0 then bloadNkb k else max h.kbv (bloadKb0 k + bloadNkb k)
        let half : Half := { cls := k.cls, fb := k.fb, kbv := kbv, cols := sput {} h.cols (64 * bloadKb0 k) b.1 }
        let rounded := flagIf (b.1.any (·.inx)) fINX
        let s := (s.onMat (fun m => (m.popCmd k).setIdle half)).flagsTo k.cid (b.2 ||| rounded)
        s.mSignal k (bit k.word 18) (fld k.word 19 12)))

/-- bswap, once every bload issued before it has completed (R215, R219). -/
def execBswapExecute (s : State) : Host.Outcome State Fault Refusal :=
  match s.mHead .bswap with
  | none => .next s
  | some k =>
    if s.core.mat.queue.any (fun x => x.load && decide (x.seq < k.seq)) then .next s
    else .next (s.onMat (fun m => { (m.popCmd k) with active := !m.active }))

def Matrix.tagZero (m : Matrix) (mask : Nat) : Matrix := { m with zeroTag := m.zeroTag ||| BitVec.ofNat 8 mask }

def execAcczExecute (s : State) : Host.Outcome State Fault Refusal :=
  match s.mHead .accz with
  | none => .next s
  | some k => .next (s.onMat (fun m => (m.popCmd k).tagZero (fld k.word 0 8)))

def execAccrelExecute (s : State) : Host.Outcome State Fault Refusal :=
  match s.mHead .accrel with
  | none => .next s
  | some k => .next (s.onMat (fun m => if k.marked then m.popCmd k else (m.popCmd k).tagZero (fld k.word 0 8)))

/-! ### Dispatch of a call (R222) -/

/-- The names that a call acquires, by m register. -/
def MCmd.segNames (k : MCmd) : List W64 :=
  ((List.range 8).filter (fun j => nfld (fld k.word 12 8) j 1 = 1)).map (fun j => k.wps.getD j 0)

/-- The ranges to pre-check: segment, first offset, end. -/
def MCmd.preRanges (k : MCmd) (size : Nat → Nat) : List (Nat × Nat × Nat) :=
  ((List.range 8).filter (fun j => nfld (fld k.word 20 8) j 1 = 1)).map (fun j =>
    let w := k.wps.getD j 0
    let idx := nameIdx (epName w)
    (idx, epOff w, max (epOff w) (min (size idx * 64) (epOff w + 65536))))

def execCallDispatch (s : State) : Host.Outcome State Fault Refusal :=
  match s.mHead .call with
  | none => .next s
  | some k =>
    match (s.ctx k.cid).acquire k.pinsFor none true (k.segNames.map (fun w => ⟨epName w, epOff w, 0⟩)) with
    | .fault f => .next (s.mFault k f)
    | .hold => .next (s.mHold k)
    | .ok segs =>
      let r : Routine := { call := k, mpc := fld k.word 0 11, wp := k.wps, held := segs, gen1 := s.core.stream 1,
                           ranges := k.preRanges (fun i => (s.seg k.cid i).size) }
      if r.tiles.all (fun p => let t := (s.seg k.cid p.1).tile p.2
                               t.st = .ready || t.st = .empty) then
        let s := s.holdSet k.cid segs
        let s := s.setTiles k.cid r.tiles { st := .filling, unit := 8, core := s.linIn k.cid }
        .next (s.onMat (fun m => { (m.popCmd k) with routine := some r }))
      else .next (s.mHold k)

/-! ### The micro-sequencer (R223 to R225, R229) -/

def State.setRoutine (s : State) (r : Routine) : State := s.onMat (fun m => { m with routine := some r })

/-- A fault of the routine: it will restart from ENTRY; the tiles stay FILLING and the counts held (R229). INFO[10:0] is the micro-PC,
over what the cause puts there (R131; log 13). -/
def State.routineFault (s : State) (r : Routine) (f : FaultInfo) : State :=
  let s := s.setRoutine { r with faulted := true, restart := true }
  (s.engineFault { f with unit := 8, bidx := some r.call.bidx, info := (f.info &&& ~~~2047#64) ||| BitVec.ofNat 64 (r.mpc % 2048), resume := BitVec.ofNat 64 r.done }
    r.call.cid r.call.task).1

/-- What a micro-op did: it goes on, with a jump or not; it waits; it faults; it has ended the routine. -/
inductive MRes where
  | go (s : State) (r : Routine) (jump : Option Nat)
  | wait
  | fault (f : FaultInfo)
  | ended (s : State)

def Routine.loop (r : Routine) (l : Nat) : MicroLoop := (alook r.loops l).getD {}

/-- The innermost armed level: the highest-numbered one (log 13). -/
def Routine.innermost (r : Routine) : Option MicroLoop :=
  if (r.loop 3).armed then some (r.loop 3) else if (r.loop 2).armed then some (r.loop 2)
  else if (r.loop 1).armed then some (r.loop 1) else none

/-- COND (R223, R224). -/
def Routine.cond (r : Routine) (c : Nat) : Bool :=
  c = 0 || (match r.innermost with
    | none => false
    | some l =>
      match c with
      | 1 => l.idx = 0
      | 2 => l.idx ≠ 0
      | 3 => l.idx + 1 = l.trips
      | _ => l.idx + 1 ≠ l.trips)

/-- The routine after its word at the micro-PC, which led to `next`: the close of CL (R224). -/
def State.microAdvance (s : State) (r : Routine) (cl next : Nat) : State :=
  let goTo := fun (r : Routine) (pc : Nat) =>
    if 2047 < pc then s.routineFault r { cause := .illegalMove } else s.setRoutine { r with mpc := pc }
  if cl = 0 then goTo r next
  else
    let l := r.loop cl
    if !l.armed then s.routineFault r { cause := .illegalMove }
    else if l.idx + 1 < l.trips then goTo { r with loops := aput r.loops cl { l with idx := l.idx + 1 } } l.body
    else goTo { r with loops := aput r.loops cl { l with idx := 0, armed := false } } next

/-- Whether a micro-op is skippable (R229). -/
def skippable (w : MicroWord) : Bool :=
  [3, 4, 5, 12].contains w.op || (w.op = 11 && nfld w.imm 12 1 = 1)

/-- The running routine whose word at the micro-PC is this micro-op. -/
def Matrix.microAt (m : Matrix) (w : MicroWord) : Option Routine :=
  match m.routine with
  | some r => if !r.faulted && !r.restart && decodeMicro (sget 0 m.micro r.mpc) = some w then some r else none
  | none => none

/-- One micro-op: its COND, the skips of a replay, its own effect, and where the routine goes. -/
def State.micro (s : State) (w : MicroWord) (body : State → Routine → MRes) : State :=
  match s.core.mat.microAt w with
  | none => s
  | some r =>
    if !r.cond w.cond then s.microAdvance r w.cl (r.mpc + 1)
    else if skippable w && decide (0 < r.skip) then s.microAdvance { r with skip := r.skip - 1 } w.cl (r.mpc + 1)
    else
      match body s r with
      | .go s r jump => s.microAdvance (if skippable w then { r with done := r.done + 1 } else r) w.cl (jump.getD (r.mpc + 1))
      | .wait => s
      | .fault f => s.routineFault r f
      | .ended s => s

/-- A wait on a tile (R232). -/
def Routine.tileWait (r : Routine) : MRes := if r.call.timed then .fault { cause := .timedStall } else .wait

/-- A micro-op that only changes the routine. -/
def State.microPure (s : State) (w : MicroWord) (f : Routine → Routine) : State := s.micro w (fun s r => .go s (f r) none)

def Routine.wpOf (r : Routine) (i : Nat) : W64 := r.wp.getD i 0

/-- The address a micro-op names through a working register: its segment has to be a member of the set (R222). -/
def Routine.member (r : Routine) (w : W64) : Bool := r.call.segNames.any (fun x => epName x = epName w)

/-- SEG_BOUNDS of a micro-op at an address (R131). -/
def State.microBounds (s : State) (r : Routine) (w : W64) : FaultInfo :=
  { cause := .segBounds, info := BitVec.ofNat 64 ((s.seg r.call.cid (nameIdx (epName w))).size * 64 % 2 ^ 32),
    wher := segWhere (epName w) (epOff w) }

/-- A read of `rows` rows of n bytes at a pitch by a micro-op: the tiles that the rows cover are checked, but for those the routine
writes itself (R123, R222, R225), and so are the locks of tile commands, which hold every access of the M slot that starts after their
issue (R315; each micro-op starts its own: log 13). -/
def State.microRead (s : State) (r : Routine) (w : W64) (rows pitch n : Nat) (k : List (List Byte) → MRes) : MRes :=
  let idx := nameIdx (epName w)
  let g := s.seg r.call.cid idx
  let at_ := (List.range rows).map (fun i => epOff w + i * pitch)
  if !r.member w then .fault { cause := .segUndeclared, wher := segWhere (epName w) (epOff w) }
  else if g.size * 64 < epOff w + (rows - 1) * pitch + n then .fault (s.microBounds r w)
  else if at_.all (fun o => (tileSpan o n).all (fun t => r.tiles.contains (idx, t) ||
      ((g.tile t).slotOk false && !s.tileHeld r.call.cid idx t))) then
    k (at_.map (fun o => s.mRead r.call (epName w) o n))
  else r.tileWait

def illegalMicro : MRes := .fault { cause := .illegalMove }

def execMicroNop (cond cl : Nat) (s : State) : Host.Outcome State Fault Refusal :=
  .next (s.microPure ⟨0, 0, 0, 0, cond, cl⟩ id)

def Matrix.slot (m : Matrix) (i : Nat) : SlotSt := m.slots.getD i .empty

/-- Lays 64 B into slot `slot` of every row. -/
def Matrix.fillSlot (m : Matrix) (slot : Nat) (rows : List (List Byte)) : Matrix :=
  { m with slots := lset m.slots slot .filling,
           rows := rows.zipIdx.foldl (fun acc p => sput 0 acc (256 * p.2 + 64 * slot) p.1) m.rows }

/-- Lays the scale codes of a slot. -/
def Matrix.fillScales (m : Matrix) (slot : Nat) (rows : List (List Byte)) : Matrix :=
  { m with scales := rows.zipIdx.foldl (fun acc p => sput 0 acc (16 * (256 * slot + p.2)) p.1) m.scales }

/-- aget (R211, R225). -/
def execAget (f1 f2 imm cond cl : Nat) (s : State) : Host.Outcome State Fault Refusal :=
  .next (s.micro ⟨1, f1, f2, imm, cond, cl⟩ (fun s r =>
    let pitch := if imm % 65536 = 0 then 64 else imm % 65536
    let scales := nfld imm 23 1 = 1
    let n := if scales then 512 / fieldBits r.call.fa / 32 else 64
    if s.core.mat.slot f2 = .filling then illegalMicro
    else
      s.microRead r (r.wpOf f1) 256 pitch n (fun rows =>
        .go (s.onMat (fun m => if scales then m.fillScales f2 rows else m.fillSlot f2 rows)) r none)))

/-- The 38 cycles of a slot are over (R225). -/
def execAgetFillDone (slot : Nat) (s : State) : Host.Outcome State Fault Refusal :=
  if s.core.mat.slot slot = .filling then .next (s.onMat (fun m => { m with slots := lset m.slots slot .full })) else .next s

/-- waitt: its own wait is of fixed length (R232). -/
def execWaitt (imm cond cl : Nat) (s : State) : Host.Outcome State Fault Refusal :=
  .next (s.micro ⟨2, 0, 0, imm, cond, cl⟩ (fun s r =>
    let named := (List.range 4).filter (fun i => nfld imm i 1 = 1)
    if named.any (fun i => s.core.mat.slot i = .empty) then illegalMicro
    else if named.all (fun i => s.core.mat.slot i = .full) then .go s r none
    else .wait))

/-! ### Streams (R91, R226) -/

/-- The elements of an accumulator row: N of one word, or of two for FP64 (R212). -/
def accElems (wide : Bool) (n : Nat) (row : List W32) : List Nat :=
  (List.range n).map (fun j =>
    if wide then (row.getD (2 * j) 0).toNat + 2 ^ 32 * (row.getD (2 * j + 1) 0).toNat else (row.getD j 0).toNat)

/-- A row with new elements; words beyond them stand. -/
def accRow (wide : Bool) (row : List W32) (es : List Nat) : List W32 :=
  let ws : List W32 := if wide then es.flatMap (fun e => [BitVec.ofNat 32 e, BitVec.ofNat 32 (e / 2 ^ 32)]) else es.map (BitVec.ofNat 32)
  ws ++ row.drop ws.length

/-- An accumulator as 256 rows of 64 words; a tagged one reads as zeros (R212). -/
def Matrix.accRows (m : Matrix) (a : Nat) : List (List W32) :=
  let ws : List W32 := if bit m.zeroTag a then [] else sdense 0 m.accs (16384 * a) 16384
  (List.range 256).map (fun i => if ws.isEmpty then List.replicate 64 0 else (ws.drop (64 * i)).take 64)

/-- Writes an accumulator and clears its tag. -/
def Matrix.setAcc (m : Matrix) (a : Nat) (rows : List (List W32)) : Matrix :=
  { m with accs := sput 0 m.accs (16384 * a) rows.flatten, zeroTag := m.zeroTag &&& ~~~(1#8 <<< a) }

/-- One K-block of R91 on one element. The alignment of A rounds here; that of B rounded at its bload, which set INX (R218). -/
def accStep (k : MCmd) (acc : Nat) (a b : BBlock) : Nat × Flags :=
  if a.special || b.special then (k.fcp.nan, fIBLK)
  else if a.zero || b.zero then (acc, 0)
  else
    let sum := (List.zipWith (· * ·) a.q b.q).foldl (· + ·) (0 : Int)
    let e := a.exp + b.exp - 2 * ((clsWidth k.cls : Int) - 2)
    let inx := flagIf a.inx fINX
    if k.ip then
      let t := toSigned 32 acc + sum / (pow2 e).2
      let v := max (-(2 ^ 31 : Int)) (min t (2 ^ 31 - 1))
      (ofInt 32 v, inx ||| flagIf (v ≠ t) fISAT)
    else
      let p := roundFP k.fcp .rne false (scale2 (decide (sum < 0)) sum.natAbs 1 e)
      let r := faddE k.fcp .rne acc p.1
      (r.1, inx ||| p.2 ||| r.2)

/-- The K-blocks of a stream on one element, in ascending order. -/
def accSteps (k : MCmd) (acc : Nat) (as bs : List BBlock) : Nat × Flags :=
  (as.zip bs).foldl (fun acc p =>
    let r := accStep k acc.1 p.1 p.2
    (r.1, acc.2 ||| r.2)) (acc, 0)

/-- The 16 elements of K-block b of a row of 256 B. -/
def aElems (fa b : Nat) (row : List Byte) : List Nat :=
  let v := natLE ((row.drop (2 * b * fieldBits fa)).take (2 * fieldBits fa))
  (List.range 16).map (fun i => nfld v (fieldBits fa * i) (fieldBits fa))

/-- The slots that K-block b of the row buffer spans. -/
def blockSlots (fa b : Nat) : List Nat :=
  (List.range 4).filter (fun s => decide (2 * b * fieldBits fa < 64 * s + 64) && decide (64 * s < 2 * (b + 1) * fieldBits fa))

/-- The scale code of K-block b of row i (R211). -/
def Matrix.aScale (m : Matrix) (fa b i : Nat) : Nat :=
  let per := 512 / fieldBits fa
  (sget 0 m.scales (16 * (256 * (16 * b / per) + i) + 16 * b % per / 32)).toNat

/-- The stream's new accumulator and the flags it gathers. -/
def Matrix.streamed (m : Matrix) (k : MCmd) (acc first kb nkb : Nat) (zf : Bool) : List (List W32) × Flags :=
  let cls := k.cls
  let n := clsCols cls
  let wide := cls = 4
  let h := m.activeHalf
  let blocks := (List.range nkb).map (fun i => (first + i) % rowCapacity k.fa)
  let cols := (List.range n).map (fun j => (List.range nkb).map (fun i => sget {} h.cols (64 * (kb + i) + j)))
  let old : List (List W32) := if zf then List.replicate 256 (List.replicate 64 0) else m.accRows acc
  let bytes := sdense 0 m.rows 0 65536
  let out := old.zipIdx.map (fun p =>
    let row := (bytes.drop (256 * p.2)).take 256
    let els := blocks.map (fun b => (b, aElems k.fa b row))
    let as := els.map (fun e => alignBlock (clsWidth cls) (e.2.map (elemNum k.fa (if isMX k.fa then m.aScale k.fa e.1 p.2 else 0))))
    let tbad := orFlags (els.flatMap (fun e => e.2.map (readFlags k.fa)))
    let es := List.zipWith (fun x bs => accSteps k x as bs) (accElems wide n p.1) cols
    (accRow wide p.1 (es.map (·.1)), tbad ||| orFlags (es.map (·.2))))
  (out.map (·.1), orFlags (out.map (·.2)))

/-- Whether a booking of a resource of the task covers the present quantum; the ramp-down quanta after its window are none (R280,
R281). -/
def State.booked (s : State) (cid id res : Nat) : Bool :=
  match s.taskOn s.cur cid id with
  | some t => t.book.any (fun b => b.res = res && !b.ramp && decide (b.lo ≤ s.qc) && decide (s.qc ≤ b.hi))
  | none => false

/-- Array cycles of a K-block, by class (R213). -/
def clsCycles (cls : Nat) : Nat := [2, 8, 32, 64].getD cls 196

/-- Active macros when a stream has done its work, in eighths of a full-array cycle: every 16 cycles do a × (8 − k) / 8 of them with a
macros active at throttle step k, and 2 more turn on (R230, R231). -/
def rampUp (k : Nat) : Nat → Nat → Nat → Nat
  | 0, a, _ => a
  | n + 1, a, w => if 16 ≤ a then 16 else if w ≤ a * (8 - k) then a else rampUp k n (a + 2) (w - a * (8 - k))

/-- stream at its last cycle (R226); the array is warm from then on. One that found it cold or ramping down has turned macros on by its
last cycle, and every quantum after turns on 2 more until all 16 are active (R230, `Matrix.rampOn`). -/
def execStream (f1 f2 imm cond cl : Nat) (s : State) : Host.Outcome State Fault Refusal :=
  .next (s.micro ⟨3, f1, f2, imm, cond, cl⟩ (fun s r =>
    let m := s.core.mat
    let k := r.call
    let kb := nfld imm 0 9
    let nkb := nfld imm 9 9
    let h := m.activeHalf
    if h.cls ≠ k.cls ∨ h.fb ≠ k.fb then .fault { cause := .formatUnsupported }
    else if rowCapacity k.fa ≤ f2 ∨ h.kbv < kb + nkb then illegalMicro
    else if (List.range nkb).any (fun i => (blockSlots k.fa ((f2 + i) % rowCapacity k.fa)).any (fun x => m.slot x ≠ .full)) then illegalMicro
    else if k.timed ∧ ¬ s.booked k.cid k.task 1 then .fault { cause := .timedStall }
    else
      let t := m.streamed k f1 f2 kb nkb (nfld imm 18 1 = 1)
      let macros := if m.warm then m.macros else rampUp s.throttle.step 8 (min 16 (m.macros + 2)) (8 * nkb * clsCycles k.cls)
      .go (s.onMat (fun m => { (m.setAcc f1 t.1) with warm := true, macros := macros })) { r with flags := r.flags ||| t.2 } none))

/-! ### Accumulator loads (R225) -/

/-- Bytes of a row of FC elements. -/
def fcRowBytes (k : MCmd) : Nat := if k.cls = 4 then 256 else 4 * clsCols k.cls

def fcElems (k : MCmd) (row : List Byte) : List Nat :=
  let w := if k.cls = 4 then 8 else 4
  (List.range (clsCols k.cls)).map (fun j => natLE ((row.drop (w * j)).take w))

/-- One element of accadd: rounded RNE, or a saturating INT32 sum (R81, R225). -/
def accAdd (k : MCmd) (acc x : Nat) : Nat × Flags :=
  if k.ip then
    let t := toSigned 32 acc + toSigned 32 x
    let v := max (-(2 ^ 31 : Int)) (min t (2 ^ 31 - 1))
    (ofInt 32 v, flagIf (v ≠ t) fISAT)
  else faddE k.fcp .rne acc x

/-- accw and accadd: every row of the accumulator from rows at a pitch. -/
def State.accLoad (s : State) (w : MicroWord) (f : MCmd → Nat → Nat → Nat × Flags) : State :=
  s.micro w (fun s r =>
    let k := r.call
    let n := fcRowBytes k
    let pitch := if w.imm = 0 then n else w.imm
    s.microRead r (r.wpOf w.f1) 256 pitch n (fun src =>
      let rows := List.zipWith (fun (old : List W32) (row : List Byte) =>
        let es := List.zipWith (f k) (accElems (k.cls = 4) (clsCols k.cls) old) (fcElems k row)
        (accRow (k.cls = 4) old (es.map (·.1)), orFlags (es.map (·.2)))) (s.core.mat.accRows w.f2) src
      .go (s.onMat (fun m => m.setAcc w.f2 (rows.map (·.1)))) { r with flags := r.flags ||| orFlags (rows.map (·.2)) } none))

def execAccw (f1 f2 imm cond cl : Nat) (s : State) : Host.Outcome State Fault Refusal :=
  .next (s.accLoad ⟨4, f1, f2, imm, cond, cl⟩ (fun _ _ x => (x, 0)))

def execAccadd (f1 f2 imm cond cl : Nat) (s : State) : Host.Outcome State Fault Refusal :=
  .next (s.accLoad ⟨5, f1, f2, imm, cond, cl⟩ accAdd)

/-! ### The epilogue (R227) -/

/-- Sets the scale or the bias stage: its vector is read as the op runs. -/
def State.stageOp (s : State) (w : MicroWord) (set : Epilogue → Nat → List W64 → Epilogue) : State :=
  s.micro w (fun s r =>
    let go := fun (vs : List W64) => MRes.go s { r with epi := set r.epi w.f2 vs } none
    match w.f2 with
    | 0 => go []
    | 1 => go [BitVec.ofNat 64 (fld (r.wpOf w.f1) 0 32)]
    | mode =>
      let n := if mode = 2 then clsCols r.call.cls else 256
      s.microRead r (r.wpOf w.f1) 1 0 (4 * n) (fun rows =>
        let bs := rows.flatten
        go ((List.range n).map (fun i => BitVec.ofNat 64 (natLE ((bs.drop (4 * i)).take 4))))))

def execEscale (f1 f2 cond cl : Nat) (s : State) : Host.Outcome State Fault Refusal :=
  .next (s.stageOp ⟨6, f1, f2, 0, cond, cl⟩ (fun e mode vs => { e with scaleMode := mode, scale := vs }))

def execEbias (f1 f2 cond cl : Nat) (s : State) : Host.Outcome State Fault Refusal :=
  .next (s.stageOp ⟨7, f1, f2, 0, cond, cl⟩ (fun e mode vs => { e with biasMode := mode, bias := vs }))

def execEact (imm cond cl : Nat) (s : State) : Host.Outcome State Fault Refusal :=
  .next (s.microPure ⟨8, 0, 0, imm, cond, cl⟩ (fun r => { r with epi := { r.epi with act := nfld imm 0 2, shift := nfld imm 2 5 } }))

/-- eqnt: mode 1 needs the float path and an MX output format, and names the segment of the codes (R222). -/
def execEqnt (f1 imm cond cl : Nat) (s : State) : Host.Outcome State Fault Refusal :=
  .next (s.micro ⟨9, f1, 0, imm, cond, cl⟩ (fun s r =>
    let w := r.wpOf f1
    if imm = 1 ∧ (r.call.ip ∨ ¬ isMX r.call.fo) then illegalMicro
    else if imm = 1 ∧ ¬ r.member w then .fault { cause := .segUndeclared, wher := segWhere (epName w) (epOff w) }
    else .go s { r with epi := { r.epi with mode := imm, codes := r.wpOf f1 } } none))

/-- An element on its way through the epilogue: an INT32, or the bits of an FC'. -/
inductive EVal where
  | int (v : Int)
  | flt (x : Nat)
deriving DecidableEq, Repr

/-- The value of a stage for row i and column j. -/
def pickOf (mode : Nat) (vs : List W64) (i j : Nat) : Nat :=
  (vs.getD (match mode with
    | 1 => 0
    | 2 => j
    | _ => i) 0).toNat

/-- Rounds the result of an exact operation into FC' (RNE). -/
def roundOp (p : FP) (r : Num × Bool) : Nat × Flags :=
  let b := roundFP p .rne false r.1
  (b.1, b.2 ||| flagIf r.2 fINV)

/-- The activations on FC' bits. -/
def actFlt (p : FP) (act shift x : Nat) : Nat × Flags :=
  let v := decodeFP p x
  if v.isNaN then (x, 0)
  else
    let six := roundFP p .rne false (.fin false 6 1)
    match act with
    | 1 => (if v.isNeg || v.isZero then 0 else x, 0)
    | 2 => (if v.isNeg || v.isZero then 0 else if Num.lt (.fin false 6 1) v then six.1 else x, 0)
    | 3 => if v.isNeg && !v.isZero then roundFP p .rne false (scaleNum v (-(shift : Int))) else (x, 0)
    | _ => (x, 0)

/-- The activations on integers. -/
def actInt (act shift : Nat) (v : Int) : Int :=
  match act with
  | 1 => max v 0
  | 2 => min (max v 0) 6
  | 3 => if v < 0 then -((roundAt .rne true v.natAbs (2 ^ shift) 0).1 : Int) else v
  | _ => v

/-- Scale, bias and activation of element (i, j). -/
def epiElem (k : MCmd) (e : Epilogue) (i j : Nat) (bits : Nat) : EVal × Flags :=
  let p := k.fcp
  if k.ip && e.scaleMode = 0 && e.biasMode = 0 then (.int (actInt e.act e.shift (toSigned 32 bits)), 0)
  else
    let x0 : Nat × Flags := if k.ip then roundFP fp32 .rne false (numOfInt (toSigned 32 bits)) else (bits, 0)
    let x1 : Nat × Flags := if e.scaleMode = 0 then (x0.1, 0)
      else roundOp p (Num.mul (decodeFP p x0.1) (decodeFP fp32 (pickOf e.scaleMode e.scale i j)))
    let x2 : Nat × Flags := if e.biasMode = 0 then (x1.1, 0)
      else roundOp p (Num.add .rne (decodeFP p x1.1) (decodeFP fp32 (pickOf e.biasMode e.bias i j)))
    let x3 := actFlt p e.act e.shift x2.1
    (.flt x3.1, x0.2 ||| x1.2 ||| x2.2 ||| x3.2)

/-- RM of the conversion of one element, drawing from stream 1 under STOCH (R81 to R83). -/
def epiRm (k : MCmd) (gen : W64) : RM × W64 :=
  if k.rm = 4 ∧ k.fo ≠ 15 ∧ k.fo ≠ 16 then
    let g := drawStep gen
    (.stoch (drawOf g), g)
  else (rmOf k.rm, gen)

/-- Mode 0: into FO with SAT; an INT32 into an integer format is cut or clamped (R84). -/
def epiConvert (k : MCmd) (rm : RM) (x : EVal) : Nat × Flags :=
  match x, fmtOf k.fo with
  | .int v, some (.int s w) => convInt s w k.sat v
  | .int v, _ => roundNum k.fo rm k.sat (numOfInt v)
  | .flt b, _ => roundNum k.fo rm k.sat (decodeFP k.fcp b)

/-- What a row of the epilogue gives: output fields, scale codes, flags, the generator. -/
structure EpiRow where
  out   : List Nat
  codes : List Nat
  flags : Flags
  gen   : W64

/-- Row i under mode 0. -/
def epiRow0 (k : MCmd) (xs : List (EVal × Flags)) (gen : W64) : EpiRow :=
  xs.foldl (fun (acc : EpiRow) x =>
    let d := epiRm k acc.gen
    let o := epiConvert k d.1 x.1
    { acc with out := acc.out ++ [o.1], flags := acc.flags ||| x.2 ||| o.2, gen := d.2 }) ⟨[], [], 0, gen⟩

def EVal.num (k : MCmd) : EVal → Num
  | .int v => numOfInt v
  | .flt b => decodeFP k.fcp b

/-- One block of 32 columns under mode 1: its code by R79, its elements by R80. The code of an FP64 source beyond 2^127 × emax is
not stated: `open_` stands for it (log 5). -/
def epiBlock (k : MCmd) (open_ : Nat) (xs : List Num) (acc : EpiRow) : EpiRow :=
  let sc := mxScale k.fo k.scp (rmOf k.rm) (xs.foldl amaxNum (.fin false 0 1))
  let code := if 255 < sc.1 ∨ (sc.1 = 255 ∧ xs.all (fun x => match x with
    | .fin _ _ _ => true
    | _ => false)) then open_ % 256 else sc.1
  let zero := sc.2 &&& fZBLK ≠ 0
  xs.foldl (fun (acc : EpiRow) x =>
    let d := epiRm k acc.gen
    let q := if zero then (0, 0) else mxQuant k.fo d.1 code x
    { acc with out := acc.out ++ [q.1], flags := acc.flags ||| q.2, gen := d.2 })
    { acc with codes := acc.codes ++ [code], flags := acc.flags ||| sc.2 }

def epiRow1 (k : MCmd) (open_ : Nat → Nat) (xs : List (EVal × Flags)) (gen : W64) : EpiRow :=
  let a : EpiRow := ⟨[], [], orFlags (xs.map (·.2)), gen⟩
  (List.range (clsCols k.cls / 32)).foldl (fun acc b =>
    epiBlock k (open_ b) (((xs.drop (32 * b)).take 32).map (fun x => x.1.num k)) acc) a

/-- Packs fields of w bits, low end first, into n bytes. -/
def fieldBytes (w n : Nat) (fs : List Nat) : List Byte := bytesLE n (fs.foldr (fun f acc => f % 2 ^ w + 2 ^ w * acc) 0)

/-- Whether every byte from lo to hi − 1 of a segment lies in a pre-checked range. -/
def coveredGo (ranges : List (Nat × Nat × Nat)) (seg hi : Nat) : Nat → Nat → Bool
  | 0, lo => decide (hi ≤ lo)
  | n + 1, lo =>
    decide (hi ≤ lo) || (match ranges.find? (fun x => x.1 = seg && decide (x.2.1 ≤ lo) && decide (lo < x.2.2)) with
      | some x => coveredGo ranges seg hi n x.2.2
      | none => false)

def Routine.covers (r : Routine) (w : W64) (off n : Nat) : Bool :=
  coveredGo r.ranges (nameIdx (epName w)) (epOff w + off + n) (r.ranges.length + 1) (epOff w + off)

/-- Writes rows of a routine at an address word, each `pitch` after the one before; false when the journal is full (R274). -/
def State.microWrite (s : State) (k : MCmd) (w : W64) (pitch : Nat) (rows : List (List Byte)) : State × Bool :=
  let idx := nameIdx (epName w)
  if k.cm then
    let j := rows.zipIdx.foldl (fun j p => putBytes j (s.jKey k.cid idx (epOff w + p.2 * pitch)) p.1) (s.core.journalOf k.cid k.task)
    if s.shareOf k.cid < (s.withComing k.cid k.task j).length then (s, false) else (s.upd (fun c => c.setJournal k.cid k.task j), true)
  else (rows.zipIdx.foldl (fun s p => s.segWrite k.cid idx (epOff w + p.2 * pitch) p.1) s, true)

/-- estore (R227): rows ascending, columns ascending within a row. -/
def execEstore (f1 f2 imm cond cl : Nat) (s : State) : Host.Outcome State Fault Refusal :=
  .next (s.micro ⟨10, f1, f2, imm, cond, cl⟩ (fun s r =>
    let k := r.call
    let w := r.wpOf f1
    let n := clsCols k.cls
    let fw := fieldBits k.fo
    let rb := n * fw / 8
    let pitch := if imm = 0 then rb else imm
    let e := r.epi
    let cb := n / 32
    let outside := fun (w : W64) => MRes.fault { cause := .segUndeclared, wher := segWhere (epName w) (epOff w) }
    if !r.member w then outside w
    else if e.mode = 1 && !r.member e.codes then outside e.codes
    else if pitch < rb then illegalMicro
    else if !(List.range 256).all (fun i => r.covers w (i * pitch) rb) then .fault (s.microBounds r w)
    else if e.mode = 1 && !r.covers e.codes 0 (256 * cb) then .fault (s.microBounds r e.codes)
    else
      let rows := (s.core.mat.accRows f2).zipIdx.foldl (fun (acc : List EpiRow × W64) p =>
        let xs := (accElems (k.cls = 4) n p.1).zipIdx.map (fun q => epiElem k e p.2 q.2 q.1)
        let o := if e.mode = 1 then
            epiRow1 k (fun b => (Config.freeWord (s.fresh + cb * p.2 + b)).toNat) xs acc.2
          else epiRow0 k xs acc.2
        (acc.1 ++ [o], o.gen)) ([], s.core.stream 1)
      let t := s.microWrite k w pitch (rows.1.map (fun o => fieldBytes fw rb o.out))
      let t2 := if e.mode = 1 then t.1.microWrite k e.codes cb (rows.1.map (fun o => o.codes.map (BitVec.ofNat 8))) else t
      if !t.2 || !t2.2 then .fault { cause := .segQuota, info := 1#64 <<< 63 }
      else
        .go { t2.1 with core := t2.1.core.setStream 1 rows.2, fresh := if e.mode = 1 then s.fresh + 256 * cb else s.fresh }
          { r with flags := r.flags ||| orFlags (rows.1.map (·.flags)) } none))

/-! ### Control of a routine (R224, R225, R228) -/

/-- sig: at once, or at commit. -/
def execSig (imm cond cl : Nat) (s : State) : Host.Outcome State Fault Refusal :=
  .next (s.micro ⟨11, 0, 0, imm, cond, cl⟩ (fun s r =>
    if nfld imm 12 1 = 1 then .go (s.mSignal r.call true (imm % 4096)) r none
    else .go s { r with sigs := r.sigs ++ [imm % 4096] } none))

/-- bflip: the load lane has to be empty; behind a bload of the same task the wait is of fixed length (R232). -/
def execBflip (cond cl : Nat) (s : State) : Host.Outcome State Fault Refusal :=
  .next (s.micro ⟨12, 0, 0, 0, cond, cl⟩ (fun s r =>
    if s.core.mat.loadHead.isSome then .wait else .go (s.onMat (fun m => { m with active := !m.active })) r none))

def execMloop (f1 imm cond cl : Nat) (s : State) : Host.Outcome State Fault Refusal :=
  .next (s.microPure ⟨13, f1, 0, imm, cond, cl⟩ (fun r =>
    { r with loops := aput r.loops f1 { armed := true, body := r.mpc + 1, trips := imm, idx := 0 } }))

def execMjmp (imm cond cl : Nat) (s : State) : Host.Outcome State Fault Refusal :=
  .next (s.micro ⟨14, 0, 0, imm, cond, cl⟩ (fun s r => .go s r (some imm)))

/-- mparm: wp[F2] plus the immediate in offset units. -/
def execMparm (f1 f2 imm cond cl : Nat) (s : State) : Host.Outcome State Fault Refusal :=
  .next (s.microPure ⟨15, f1, f2, imm, cond, cl⟩ (fun r =>
    { r with wp := lset r.wp f1 (r.wpOf f2 + BitVec.ofInt 64 (toSigned 24 imm * 65536)) }))

/-- The commit of a routine (R228). -/
def State.commitRoutine (s : State) (r : Routine) : State :=
  let k := r.call
  let s := s.setTiles k.cid r.tiles {}
  let rel := (s.core.mat.relPend.filter (fun p => p.2 = k.seq)).foldl (fun m p => m ||| 2 ^ p.1) 0
  let s := s.onMat (fun m =>
    { (m.tagZero rel) with relPend := m.relPend.filter (fun p => p.2 ≠ k.seq), routine := none,
                           lastCall := if m.lastCall = some k.seq then none else m.lastCall })
  let s := r.sigs.foldl (fun s n => s.mSignal k true n) s
  let s := r.held.foldl (fun s i => s.dropInb k.cid i) s
  s.flagsTo k.cid r.flags

def execMend (cond cl : Nat) (s : State) : Host.Outcome State Fault Refusal :=
  .next (s.micro ⟨16, 0, 0, 0, cond, cl⟩ (fun s r => .ended (s.commitRoutine r)))

/-! ### Restart and ramp (R229, R230) -/

/-- A resumed routine starts again from ENTRY. -/
def execRoutineRestart (s : State) : Host.Outcome State Fault Refusal :=
  match s.core.mat.routine with
  | some r =>
    if r.restart && !r.faulted then
      let r' : Routine := { r with mpc := fld r.call.word 0 11, wp := r.call.wps, loops := [], epi := {}, sigs := [], skip := r.done,
                                   restart := false }
      .next ((s.setRoutine r').upd (fun c =>
        { (c.setStream 1 r.gen1) with mat := { c.mat with routine := some r', slots := List.replicate 4 .empty } }))
    else .next s
  | none => .next s

/-- 16 cycles of the ramp-down pass: 2 macros turn off. -/
def execRampDownStep (s : State) : Host.Outcome State Fault Refusal :=
  .next (if s.core.mat.warm then s else s.onMat (fun m => { m with macros := m.macros - 2 }))

end Sys2Proof.Machine
end

