-- ==== Sys2Proof/Machine/Scalar.lean ====
section
/-! DEFINITION. The S slot (08_scalar_control): integer operations, compares, segment access, atomics, control, the nest
sequencer, spill, system and queue operations, segment operations (R146 to R172, R124 to R126, R130). -/

namespace Sys2Proof.Machine

/-! ### Shared shapes -/

/-- A one-operand operation that delivers (R146). -/
def State.scalar1 (s : State) (g : Guard) (src : Src) (lat : Nat) (f : W64 → W64) : State :=
  s.trigger .s g src 0 (some lat) (fun tr => s.deliver tr lat (.sc (f tr.t.scalar)))

/-- A two-operand operation: o0 and the trigger. -/
def State.scalar2 (s : State) (g : Guard) (src : Src) (lat : Nat) (f : W64 → W64 → W64) : State :=
  s.trigger .s g src 1 (some lat) (fun tr => s.deliver tr lat (.sc (f tr.a.scalar tr.t.scalar)))

/-- A three-operand operation: o0, o1 and the trigger. -/
def State.scalar3 (s : State) (g : Guard) (src : Src) (lat : Nat) (f : W64 → W64 → W64 → W64) : State :=
  s.trigger .s g src 2 (some lat) (fun tr => s.deliver tr lat (.sc (f tr.a.scalar tr.b.scalar tr.t.scalar)))

/-- A division: DIV_ZERO for t = 0, with INFO = a (R150). -/
def State.division (s : State) (g : Guard) (src : Src) (f : W64 → W64 → W64) : State :=
  s.trigger .s g src 1 (some 18) (fun tr =>
    if tr.t.scalar = 0 then s.raiseIn .s { cause := .divZero, info := tr.a.scalar }
    else s.deliver tr 18 (.sc (f tr.a.scalar tr.t.scalar)))

/-- A compare delivers 1 or 0 (R151). -/
def State.compare (s : State) (g : Guard) (src : Src) (f : W64 → W64 → Bool) : State :=
  s.scalar2 g src 1 (fun a t => if f a t then 1 else 0)

/-! ### Values (R149) -/

/-- Bits [127:64] of the signed product. -/
def mulHigh (a t : W64) : W64 := BitVec.ofInt 64 (a.toInt * t.toInt / 2 ^ 64)

/-- Bits [127:64] of the unsigned product. -/
def mulHighU (a t : W64) : W64 := BitVec.ofNat 64 (a.toNat * t.toNat / 2 ^ 64)

def clz64 (t : W64) : W64 := if t = 0 then 64 else BitVec.ofNat 64 (63 - t.toNat.log2)

/-- Zero bits below the lowest 1 among n bits. -/
def ctzGo : Nat → Nat → Nat
  | 0, _ => 0
  | n + 1, x => if x % 2 = 1 then 0 else 1 + ctzGo n (x / 2)

def popcGo : Nat → Nat → Nat
  | 0, _ => 0
  | n + 1, x => x % 2 + popcGo n (x / 2)

def shAmount (t : W64) : Nat := fld t 0 6

/-- The control word of bfx and bfi: position and width. -/
def bfPos (t : W64) : Nat := fld t 0 6
def bfWidth (t : W64) : Nat := min (fld t 8 7) 64

def bfxVal (a t : W64) : W64 := BitVec.ofNat 64 (nfld a.toNat (bfPos t) (bfWidth t))

def bfiVal (a b t : W64) : W64 :=
  let m : W64 := BitVec.ofNat 64 ((2 ^ bfWidth t - 1) <<< bfPos t)
  (a &&& ~~~m) ||| (BitVec.ofNat 64 (b.toNat <<< bfPos t) &&& m)

/-! ### Address words (R152, R153) -/

def addrName (t : W64) : W16 := t.extractLsb' 0 16
def addrOff (t : W64) : Nat := fld t 16 32

/-- The SEG_BOUNDS of an unaligned offset: INFO[33] with SIZE × 64 (R131, R153). -/
def State.unaligned (s : State) (name : W16) (off : Nat) : FaultInfo :=
  { cause := .segBounds, info := BitVec.ofNat 64 (2 ^ 33 + (s.me.seg (nameIdx name)).size * 64 % 2 ^ 32), wher := segWhere name off }

/-- `access(n, store)` of R153. -/
def State.sAccess (s : State) (t : W64) (n : Nat) (write : Bool) : Rd :=
  if addrOff t % n ≠ 0 then .fault (s.unaligned (addrName t) (addrOff t))
  else s.slotAccess [⟨addrName t, addrOff t, n⟩] write

/-- A load of n bytes (R153). -/
def State.loadS (s : State) (g : Guard) (src : Src) (n : Nat) (signed : Bool) : State :=
  s.trigger .s g src 0 (some 7) (fun tr =>
    match s.sAccess tr.t.scalar n false with
    | .fault f => s.raiseIn .s f
    | .hold => s.holdMove 0
    | .val _ t2 =>
      let v : W64 := BitVec.ofNat 64 (natLE (s.slotRead (nameIdx (addrName tr.t.scalar)) (addrOff tr.t.scalar) n))
      s.deliver { tr with touch := tr.touch ++ t2 } 7 (.sc (if signed then sextN (8 * n) v else v)) (mem := true))

/-- A store of n bytes (R153). -/
def State.storeS (s : State) (g : Guard) (src : Src) (n : Nat) : State :=
  s.trigger .s g src 1 none (fun tr =>
    match s.sAccess tr.t.scalar n true with
    | .fault f => s.raiseIn .s f
    | .hold => s.holdMove 0
    | .val _ t2 =>
      s.effects { tr with touch := tr.touch ++ t2 }
        [.store { trig := tr.now, perf := tr.now + 7, dom := .s, seg := nameIdx (addrName tr.t.scalar),
                  pieces := [(addrOff tr.t.scalar, bytesLE n tr.a.scalar.toNat)] }])

/-- A segment atomic: the old word is delivered, the new one written (R156); the shadow commits (R157). -/
def State.atomicS (s : State) (g : Guard) (src : Src) (reads : Nat) (f : W64 → W64 → W64 → W64) : State :=
  s.trigger .s g src reads (some 7) (fun tr =>
    match s.sAccess tr.t.scalar 8 true with
    | .fault f => s.raiseIn .s f
    | .hold => s.holdMove 0
    | .val _ t2 =>
      let i := nameIdx (addrName tr.t.scalar)
      let off := addrOff tr.t.scalar
      let old : W64 := BitVec.ofNat 64 (natLE (s.slotRead i off 8))
      s.deliver { tr with touch := tr.touch ++ t2 } 7 (.sc old) (mem := true)
        (more := [.atomic i off (bytesLE 8 (f old tr.a.scalar tr.b.scalar).toNat), .commit]))

/-! ### Control (R158) -/

/-- A branch to a target bundle, which has to lie in the store. -/
def State.branchTo (s : State) (tr : Trig) (target : Int) (more : List Eff) : State :=
  if 0 ≤ target ∧ target < 8192 then s.effects tr ([.branch target.toNat] ++ more)
  else s.raiseIn .s { cause := .illegalMove }

/-- `sys` (R159): it acts at its result bundle. -/
def State.sysRequest (s : State) (g : Guard) (src : Src) : State :=
  s.trigger .s g src 1 (some 7) (fun tr =>
    s.deliver tr 7 (.sc 1) (act := .sys (fld tr.t.scalar 0 8) tr.a.scalar))

/-- TIMED_STALL at issue for what a timed task does not do (R130, R169, R170). -/
def State.stallIf (s : State) (c : Bool) (k : State) : State :=
  if c && s.core.task.timed then s.raiseIn .s { cause := .timedStall } else k

/-! ### The meanings -/

/-- a + t modulo 2^64 (R149). -/
def execAdd (g : Guard) (src : Src) (s : State) : Host.Outcome State Fault Refusal :=
  .next (s.scalar2 g src 1 (fun a t => a + t))

/-- a − t (R149). -/
def execSub (g : Guard) (src : Src) (s : State) : Host.Outcome State Fault Refusal :=
  .next (s.scalar2 g src 1 (fun a t => a - t))

/-- The low 64 bits of the product (R149). -/
def execMul (g : Guard) (src : Src) (s : State) : Host.Outcome State Fault Refusal :=
  .next (s.scalar2 g src 3 (fun a t => a * t))

/-- The high half of the signed product (R149). -/
def execMulh (g : Guard) (src : Src) (s : State) : Host.Outcome State Fault Refusal :=
  .next (s.scalar2 g src 3 (fun a t => mulHigh a t))

/-- The high half of the unsigned product (R149). -/
def execMulhu (g : Guard) (src : Src) (s : State) : Host.Outcome State Fault Refusal :=
  .next (s.scalar2 g src 3 (fun a t => mulHighU a t))

/-- The signed quotient, truncated toward zero (R149, R150). -/
def execDiv (g : Guard) (src : Src) (s : State) : Host.Outcome State Fault Refusal :=
  .next (s.division g src BitVec.sdiv)

/-- The unsigned quotient (R149, R150). -/
def execDivu (g : Guard) (src : Src) (s : State) : Host.Outcome State Fault Refusal :=
  .next (s.division g src (fun a t => a / t))

/-- The signed remainder, with the sign of a (R149, R150). -/
def execRem (g : Guard) (src : Src) (s : State) : Host.Outcome State Fault Refusal :=
  .next (s.division g src BitVec.srem)

/-- The unsigned remainder (R149, R150). -/
def execRemu (g : Guard) (src : Src) (s : State) : Host.Outcome State Fault Refusal :=
  .next (s.division g src (fun a t => a % t))

/-- a and t (R149). -/
def execAnd (g : Guard) (src : Src) (s : State) : Host.Outcome State Fault Refusal :=
  .next (s.scalar2 g src 1 (fun a t => a &&& t))

/-- a or t (R149). -/
def execOr (g : Guard) (src : Src) (s : State) : Host.Outcome State Fault Refusal :=
  .next (s.scalar2 g src 1 (fun a t => a ||| t))

/-- a xor t (R149). -/
def execXor (g : Guard) (src : Src) (s : State) : Host.Outcome State Fault Refusal :=
  .next (s.scalar2 g src 1 (fun a t => a ^^^ t))

/-- a and not t (R149). -/
def execAndn (g : Guard) (src : Src) (s : State) : Host.Outcome State Fault Refusal :=
  .next (s.scalar2 g src 1 (fun a t => a &&& ~~~t))

/-- a or not t (R149). -/
def execOrn (g : Guard) (src : Src) (s : State) : Host.Outcome State Fault Refusal :=
  .next (s.scalar2 g src 1 (fun a t => a ||| ~~~t))

/-- Left by t[5:0] (R149). -/
def execShl (g : Guard) (src : Src) (s : State) : Host.Outcome State Fault Refusal :=
  .next (s.scalar2 g src 1 (fun a t => a <<< shAmount t))

/-- Right with zeros by t[5:0] (R149). -/
def execShr (g : Guard) (src : Src) (s : State) : Host.Outcome State Fault Refusal :=
  .next (s.scalar2 g src 1 (fun a t => a >>> shAmount t))

/-- Right with copies of bit 63 by t[5:0] (R149). -/
def execSra (g : Guard) (src : Src) (s : State) : Host.Outcome State Fault Refusal :=
  .next (s.scalar2 g src 1 (fun a t => a.sshiftRight (shAmount t)))

/-- Left rotation by t[5:0] (R149). -/
def execRol (g : Guard) (src : Src) (s : State) : Host.Outcome State Fault Refusal :=
  .next (s.scalar2 g src 1 (fun a t => a.rotateLeft (shAmount t)))

/-- Zero bits above the highest 1 (R149). -/
def execClz (g : Guard) (src : Src) (s : State) : Host.Outcome State Fault Refusal :=
  .next (s.scalar1 g src 1 (fun t => clz64 t))

/-- Zero bits below the lowest 1 (R149). -/
def execCtz (g : Guard) (src : Src) (s : State) : Host.Outcome State Fault Refusal :=
  .next (s.scalar1 g src 1 (fun t => BitVec.ofNat 64 (ctzGo 64 t.toNat)))

/-- The number of 1 bits (R149). -/
def execPopc (g : Guard) (src : Src) (s : State) : Host.Outcome State Fault Refusal :=
  .next (s.scalar1 g src 1 (fun t => BitVec.ofNat 64 (popcGo 64 t.toNat)))

/-- Signed minimum (R149). -/
def execMin (g : Guard) (src : Src) (s : State) : Host.Outcome State Fault Refusal :=
  .next (s.scalar2 g src 1 (fun a t => if a.slt t then a else t))

/-- Signed maximum (R149). -/
def execMax (g : Guard) (src : Src) (s : State) : Host.Outcome State Fault Refusal :=
  .next (s.scalar2 g src 1 (fun a t => if a.slt t then t else a))

/-- Unsigned minimum (R149). -/
def execMinu (g : Guard) (src : Src) (s : State) : Host.Outcome State Fault Refusal :=
  .next (s.scalar2 g src 1 (fun a t => if a.ult t then a else t))

/-- Unsigned maximum (R149). -/
def execMaxu (g : Guard) (src : Src) (s : State) : Host.Outcome State Fault Refusal :=
  .next (s.scalar2 g src 1 (fun a t => if a.ult t then t else a))

/-- sext(t, 8) (R149). -/
def execSext8 (g : Guard) (src : Src) (s : State) : Host.Outcome State Fault Refusal :=
  .next (s.scalar1 g src 1 (sextN 8))

/-- sext(t, 16) (R149). -/
def execSext16 (g : Guard) (src : Src) (s : State) : Host.Outcome State Fault Refusal :=
  .next (s.scalar1 g src 1 (sextN 16))

/-- sext(t, 32) (R149). -/
def execSext32 (g : Guard) (src : Src) (s : State) : Host.Outcome State Fault Refusal :=
  .next (s.scalar1 g src 1 (sextN 32))

/-- zext(t, 8) (R149). -/
def execZext8 (g : Guard) (src : Src) (s : State) : Host.Outcome State Fault Refusal :=
  .next (s.scalar1 g src 1 (zextN 8))

/-- zext(t, 16) (R149). -/
def execZext16 (g : Guard) (src : Src) (s : State) : Host.Outcome State Fault Refusal :=
  .next (s.scalar1 g src 1 (zextN 16))

/-- zext(t, 32) (R149). -/
def execZext32 (g : Guard) (src : Src) (s : State) : Host.Outcome State Fault Refusal :=
  .next (s.scalar1 g src 1 (zextN 32))

/-- The field of a that the control word names (R149). -/
def execBfx (g : Guard) (src : Src) (s : State) : Host.Outcome State Fault Refusal :=
  .next (s.scalar2 g src 1 bfxVal)

/-- a with a field replaced by the low bits of b (R149). -/
def execBfi (g : Guard) (src : Src) (s : State) : Host.Outcome State Fault Refusal :=
  .next (s.scalar3 g src 1 bfiVal)

/-- a if t ≠ 0, else b (R149). -/
def execSel (g : Guard) (src : Src) (s : State) : Host.Outcome State Fault Refusal :=
  .next (s.scalar3 g src 1 (fun a b t => if t = 0 then b else a))

/-- t (R149). -/
def execPass (g : Guard) (src : Src) (s : State) : Host.Outcome State Fault Refusal :=
  .next (s.scalar1 g src 1 (fun t => t))

/-- a = t (R151). -/
def execCeq (g : Guard) (src : Src) (s : State) : Host.Outcome State Fault Refusal :=
  .next (s.compare g src (fun a t => a == t))

/-- a ≠ t (R151). -/
def execCne (g : Guard) (src : Src) (s : State) : Host.Outcome State Fault Refusal :=
  .next (s.compare g src (fun a t => a != t))

/-- a < t, signed (R151). -/
def execClt (g : Guard) (src : Src) (s : State) : Host.Outcome State Fault Refusal :=
  .next (s.compare g src (fun a t => a.slt t))

/-- a < t, unsigned (R151). -/
def execCltu (g : Guard) (src : Src) (s : State) : Host.Outcome State Fault Refusal :=
  .next (s.compare g src (fun a t => a.ult t))

/-- a ≤ t, signed (R151). -/
def execCle (g : Guard) (src : Src) (s : State) : Host.Outcome State Fault Refusal :=
  .next (s.compare g src (fun a t => a.sle t))

/-- a ≤ t, unsigned (R151). -/
def execCleu (g : Guard) (src : Src) (s : State) : Host.Outcome State Fault Refusal :=
  .next (s.compare g src (fun a t => a.ule t))

/-- A load of 1 byte, zero-extended (R153). -/
def execLd8 (g : Guard) (src : Src) (s : State) : Host.Outcome State Fault Refusal :=
  .next (s.loadS g src 1 false)

/-- A load of 2 bytes, zero-extended (R153). -/
def execLd16 (g : Guard) (src : Src) (s : State) : Host.Outcome State Fault Refusal :=
  .next (s.loadS g src 2 false)

/-- A load of 4 bytes, zero-extended (R153). -/
def execLd32 (g : Guard) (src : Src) (s : State) : Host.Outcome State Fault Refusal :=
  .next (s.loadS g src 4 false)

/-- A load of 8 bytes, zero-extended (R153). -/
def execLd64 (g : Guard) (src : Src) (s : State) : Host.Outcome State Fault Refusal :=
  .next (s.loadS g src 8 false)

/-- A load of 1 byte, sign-extended (R153). -/
def execLd8s (g : Guard) (src : Src) (s : State) : Host.Outcome State Fault Refusal :=
  .next (s.loadS g src 1 true)

/-- A load of 2 bytes, sign-extended (R153). -/
def execLd16s (g : Guard) (src : Src) (s : State) : Host.Outcome State Fault Refusal :=
  .next (s.loadS g src 2 true)

/-- A load of 4 bytes, sign-extended (R153). -/
def execLd32s (g : Guard) (src : Src) (s : State) : Host.Outcome State Fault Refusal :=
  .next (s.loadS g src 4 true)

/-- A store of 1 byte (R153). -/
def execSt8 (g : Guard) (src : Src) (s : State) : Host.Outcome State Fault Refusal :=
  .next (s.storeS g src 1)

/-- A store of 2 bytes (R153). -/
def execSt16 (g : Guard) (src : Src) (s : State) : Host.Outcome State Fault Refusal :=
  .next (s.storeS g src 2)

/-- A store of 4 bytes (R153). -/
def execSt32 (g : Guard) (src : Src) (s : State) : Host.Outcome State Fault Refusal :=
  .next (s.storeS g src 4)

/-- A store of 8 bytes (R153). -/
def execSt64 (g : Guard) (src : Src) (s : State) : Host.Outcome State Fault Refusal :=
  .next (s.storeS g src 8)

/-- old + a modulo 2^64 (R156). -/
def execAadd (g : Guard) (src : Src) (s : State) : Host.Outcome State Fault Refusal :=
  .next (s.atomicS g src 1 (fun old a _ => old + a))

/-- old and a (R156). -/
def execAand (g : Guard) (src : Src) (s : State) : Host.Outcome State Fault Refusal :=
  .next (s.atomicS g src 1 (fun old a _ => old &&& a))

/-- old or a (R156). -/
def execAor (g : Guard) (src : Src) (s : State) : Host.Outcome State Fault Refusal :=
  .next (s.atomicS g src 1 (fun old a _ => old ||| a))

/-- old xor a (R156). -/
def execAxor (g : Guard) (src : Src) (s : State) : Host.Outcome State Fault Refusal :=
  .next (s.atomicS g src 1 (fun old a _ => old ^^^ a))

/-- Signed minimum (R156). -/
def execAmin (g : Guard) (src : Src) (s : State) : Host.Outcome State Fault Refusal :=
  .next (s.atomicS g src 1 (fun old a _ => if old.slt a then old else a))

/-- Signed maximum (R156). -/
def execAmax (g : Guard) (src : Src) (s : State) : Host.Outcome State Fault Refusal :=
  .next (s.atomicS g src 1 (fun old a _ => if old.slt a then a else old))

/-- Unsigned minimum (R156). -/
def execAminu (g : Guard) (src : Src) (s : State) : Host.Outcome State Fault Refusal :=
  .next (s.atomicS g src 1 (fun old a _ => if old.ult a then old else a))

/-- Unsigned maximum (R156). -/
def execAmaxu (g : Guard) (src : Src) (s : State) : Host.Outcome State Fault Refusal :=
  .next (s.atomicS g src 1 (fun old a _ => if old.ult a then a else old))

/-- Exchange (R156). -/
def execAxchg (g : Guard) (src : Src) (s : State) : Host.Outcome State Fault Refusal :=
  .next (s.atomicS g src 1 (fun _ a _ => a))

/-- Compare and swap (R156). -/
def execAcas (g : Guard) (src : Src) (s : State) : Host.Outcome State Fault Refusal :=
  .next (s.atomicS g src 2 (fun old a b => if old = a then b else old))

/-- A branch to bundle n + t after two delay bundles (R67, R158). -/
def execBr (g : Guard) (src : Src) (s : State) : Host.Outcome State Fault Refusal :=
  .next (s.trigger .s g src 0 none (fun tr => s.branchTo tr ((s.core.pc : Int) + tr.t.scalar.toInt) []))

/-- A branch to bundle t (R158). -/
def execBra (g : Guard) (src : Src) (s : State) : Host.Outcome State Fault Refusal :=
  .next (s.trigger .s g src 0 none (fun tr => s.branchTo tr tr.t.scalar.toInt []))

/-- A branch to bundle t; s63 := n + 3 with latency 1, whatever rt holds (R67, R158). -/
def execCall (g : Guard) (src : Src) (s : State) : Host.Outcome State Fault Refusal :=
  .next (s.trigger .s g src 0 none (fun tr =>
    if s.me.regs ≤ 63 then s.raiseIn .s { cause := .illegalMove }
    else s.branchTo tr tr.t.scalar.toInt [.link (BitVec.ofNat 64 (s.core.pc + 3))]))

/-- A branch to the bundle that s63 holds (R158). -/
def execRet (g : Guard) (src : Src) (s : State) : Host.Outcome State Fault Refusal :=
  .next (s.trigger .s g src 0 none (fun tr => s.branchTo tr (s.core.sreg 63).toInt []))

/-- TRAP after the bundle executes, with INFO = t (R158). -/
def execTrap (g : Guard) (src : Src) (s : State) : Host.Outcome State Fault Refusal :=
  .next (s.trigger .s g src 0 none (fun tr => s.effects tr [.trap tr.t.scalar]))

/-- sys: RESUME, ABORT or a refused function, by the FUNC of t (R159). -/
def execSysResume (g : Guard) (src : Src) (s : State) : Host.Outcome State Fault Refusal :=
  .next (s.sysRequest g src)

/-- sys with a short immediate of FUNC 2 (R159). -/
def execSysAbort (g : Guard) (src : Src) (s : State) : Host.Outcome State Fault Refusal :=
  .next (s.sysRequest g src)

/-- Ends the task at the end of its bundle (R158). -/
def execHalt (g : Guard) (src : Src) (s : State) : Host.Outcome State Fault Refusal :=
  .next (s.trigger .s g src 0 none (fun tr => s.effects tr [.halt]))

/-- Arms or disarms a nest level from the next bundle on (R161). -/
def execNset (g : Guard) (src : Src) (s : State) : Host.Outcome State Fault Refusal :=
  .next (s.trigger .s g src 0 none (fun tr =>
    let w := tr.t.scalar
    let l := fld w 0 3
    if l = 0 ∨ l = 7 then s.raiseIn .s { cause := .illegalMove }
    else s.effects tr [.nset l (bit w 3) (fld w 16 13) (fld w 32 32)]))

/-- Sets an address-update entry (R162). -/
def execNstep (g : Guard) (src : Src) (s : State) : Host.Outcome State Fault Refusal :=
  .next (s.trigger .s g src 0 none (fun tr =>
    let w := tr.t.scalar
    let l := fld w 0 3
    let kind := fld w 6 2
    let i := fld w 8 6
    if l = 0 ∨ l = 7 ∨ (kind = 1 ∧ s.me.regs ≤ i) ∨ (2 ≤ kind ∧ 31 < i) then s.raiseIn .s { cause := .illegalMove }
    else s.effects tr [.nstep l (fld w 3 3) (if kind = 0 then {} else { kind := kind, idx := i, stride := (w >>> 16).setWidth 48 |>.signExtend 64 })]))

/-- Sets LAST of an armed level (R164). -/
def execNbrk (g : Guard) (src : Src) (s : State) : Host.Outcome State Fault Refusal :=
  .next (s.trigger .s g src 0 none (fun tr =>
    let l := fld tr.t.scalar 0 3
    if l = 0 ∨ l = 7 ∨ !(s.core.level l).arm then s.raiseIn .s { cause := .illegalMove }
    else s.effects tr [.nbrk l]))

/-- Delivers a spill word (R165). -/
def execSld (g : Guard) (src : Src) (s : State) : Host.Outcome State Fault Refusal :=
  .next (s.scalar1 g src 1 (fun t => s.core.word (fld t 0 8)))

/-- Writes a spill word, from the next bundle on (R165). -/
def execSst (g : Guard) (src : Src) (s : State) : Host.Outcome State Fault Refusal :=
  .next (s.trigger .s g src 1 none (fun tr => s.effects tr [.spillWord (fld tr.t.scalar 0 8) tr.a.scalar]))

/-- Reads a system register (R166, R357). -/
def execSrd (g : Guard) (src : Src) (s : State) : Host.Outcome State Fault Refusal :=
  .next (s.trigger .s g src 0 (some 1) (fun tr =>
    match s.sysReg (fld tr.t.scalar 0 8) with
    | some v => s.deliver tr 1 (.sc v)
    | none => s.raiseIn .s { cause := .illegalMove }))

/-- Writes FST (write one to clear) or GENST (R86, R166). -/
def execSwr (g : Guard) (src : Src) (s : State) : Host.Outcome State Fault Refusal :=
  .next (s.trigger .s g src 1 none (fun tr =>
    match fld tr.t.scalar 0 8 with
    | 1 => s.effects tr [.swrFst tr.a.scalar]
    | 6 => s.effects tr [.swrGen tr.a.scalar]
    | _ => s.raiseIn .s { cause := .illegalMove }))

/-- The partition frame counter, and on res2 the phase of the package frame clock (R167). -/
def execTick (g : Guard) (src : Src) (s : State) : Host.Outcome State Fault Refusal :=
  .next (s.trigger .s g src 0 (some 1) (fun tr =>
    let n := s.subNow
    ({ s.tickFresh with sub := n } : State).deliver tr 1 (.sc (BitVec.ofNat 64 (s.frameCtx s.cid)))
      (v2 := some (.sc (BitVec.ofNat 64 (s.qc % 64 * 16 + n))))))

/-- An energy count in µJ (R168). -/
def execEnrd (g : Guard) (src : Src) (s : State) : Host.Outcome State Fault Refusal :=
  .next (s.trigger .s g src 0 (some 1) (fun tr =>
    match s.energyCount (fld tr.t.scalar 0 9) with
    | some v => s.deliver tr 1 (.sc v)
    | none => s.raiseIn .s { cause := .illegalMove }))

/-- Asks a tile dispenser for the next tile (R169, R264); it commits the shadow. -/
def execNxt (g : Guard) (src : Src) (s : State) : Host.Outcome State Fault Refusal :=
  .next (s.trigger .s g src 0 none (fun tr =>
    s.stallIf true
      (if 4 ≤ s.core.nxts.length then s.raiseIn .s { cause := .illegalMove }
       else s.effects tr [.nxt (fld tr.t.scalar 0 4) s.core.ntp, .commit])))

/-- Offers a card to a cluster queue at its result bundle (R170). -/
def execPost (g : Guard) (src : Src) (s : State) : Host.Outcome State Fault Refusal :=
  .next (s.trigger .s g src 1 (some 7) (fun tr =>
    let clu := fld tr.a.scalar 0 6
    s.stallIf (decide (clu ≠ s.lclu))
      (match s.sAccess tr.t.scalar 64 false with
       | .fault f => s.raiseIn .s f
       | .hold => s.holdMove 0
       | .val _ t2 =>
         let card := BitVec.ofNat 512 (natLE (s.slotRead (nameIdx (addrName tr.t.scalar)) (addrOff tr.t.scalar) 64))
         s.deliver { tr with touch := tr.touch ++ t2 } 7 (.sc 0) (mem := true) (act := .post clu card) (more := [.commit]))))

/-- Creates a segment (R125). -/
def execSalloc (g : Guard) (src : Src) (s : State) : Host.Outcome State Fault Refusal :=
  .next (s.trigger .s g src 1 (some 7) (fun tr =>
    s.stallIf true
      (let bytes := tr.t.scalar.toNat
       let home := fld tr.a.scalar 0 6
       let empty := bit tr.a.scalar 6
       match s.salloc s.cid bytes home empty with
       | .fault f => s.raiseIn .s f
       | .none st => s.deliver tr 7 (.sc nullTile) (v2 := some (.sc (BitVec.ofNat 64 st)))
       | .made _ name st =>
         s.deliver tr 7 (.sc (name.setWidth 64)) (v2 := some (.sc (BitVec.ofNat 64 st))) (more := [.salloc bytes home empty]))))

/-- Frees a segment at the result bundle (R126). -/
def execSfree (g : Guard) (src : Src) (s : State) : Host.Outcome State Fault Refusal :=
  .next (s.trigger .s g src 0 (some 7) (fun tr =>
    s.stallIf true
      (let name := addrName tr.t.scalar
       if s.me.stale name then
         s.raiseIn .s { cause := .segStale, info := BitVec.ofNat 64 (s.me.seg (nameIdx name)).gen, wher := segWhere name 0 }
       else s.deliver tr 7 (.sc 0) (v2 := some (.sc 0)) (act := .sfree name))))

/-- The state word and AGE of a segment (R127). -/
def execSstat (g : Guard) (src : Src) (s : State) : Host.Outcome State Fault Refusal :=
  .next (s.trigger .s g src 0 (some 7) (fun tr =>
    let r := s.me.sstat (addrName tr.t.scalar)
    s.deliver tr 7 (.sc (BitVec.ofNat 64 r.1)) (v2 := some (.sc (BitVec.ofNat 64 r.2)))))

end Sys2Proof.Machine
end

