-- ==== Sys2Proof/Machine/Vector.lean ====
section
/-! DEFINITION. The lanes of V0 and V1 (09_vector_permutation): integer and float lanes, compares and merges, formats,
reductions and scan, lane movement, segment access, spill lines (R173 to R196). -/

namespace Sys2Proof.Machine

/-! ### Elements of a vector (R173) -/

/-- The width of an element by its suffix. -/
def isfxWidth : ISfx → Nat
  | .i32 => 32
  | .i16 => 16
  | .i8 => 8

def fsfxWidth : FSfx → Nat
  | .f32 => 32
  | .f16 => 16
  | .b16 => 16
  | .f64 => 64

/-- `f` on each w-bit field of three lanes, low end first: the lane and the flags. -/
def fieldsGo (w : Nat) (f : Nat → Nat → Nat → Nat × Flags) : Nat → Nat → Nat → Nat → Nat × Flags
  | 0, _, _, _ => (0, 0)
  | n + 1, x, y, z =>
    let v := f (x % 2 ^ w) (y % 2 ^ w) (z % 2 ^ w)
    let r := fieldsGo w f n (x / 2 ^ w) (y / 2 ^ w) (z / 2 ^ w)
    (v.1 % 2 ^ w + 2 ^ w * r.1, v.2 ||| r.2)

def laneFields (w : Nat) (f : Nat → Nat → Nat → Nat × Flags) (x y z : BitVec 32) : BitVec 32 × Flags :=
  let r := fieldsGo w f (32 / w) x.toNat y.toNat z.toNat
  (BitVec.ofNat 32 r.1, r.2)

/-- `f` on the enabled lanes; a disabled lane gives 0 and no flag (R174). -/
def lanesGo (f : BitVec 32 → BitVec 32 → BitVec 32 → BitVec 32 × Flags) : Nat → Vec → Vec → Vec → Vec × Flags
  | m, x :: xs, y :: ys, z :: zs =>
    let r := lanesGo f (m / 2) xs ys zs
    if m % 2 = 1 then
      let v := f x y z
      (v.1 :: r.1, v.2 ||| r.2)
    else (0 :: r.1, r.2)
  | _, _, _, _ => ([], 0)

/-- The 64-bit value of a lane pair, low word in the even lane. -/
def pairVal (lo hi : BitVec 32) : Nat := lo.toNat + 2 ^ 32 * hi.toNat

/-- `f` on the enabled lane pairs (R173, R174). -/
def pairsGo (f : Nat → Nat → Nat → Nat × Flags) : Nat → Vec → Vec → Vec → Vec × Flags
  | m, x0 :: x1 :: xs, y0 :: y1 :: ys, z0 :: z1 :: zs =>
    let r := pairsGo f (m / 4) xs ys zs
    if m % 2 = 1 then
      let v := f (pairVal x0 x1) (pairVal y0 y1) (pairVal z0 z1)
      (BitVec.ofNat 32 v.1 :: BitVec.ofNat 32 (v.1 / 2 ^ 32) :: r.1, v.2 ||| r.2)
    else (0 :: 0 :: r.1, r.2)
  | _, _, _, _ => ([], 0)

/-- For .f64 the two lanes of element m are enabled by bit 2m (R174). -/
def evenMask (m : Mask) : Mask := (m &&& BitVec.ofNat 256 ((2 ^ 256 - 1) / 3)) * 3

/-! ### Shared shapes -/

/-- An integer operation on w-bit elements (R177). -/
def State.laneI (s : State) (v : VUnit) (f : ISfx) (g : Guard) (src : Src) (reads : Nat) (op : Nat → Nat → Nat → Nat → Nat) : State :=
  s.trigger v.dom g src reads (some 2) (fun tr =>
    let w := isfxWidth f
    let r := lanesGo (laneFields w (fun a b t => (op w a b t, 0))) tr.mask.toNat tr.a.vector tr.b.vector tr.t.vector
    s.deliver tr 2 (.vec r.1))

/-- Element-wise by the F set, with flags (R178). -/
def elemsF (f : FSfx) (m : Mask) (op : Nat → Nat → Nat → Nat × Flags) (a b t : Vec) : Vec × Flags :=
  match f with
  | .f64 => pairsGo op m.toNat a b t
  | _ => lanesGo (laneFields (fsfxWidth f) op) m.toNat a b t

def maskF (f : FSfx) (m : Mask) : Mask :=
  match f with
  | .f64 => evenMask m
  | _ => m

/-- The rounding mode a V operation uses: RM, with STOCH read as RNE (R81, R85). -/
def Trig.rm (tr : Trig) : RM := rmOf (fld tr.fmt 17 3)

/-- A float operation (R178). -/
def State.laneF (s : State) (v : VUnit) (f : FSfx) (g : Guard) (src : Src) (reads lat : Nat)
    (op : FP → RM → Nat → Nat → Nat → Nat × Flags) : State :=
  s.trigger v.dom g src reads (some lat) (fun tr =>
    let r := elemsF f tr.mask (op (sfxFP f.num) tr.rm) tr.a.vector tr.b.vector tr.t.vector
    s.deliver tr lat (.vec r.1) (fl := r.2) (mask := maskF f tr.mask))

/-- A compare's element: all ones where the relation holds (R181). -/
def truthElem (w : Nat) (b : Bool) : Nat := if b then 2 ^ w - 1 else 0

def State.compareI (s : State) (v : VUnit) (f : ISfx) (g : Guard) (src : Src) (op : Nat → Nat → Nat → Bool) : State :=
  s.laneI v f g src 1 (fun w a _ t => truthElem w (op w a t))

def State.compareF (s : State) (v : VUnit) (f : FSfx) (g : Guard) (src : Src) (op : FP → Nat → Nat → Bool × Flags) : State :=
  s.laneF v f g src 1 2 (fun p _ a _ t =>
    let r := op p a t
    (truthElem (fsfxWidth f) r.1, r.2))

/-! ### Elements (R177) -/

def vclzElem (w t : Nat) : Nat := if t = 0 then w else w - 1 - t.log2

/-! ### Formats (R184 to R189) -/

def Trig.fa (tr : Trig) : Nat := fld tr.fmt 35 5
def Trig.fo (tr : Trig) : Nat := fld tr.fmt 20 5
def Trig.sat (tr : Trig) : Bool := bit tr.fmt 16
def Trig.scp (tr : Trig) : Nat := fld tr.fmt 12 4
def Trig.stoch (tr : Trig) : Bool := fld tr.fmt 17 3 = 4

/-- The rounding of one converted element, and the generator after it: under STOCH into a format of code 0 to 14 or 17
to 23 every element takes one draw (R81, R82). -/
def convRm (rm fo : Nat) (gen : W64) : RM × W64 :=
  if rm = 4 ∧ (fo ≤ 14 ∨ (17 ≤ fo ∧ fo ≤ 23)) then
    let g := drawStep gen
    (rmDraw 4 (drawOf g), g)
  else (rmOf rm, gen)

/-- Fields of ws bits converted into fields of wd bits, n of them, low end first, drawing in that order (R185). -/
def cvtFields (ws wd : Nat) (f : W64 → Nat → Nat × Flags × W64) : Nat → W64 → Nat → Nat × Flags × W64
  | 0, gen, _ => (0, 0, gen)
  | n + 1, gen, x =>
    let v := f gen (x % 2 ^ ws)
    let r := cvtFields ws wd f n v.2.2 (x / 2 ^ ws)
    (v.1 % 2 ^ wd + 2 ^ wd * r.1, v.2.1 ||| r.2.1, r.2.2)

/-- Over the enabled lanes in ascending order, threading the generator. -/
def drawLanes (f : W64 → BitVec 32 → BitVec 32 → BitVec 32 × Flags × W64) : Nat → W64 → Vec → Vec → Vec × Flags × W64
  | m, gen, x :: xs, y :: ys =>
    if m % 2 = 1 then
      let v := f gen x y
      let r := drawLanes f (m / 2) v.2.2 xs ys
      (v.1 :: r.1, v.2.1 ||| r.2.1, r.2.2)
    else
      let r := drawLanes f (m / 2) gen xs ys
      (0 :: r.1, r.2.1, r.2.2)
  | _, gen, _, _ => ([], 0, gen)

def drawPairs (f : W64 → Nat → Nat × Flags × W64) : Nat → W64 → Vec → Vec × Flags × W64
  | m, gen, x0 :: x1 :: xs =>
    if m % 2 = 1 then
      let v := f gen (pairVal x0 x1)
      let r := drawPairs f (m / 4) v.2.2 xs
      (BitVec.ofNat 32 v.1 :: BitVec.ofNat 32 (v.1 / 2 ^ 32) :: r.1, v.2.1 ||| r.2.1, r.2.2)
    else
      let r := drawPairs f (m / 4) gen xs
      (0 :: 0 :: r.1, r.2.1, r.2.2)
  | _, gen, _ => ([], 0, gen)

/-- cvt on a vector: the lanes, the flags and the generator after its draws (R185). -/
def cvtVec (fa fo rm : Nat) (sat : Bool) (m : Mask) (gen : W64) (t : Vec) : Vec × Flags × W64 :=
  let one := fun (gen : W64) (x : Nat) =>
    let d := convRm rm fo gen
    let r := convert fa fo d.1 sat x
    (r.1, r.2, d.2)
  let ws := fieldBits fa
  let wd := fieldBits fo
  if ws = 64 ∨ wd = 64 then drawPairs (fun gen x => one gen (x % 2 ^ ws)) m.toNat gen t
  else
    drawLanes (fun gen x _ =>
      let r := cvtFields ws wd one (32 / max ws wd) gen x.toNat
      (BitVec.ofNat 32 r.1, r.2.1, r.2.2)) m.toNat gen t t

/-- The state after draws of stream 0: a later slot of the bundle draws on (R82). -/
def State.drew (s : State) (gen : W64) : State := s.upd (fun c => c.setStream 0 gen)

/-- pack of one lane: fields of 2w bits of a, then of t, cut to w bits (R186). -/
def packLane (w : Nat) (a t : BitVec 32) : BitVec 32 :=
  let half := fun (x : Nat) => (cvtFields (2 * w) w (fun gen v => (v, 0, gen)) (16 / w) 0 x).1
  BitVec.ofNat 32 (half a.toNat + 2 ^ 16 * half t.toNat)

/-- unpack of one lane: the low or the high half of the fields, each extended to 2w bits (R186). -/
def unpackLane (w : Nat) (signed : Bool) (high : Bool) (t : BitVec 32) : BitVec 32 :=
  let ext := fun (v : Nat) => if signed then ofInt (2 * w) (toSigned w v) else v
  BitVec.ofNat 32 (cvtFields w (2 * w) (fun gen v => (ext v, 0, gen)) (16 / w) 0 (if high then t.toNat / 2 ^ 16 else t.toNat)).1

/-- The source element of amax and qnt: FP32, or BF16 in the low half (R187). -/
def mxSrc (fa : Nat) (x : BitVec 32) : Num := if fa = 15 then decodeNum 15 x.toNat else decodeNum 13 (x.toNat % 65536)

/-- The checks of amax and qnt (R187, R188). -/
def Trig.mxBad (tr : Trig) : Bool := !((tr.fa = 15 || tr.fa = 13) && isMX tr.fo && decide (tr.scp ≤ 2))

/-- amax over the enabled lanes of a block, and whether any is enabled. -/
def blockAmax (fa : Nat) : Nat → Vec → Num × Bool
  | m, x :: xs =>
    let r := blockAmax fa (m / 2) xs
    if m % 2 = 1 then (amaxNum (mxSrc fa x) r.1, true) else r
  | _, [] => (.fin false 0 1, false)

/-- The codes of the eight blocks and their flags (R187). -/
def amaxCodes (fa fo scp : Nat) (rm : RM) (m : Mask) (t : Vec) : List (Nat × Flags) :=
  (List.range 8).map (fun b =>
    let r := blockAmax fa (fld m (32 * b) 32) ((t.drop (32 * b)).take 32)
    if r.2 then mxScale fo scp rm r.1 else (0, 0))

/-! ### Reductions and scan (R190, R191) -/

/-- The N elements of a reduction as patterns, low end first; a disabled element is the identity. .b16 widens to
FP32 where `wide`. -/
def redElems (f : QSfx) (wide : Bool) (ident : Nat) : Nat → Vec → List (Nat × Bool)
  | m, x :: y :: xs =>
    let on0 := m % 2 = 1
    let on1 := m / 2 % 2 = 1
    let k := if wide then 65536 else 1
    let el := fun (b : Bool) (v : Nat) => (if b then v else ident, b)
    match f with
    | .f64 => el on0 (pairVal x y) :: redElems f wide ident (m / 4) xs
    | .b16 =>
      el on0 (x.toNat % 65536 * k) :: el on0 (x.toNat / 65536 * k) :: el on1 (y.toNat % 65536 * k) :: el on1 (y.toNat / 65536 * k) ::
        redElems f wide ident (m / 4) xs
    | _ => el on0 x.toNat :: el on1 y.toNat :: redElems f wide ident (m / 4) xs
  | _, _ => []

/-- The format a sum of the Q set is kept in, and the pattern of −0 in it. -/
def sumFP (f : QSfx) : FP :=
  match f with
  | .f64 => fp64
  | _ => fp32

def negZero (p : FP) : Nat := 2 ^ (p.eb + p.m)

/-- One level of the tree of R190. -/
def pairSums (add : Nat → Nat → Nat × Flags) : List Nat → List Nat × Flags
  | x :: y :: l =>
    let v := add x y
    let r := pairSums add l
    (v.1 :: r.1, v.2 ||| r.2)
  | l => (l, 0)

/-- The fixed tree: `n` levels. -/
def treeSum (add : Nat → Nat → Nat × Flags) : Nat → List Nat → Nat × Flags
  | 0, l => (l.headD 0, 0)
  | n + 1, l =>
    let p := pairSums add l
    let r := treeSum add n p.1
    (r.1, p.2 ||| r.2)

/-- The final value of a float sum in the element format: .b16 rounds once into BF16. -/
def sumOut (f : QSfx) (rm : RM) (x : Nat) : Nat × Flags :=
  match f with
  | .b16 => roundFP bf16 rm false (decodeFP fp32 x)
  | _ => (x, 0)

/-- A reduced value in every lane, or every lane pair (R190). -/
def spread (f : QSfx) (x : Nat) : Vec :=
  match f with
  | .f64 => vecOf (fun i => BitVec.ofNat 32 (if i % 2 = 0 then x else x / 2 ^ 32))
  | _ => splat (BitVec.ofNat 32 x)

def rsumOf (f : QSfx) (rm : RM) (m : Mask) (t : Vec) : Nat × Flags :=
  match f with
  | .i32 => (((redElems f false 0 m.toNat t).map (·.1)).foldl (· + ·) 0 % 2 ^ 32, 0)
  | _ =>
    let p := sumFP f
    let r := treeSum (faddE p rm) 9 ((redElems f true (negZero p) m.toNat t).map (·.1))
    let o := sumOut f rm r.1
    (o.1, r.2 ||| o.2)

/-- The element format of a maximum or minimum. -/
def qFP (f : QSfx) : FP :=
  match f with
  | .f64 => fp64
  | .b16 => bf16
  | _ => fp32

def negInf (p : FP) (neg : Bool) : Nat := (if neg then 2 ^ (p.eb + p.m) else 0) + (2 ^ p.eb - 1) * 2 ^ p.m

def rextremeOf (f : QSfx) (wantMax : Bool) (m : Mask) (t : Vec) : Nat × Flags :=
  match f with
  | .i32 =>
    let pick := fun (x y : Nat) => if (toSigned 32 x < toSigned 32 y) = wantMax then y else x
    (((redElems f false (if wantMax then 2 ^ 31 else 2 ^ 31 - 1) m.toNat t).map (·.1)).foldl pick
      (if wantMax then 2 ^ 31 else 2 ^ 31 - 1), 0)
  | _ =>
    let p := qFP f
    match (redElems f false (negInf p wantMax) m.toNat t).map (·.1) with
    | [] => (0, 0)
    | x :: l => l.foldl (fun acc y =>
        let r := fminmaxE p wantMax acc.1 y
        (r.1, acc.2 ||| r.2)) (x, 0)

/-- The running sums of scan in the order of R191: each element's output with its flags. -/
def scanGo (add : Nat → Nat → Nat × Flags) (out : Nat → Nat × Flags) : Option Nat → List (Nat × Bool) → List (Nat × Flags)
  | _, [] => []
  | acc, (x, on) :: l =>
    let v := match acc with
      | none => (x, (0 : Flags))
      | some a => add a x
    let o := out v.1
    ((o.1, if on then v.2 ||| o.2 else v.2)) :: scanGo add out (some v.1) l

/-- A NaN that no addition has met yet becomes the canonical one (R85). -/
def firstElem (p : FP) (x : Nat) : Nat × Flags :=
  if (decodeFP p x).isNaN then (p.nan, flagIf (decodeFP p x).isSig fINV) else (x, 0)

/-- Elements laid back into lanes. -/
def packElems (f : QSfx) : List Nat → Vec
  | x :: y :: l =>
    match f with
    | .b16 => BitVec.ofNat 32 (x % 65536 + 65536 * (y % 65536)) :: packElems f l
    | .f64 => BitVec.ofNat 32 x :: BitVec.ofNat 32 (x / 2 ^ 32) :: BitVec.ofNat 32 y :: BitVec.ofNat 32 (y / 2 ^ 32) :: packElems f l
    | _ => BitVec.ofNat 32 x :: BitVec.ofNat 32 y :: packElems f l
  | _ => []

def scanOf (f : QSfx) (rm : RM) (m : Mask) (t : Vec) : Vec × Flags :=
  match f with
  | .i32 =>
    let r := scanGo (fun a x => ((a + x) % 2 ^ 32, 0)) (fun x => (x, 0)) none (redElems f false 0 m.toNat t)
    (packElems f (r.map (·.1)), 0)
  | _ =>
    let p := sumFP f
    let els := match redElems f true (negZero p) m.toNat t with
      | [] => []
      | x :: l => ((firstElem p x.1).1, x.2) :: l
    let r := scanGo (faddE p rm) (sumOut f rm) none els
    let first := match redElems f true (negZero p) m.toNat t with
      | [] => 0
      | x :: _ => (firstElem p x.1).2
    (packElems f (r.map (·.1)), first ||| orFlags (r.map (·.2)))

def maskQ (f : QSfx) (m : Mask) : Mask :=
  match f with
  | .f64 => evenMask m
  | _ => m

/-! ### Segment access (R193 to R195) -/

/-- The control word of an operand: lane 0. -/
def ctl (v : Val) : BitVec 32 := lane v.vector 0

/-- The enabled lanes with their offsets, ascending. -/
def laneOffs (m : Mask) (off : Nat → Nat) : List (Nat × Nat) :=
  ((List.range 256).filter (fun i => bit m i)).map (fun i => (i, off i))

/-- The largest count, over the 32 banks, of distinct granules touched (R193). -/
def portCount (offs : List (Nat × Nat)) : Nat :=
  let gs := (offs.map (fun o => o.2 / 64)).eraseDups
  ((List.range 32).map (fun b => (gs.filter (fun g => g % 32 = b)).length)).foldl max 0

/-- `vaccess` of R193 up to the words themselves. The extra cycles of R194 pass without an issued bundle in an
elastic task; a timed task stalls. -/
def State.vAccess (s : State) (name : W16) (offs : List (Nat × Nat)) (write : Bool) : Rd :=
  match offs.find? (fun o => o.2 % 4 ≠ 0) with
  | some o => .fault (s.unaligned name o.2)
  | none =>
    match s.slotAccess (if offs.isEmpty then [⟨name, 0, 0⟩] else offs.map (fun o => ⟨name, o.2, 4⟩)) write with
    | .val v t => if s.core.task.timed ∧ 8 < portCount offs then .hold else .val v t
    | r => r

/-- A vector load: the words of the enabled lanes, 0 in the others. -/
def State.vLoad (s : State) (v : VUnit) (g : Guard) (src : Src) (lat : Nat) (off : Trig → Nat → Nat) : State :=
  s.trigger v.dom g src 1 (some lat) (fun tr =>
    let name : W16 := (ctl tr.t).setWidth 16
    match s.vAccess name (laneOffs tr.mask (off tr)) false with
    | .fault f => s.raiseIn v.dom.slot f
    | .hold => s.holdMove v.dom.slot.num
    | .val _ t2 =>
      let x := vecOf (fun i => if bit tr.mask i then BitVec.ofNat 32 (natLE (s.slotRead (nameIdx name) (off tr i) 4)) else 0)
      s.deliver { tr with touch := tr.touch ++ t2 } lat (.vec x) (mem := true))

/-- A vector store: one store for the gating of R101; of lanes that name one word the highest stands. -/
def State.vStore (s : State) (v : VUnit) (g : Guard) (src : Src) (perf : Nat) (off : Trig → Nat → Nat) : State :=
  s.trigger v.dom g src 2 none (fun tr =>
    let name : W16 := (ctl tr.t).setWidth 16
    let offs := laneOffs tr.mask (off tr)
    match s.vAccess name offs true with
    | .fault f => s.raiseIn v.dom.slot f
    | .hold => s.holdMove v.dom.slot.num
    | .val _ t2 =>
      let data := tr.a.vector
      s.effects { tr with touch := tr.touch ++ t2 }
        [.store { trig := tr.now, perf := tr.now + perf, dom := v.dom, seg := nameIdx name,
                  pieces := offs.map (fun o => (o.2, bytesLE 4 (lane data o.1).toNat)) }])

/-- The stride of vlds and vsts: bits [31:16] of the control word, in 4-byte units. -/
def strideOf (tr : Trig) : Nat := 4 * fld (ctl tr.t) 16 16

/-! ### Meanings -/

/-- a + t per element (R177) -/
def execVadd (v : VUnit) (f : ISfx) (g : Guard) (src : Src) (s : State) : Host.Outcome State Fault Refusal :=
  .next (s.laneI v f g src 1 (fun _ a _ t => a + t))

/-- a − t per element (R177) -/
def execVsub (v : VUnit) (f : ISfx) (g : Guard) (src : Src) (s : State) : Host.Outcome State Fault Refusal :=
  .next (s.laneI v f g src 1 (fun w a _ t => a + 2 ^ w - t))

/-- a × t per element (R177) -/
def execVmul (v : VUnit) (f : ISfx) (g : Guard) (src : Src) (s : State) : Host.Outcome State Fault Refusal :=
  .next (s.laneI v f g src 1 (fun _ a _ t => a * t))

/-- The high half of the signed product (R177) -/
def execVmulh (v : VUnit) (f : ISfx) (g : Guard) (src : Src) (s : State) : Host.Outcome State Fault Refusal :=
  .next (s.laneI v f g src 1 (fun w a _ t => ofInt w (toSigned w a * toSigned w t / 2 ^ w)))

/-- The high half of the unsigned product (R177) -/
def execVmulhu (v : VUnit) (f : ISfx) (g : Guard) (src : Src) (s : State) : Host.Outcome State Fault Refusal :=
  .next (s.laneI v f g src 1 (fun w a _ t => a * t / 2 ^ w))

/-- a × b + t per element (R177) -/
def execVmad (v : VUnit) (f : ISfx) (g : Guard) (src : Src) (s : State) : Host.Outcome State Fault Refusal :=
  .next (s.laneI v f g src 2 (fun _ a b t => a * b + t))

/-- Signed minimum (R177) -/
def execVmin (v : VUnit) (f : ISfx) (g : Guard) (src : Src) (s : State) : Host.Outcome State Fault Refusal :=
  .next (s.laneI v f g src 1 (fun w a _ t => if toSigned w a < toSigned w t then a else t))

/-- Signed maximum (R177) -/
def execVmax (v : VUnit) (f : ISfx) (g : Guard) (src : Src) (s : State) : Host.Outcome State Fault Refusal :=
  .next (s.laneI v f g src 1 (fun w a _ t => if toSigned w a < toSigned w t then t else a))

/-- Unsigned minimum (R177) -/
def execVminu (v : VUnit) (f : ISfx) (g : Guard) (src : Src) (s : State) : Host.Outcome State Fault Refusal :=
  .next (s.laneI v f g src 1 (fun _ a _ t => min a t))

/-- Unsigned maximum (R177) -/
def execVmaxu (v : VUnit) (f : ISfx) (g : Guard) (src : Src) (s : State) : Host.Outcome State Fault Refusal :=
  .next (s.laneI v f g src 1 (fun _ a _ t => max a t))

/-- Bitwise and (R177) -/
def execVand (v : VUnit) (f : ISfx) (g : Guard) (src : Src) (s : State) : Host.Outcome State Fault Refusal :=
  .next (s.laneI v f g src 1 (fun _ a _ t => a &&& t))

/-- Bitwise or (R177) -/
def execVor (v : VUnit) (f : ISfx) (g : Guard) (src : Src) (s : State) : Host.Outcome State Fault Refusal :=
  .next (s.laneI v f g src 1 (fun _ a _ t => a ||| t))

/-- Bitwise exclusive or (R177) -/
def execVxor (v : VUnit) (f : ISfx) (g : Guard) (src : Src) (s : State) : Host.Outcome State Fault Refusal :=
  .next (s.laneI v f g src 1 (fun _ a _ t => a ^^^ t))

/-- a and not t (R177) -/
def execVandn (v : VUnit) (f : ISfx) (g : Guard) (src : Src) (s : State) : Host.Outcome State Fault Refusal :=
  .next (s.laneI v f g src 1 (fun w a _ t => a &&& (2 ^ w - 1 - t)))

/-- Left shift by the low log2(w) bits of t (R177) -/
def execVshl (v : VUnit) (f : ISfx) (g : Guard) (src : Src) (s : State) : Host.Outcome State Fault Refusal :=
  .next (s.laneI v f g src 1 (fun w a _ t => a <<< (t % w)))

/-- Right shift with zeros (R177) -/
def execVshr (v : VUnit) (f : ISfx) (g : Guard) (src : Src) (s : State) : Host.Outcome State Fault Refusal :=
  .next (s.laneI v f g src 1 (fun w a _ t => a >>> (t % w)))

/-- Right shift with copies of the sign (R177) -/
def execVsra (v : VUnit) (f : ISfx) (g : Guard) (src : Src) (s : State) : Host.Outcome State Fault Refusal :=
  .next (s.laneI v f g src 1 (fun w a _ t => ofInt w (toSigned w a / 2 ^ (t % w))))

/-- |t|; the most negative value maps to itself (R177) -/
def execVabs (v : VUnit) (f : ISfx) (g : Guard) (src : Src) (s : State) : Host.Outcome State Fault Refusal :=
  .next (s.laneI v f g src 0 (fun w _ _ t => (toSigned w t).natAbs))

/-- −t (R177) -/
def execVneg (v : VUnit) (f : ISfx) (g : Guard) (src : Src) (s : State) : Host.Outcome State Fault Refusal :=
  .next (s.laneI v f g src 0 (fun w _ _ t => 2 ^ w - t))

/-- Leading zero bits, w for 0 (R177) -/
def execVclz (v : VUnit) (f : ISfx) (g : Guard) (src : Src) (s : State) : Host.Outcome State Fault Refusal :=
  .next (s.laneI v f g src 0 (fun w _ _ t => vclzElem w t))

/-- One bits (R177) -/
def execVpopc (v : VUnit) (f : ISfx) (g : Guard) (src : Src) (s : State) : Host.Outcome State Fault Refusal :=
  .next (s.laneI v f g src 0 (fun w _ _ t => popcGo w t))

/-- a + t (R178) -/
def execFadd (v : VUnit) (f : FSfx) (g : Guard) (src : Src) (s : State) : Host.Outcome State Fault Refusal :=
  .next (s.laneF v f g src 1 4 (fun p rm a _ t => faddE p rm a t))

/-- a − t (R178) -/
def execFsub (v : VUnit) (f : FSfx) (g : Guard) (src : Src) (s : State) : Host.Outcome State Fault Refusal :=
  .next (s.laneF v f g src 1 4 (fun p rm a _ t => fsubE p rm a t))

/-- a × t (R178) -/
def execFmul (v : VUnit) (f : FSfx) (g : Guard) (src : Src) (s : State) : Host.Outcome State Fault Refusal :=
  .next (s.laneF v f g src 1 4 (fun p rm a _ t => fmulE p rm a t))

/-- a × b + t, one rounding (R178) -/
def execFfma (v : VUnit) (f : FSfx) (g : Guard) (src : Src) (s : State) : Host.Outcome State Fault Refusal :=
  .next (s.laneF v f g src 2 4 (ffmaE))

/-- −(a × b) + t, one rounding (R178) -/
def execFnma (v : VUnit) (f : FSfx) (g : Guard) (src : Src) (s : State) : Host.Outcome State Fault Refusal :=
  .next (s.laneF v f g src 2 4 (fnmaE))

/-- The lesser operand (R179) -/
def execFmin (v : VUnit) (f : FSfx) (g : Guard) (src : Src) (s : State) : Host.Outcome State Fault Refusal :=
  .next (s.laneF v f g src 1 4 (fun p _ a _ t => fminmaxE p false a t))

/-- The greater operand (R179) -/
def execFmax (v : VUnit) (f : FSfx) (g : Guard) (src : Src) (s : State) : Host.Outcome State Fault Refusal :=
  .next (s.laneF v f g src 1 4 (fun p _ a _ t => fminmaxE p true a t))

/-- |t| (R178) -/
def execFabs (v : VUnit) (f : FSfx) (g : Guard) (src : Src) (s : State) : Host.Outcome State Fault Refusal :=
  .next (s.laneF v f g src 0 4 (fun p _ _ _ t => fabsE p t))

/-- −t (R178) -/
def execFneg (v : VUnit) (f : FSfx) (g : Guard) (src : Src) (s : State) : Host.Outcome State Fault Refusal :=
  .next (s.laneF v f g src 0 4 (fun p _ _ _ t => fnegE p t))

/-- 1/t (R180) -/
def execFrcp (v : VUnit) (f : FSfx) (g : Guard) (src : Src) (s : State) : Host.Outcome State Fault Refusal :=
  .next (s.laneF v f g src 0 8 (fun p rm _ _ t => fnE frcpN p rm t))

/-- 1/√t (R180) -/
def execFrsq (v : VUnit) (f : FSfx) (g : Guard) (src : Src) (s : State) : Host.Outcome State Fault Refusal :=
  .next (s.laneF v f g src 0 8 (fun p rm _ _ t => fnE frsqN p rm t))

/-- 2^t (R180) -/
def execFex2 (v : VUnit) (f : FSfx) (g : Guard) (src : Src) (s : State) : Host.Outcome State Fault Refusal :=
  .next (s.laneF v f g src 0 8 (fun p rm _ _ t => fnE fex2N p rm t))

/-- log2 t (R180) -/
def execFlg2 (v : VUnit) (f : FSfx) (g : Guard) (src : Src) (s : State) : Host.Outcome State Fault Refusal :=
  .next (s.laneF v f g src 0 8 (fun p rm _ _ t => fnE flg2N p rm t))

/-- a = t (R181) -/
def execVceq (v : VUnit) (f : ISfx) (g : Guard) (src : Src) (s : State) : Host.Outcome State Fault Refusal :=
  .next (s.compareI v f g src (fun _ a t => a = t))

/-- a ≠ t (R181) -/
def execVcne (v : VUnit) (f : ISfx) (g : Guard) (src : Src) (s : State) : Host.Outcome State Fault Refusal :=
  .next (s.compareI v f g src (fun _ a t => a ≠ t))

/-- a < t, signed (R181) -/
def execVclt (v : VUnit) (f : ISfx) (g : Guard) (src : Src) (s : State) : Host.Outcome State Fault Refusal :=
  .next (s.compareI v f g src (fun w a t => toSigned w a < toSigned w t))

/-- a ≤ t, signed (R181) -/
def execVcle (v : VUnit) (f : ISfx) (g : Guard) (src : Src) (s : State) : Host.Outcome State Fault Refusal :=
  .next (s.compareI v f g src (fun w a t => toSigned w a ≤ toSigned w t))

/-- a = t (R181) -/
def execFceq (v : VUnit) (f : FSfx) (g : Guard) (src : Src) (s : State) : Host.Outcome State Fault Refusal :=
  .next (s.compareF v f g src fceqE)

/-- a < t (R181) -/
def execFclt (v : VUnit) (f : FSfx) (g : Guard) (src : Src) (s : State) : Host.Outcome State Fault Refusal :=
  .next (s.compareF v f g src fcltE)

/-- a ≤ t (R181) -/
def execFcle (v : VUnit) (f : FSfx) (g : Guard) (src : Src) (s : State) : Host.Outcome State Fault Refusal :=
  .next (s.compareF v f g src fcleE)

/-- Whether either operand is a NaN (R181) -/
def execFunord (v : VUnit) (f : FSfx) (g : Guard) (src : Src) (s : State) : Host.Outcome State Fault Refusal :=
  .next (s.compareF v f g src funordE)

/-- The sum of the enabled elements, in every lane (R190) -/
def execRsum (v : VUnit) (f : QSfx) (g : Guard) (src : Src) (s : State) : Host.Outcome State Fault Refusal :=
  .next (s.trigger v.dom g src 0 (some 6) (fun tr =>
    let r := rsumOf f tr.rm tr.mask tr.t.vector
    s.deliver tr 6 (.vec (spread f r.1)) (fl := r.2) (mask := maskQ f tr.mask)))

/-- The maximum of the enabled elements, in every lane (R190) -/
def execRmax (v : VUnit) (f : QSfx) (g : Guard) (src : Src) (s : State) : Host.Outcome State Fault Refusal :=
  .next (s.trigger v.dom g src 0 (some 6) (fun tr =>
    let r := rextremeOf f true tr.mask tr.t.vector
    s.deliver tr 6 (.vec (spread f r.1)) (fl := r.2) (mask := maskQ f tr.mask)))

/-- The minimum of the enabled elements, in every lane (R190) -/
def execRmin (v : VUnit) (f : QSfx) (g : Guard) (src : Src) (s : State) : Host.Outcome State Fault Refusal :=
  .next (s.trigger v.dom g src 0 (some 6) (fun tr =>
    let r := rextremeOf f false tr.mask tr.t.vector
    s.deliver tr 6 (.vec (spread f r.1)) (fl := r.2) (mask := maskQ f tr.mask)))

/-- The inclusive prefix sum (R191) -/
def execScan (v : VUnit) (f : QSfx) (g : Guard) (src : Src) (s : State) : Host.Outcome State Fault Refusal :=
  .next (s.trigger v.dom g src 0 (some 8) (fun tr =>
    let r := scanOf f tr.rm tr.mask tr.t.vector
    s.deliver tr 8 (.vec r.1) (fl := r.2) (mask := maskQ f tr.mask)))

/-- lane(a, i) where lane(t, i) ≠ 0, else lane(b, i) (R182) -/
def execVsel (v : VUnit) (g : Guard) (src : Src) (s : State) : Host.Outcome State Fault Refusal :=
  .next (s.trigger v.dom g src 2 (some 2) (fun tr =>
    let r := lanesGo (fun a b t => (if t ≠ 0 then a else b, 0)) tr.mask.toNat tr.a.vector tr.b.vector tr.t.vector
    s.deliver tr 2 (.vec r.1)))

/-- lane(a, i) where the mask is 1, else lane(t, i), into every lane (R183) -/
def execVmerge (v : VUnit) (g : Guard) (src : Src) (s : State) : Host.Outcome State Fault Refusal :=
  .next (s.trigger v.dom g src 1 (some 2) (fun tr =>
    s.deliver tr 2 (.vec (blend tr.mask tr.a.vector tr.t.vector)) (mask := allLanes)))

/-- A format that no conversion reads or makes: an MX form, a storage type, a reserved code (R71, R72, R185). -/
def cvtBad (f : Nat) : Bool := isMX f || decide (24 ≤ f)

/-- Converts each element from FA to FO (R185) -/
def execCvt (v : VUnit) (g : Guard) (src : Src) (s : State) : Host.Outcome State Fault Refusal :=
  .next (s.trigger v.dom g src 0 (some 4) (fun tr =>
    if cvtBad tr.fa ∨ cvtBad tr.fo then s.raiseIn v.dom.slot { cause := .formatUnsupported }
    else
      let r := cvtVec tr.fa tr.fo (fld tr.fmt 17 3) tr.sat tr.mask (s.core.stream 0) tr.t.vector
      let wide := fieldBits tr.fa = 64 ∨ fieldBits tr.fo = 64
      (s.drew r.2.2).deliver tr 4 (.vec r.1) (fl := r.2.1) (mask := if wide then evenMask tr.mask else tr.mask)))

/-- Quantises the sources t under the codes a (R188) -/
def execQnt (v : VUnit) (g : Guard) (src : Src) (s : State) : Host.Outcome State Fault Refusal :=
  .next (s.trigger v.dom g src 1 (some 4) (fun tr =>
    if tr.mxBad then s.raiseIn v.dom.slot { cause := .formatUnsupported }
    else
      let r := drawLanes (fun gen a t =>
        let d := convRm (fld tr.fmt 17 3) tr.fo gen
        let q := mxQuant tr.fo d.1 (a.toNat % 256) (mxSrc tr.fa t)
        (BitVec.ofNat 32 q.1, q.2, d.2)) tr.mask.toNat (s.core.stream 0) tr.a.vector tr.t.vector
      (s.drew r.2.2).deliver tr 4 (.vec r.1) (fl := r.2.1)))

/-- The FP32 value of MX elements t under the codes a, or of D8 elements (R189) -/
def execDqt (v : VUnit) (g : Guard) (src : Src) (s : State) : Host.Outcome State Fault Refusal :=
  .next (s.trigger v.dom g src 1 (some 4) (fun tr =>
    if isMX tr.fa ∨ tr.fa = 10 then
      let w := fieldBits tr.fa
      let r := lanesGo (fun a _ t =>
        let x := if tr.fa = 10 then operandNum 10 (t.toNat % 256) else mxNum tr.fa (a.toNat % 256) (t.toNat % 2 ^ w)
        let q := roundNum 15 tr.rm false x
        (BitVec.ofNat 32 q.1, q.2)) tr.mask.toNat tr.a.vector tr.b.vector tr.t.vector
      s.deliver tr 4 (.vec r.1) (fl := r.2)
    else s.raiseIn v.dom.slot { cause := .formatUnsupported }))

/-- The scale code of each MX block (R187) -/
def execVAmax (v : VUnit) (g : Guard) (src : Src) (s : State) : Host.Outcome State Fault Refusal :=
  .next (s.trigger v.dom g src 0 (some 6) (fun tr =>
    if tr.mxBad then s.raiseIn v.dom.slot { cause := .formatUnsupported }
    else
      let cs := amaxCodes tr.fa tr.fo tr.scp tr.rm tr.mask tr.t.vector
      let code := fun (i : Nat) => (cs.getD i (0, 0)).1
      let four := fun (i : Nat) => code i + 256 * code (i + 1) + 65536 * code (i + 2) + 16777216 * code (i + 3)
      s.deliver tr 6 (.vec (vecOf (fun i => BitVec.ofNat 32 (code (i / 32)))))
        (v2 := some (.vec (vecOf (fun i => BitVec.ofNat 32 (if i = 0 then four 0 else if i = 1 then four 4 else 0)))))
        (fl := orFlags (cs.map (·.2)))))

/-- The low halves of the fields of a, then of t (R186) -/
def execPack (v : VUnit) (g : Guard) (src : Src) (s : State) : Host.Outcome State Fault Refusal :=
  .next (s.trigger v.dom g src 1 (some 4) (fun tr =>
    let w := fieldBits tr.fo
    if w = 2 ∨ w = 4 ∨ w = 8 ∨ w = 16 then
      let r := lanesGo (fun a _ t => (packLane w a t, 0)) tr.mask.toNat tr.a.vector tr.b.vector tr.t.vector
      s.deliver tr 4 (.vec r.1)
    else s.raiseIn v.dom.slot { cause := .formatUnsupported }))

/-- The fields of t, each extended: the low half on res, the high half on res2 (R186) -/
def execUnpack (v : VUnit) (g : Guard) (src : Src) (s : State) : Host.Outcome State Fault Refusal :=
  .next (s.trigger v.dom g src 0 (some 4) (fun tr =>
    let w := fieldBits tr.fo
    let signed := tr.fo = 0 ∨ tr.fo = 4 ∨ tr.fo = 11
    if w = 2 ∨ w = 4 ∨ w = 8 ∨ w = 16 then
      s.deliver tr 4 (.vec (tr.t.vector.map (unpackLane w (decide signed) false)))
        (v2 := some (.vec (tr.t.vector.map (unpackLane w (decide signed) true))))
    else s.raiseIn v.dom.slot { cause := .formatUnsupported }))

/-- Lane i := lane(a, (i − c) mod 256) (R192) -/
def execVrot (v : VUnit) (g : Guard) (src : Src) (s : State) : Host.Outcome State Fault Refusal :=
  .next (s.trigger v.dom g src 1 (some 3) (fun tr =>
    let c := fld (ctl tr.t) 0 8
    let a := tr.a.vector
    s.deliver tr 3 (.vec (a.drop (256 - c) ++ a.take (256 - c)))))

/-- Every lane := lane(a, c) (R192) -/
def execVbcast (v : VUnit) (g : Guard) (src : Src) (s : State) : Host.Outcome State Fault Refusal :=
  .next (s.trigger v.dom g src 1 (some 3) (fun tr =>
    let c := fld (ctl tr.t) 0 8
    let a := tr.a.vector
    s.deliver tr 3 (.vec (splat (lane a c)))))

/-- Lane 0 := lane(a, c), the others 0 (R192) -/
def execVext (v : VUnit) (g : Guard) (src : Src) (s : State) : Host.Outcome State Fault Refusal :=
  .next (s.trigger v.dom g src 1 (some 3) (fun tr =>
    let c := fld (ctl tr.t) 0 8
    let a := tr.a.vector
    s.deliver tr 3 (.vec (lane a c :: List.replicate 255 0))))

/-- lane(b, 0) at lane c, lane(a, i) elsewhere (R192) -/
def execVins (v : VUnit) (g : Guard) (src : Src) (s : State) : Host.Outcome State Fault Refusal :=
  .next (s.trigger v.dom g src 2 (some 3) (fun tr =>
    let c := fld (ctl tr.t) 0 8
    let a := tr.a.vector
    s.deliver tr 3 (.vec (lset a c (lane tr.b.vector 0)))))

/-- Loads a tile column (R193) -/
def execVld (v : VUnit) (g : Guard) (src : Src) (s : State) : Host.Outcome State Fault Refusal :=
  .next (s.vLoad v g src 8 (fun tr i => (ctl tr.a).toNat + 64 * i))

/-- Stores a tile column (R193) -/
def execVst (v : VUnit) (g : Guard) (src : Src) (s : State) : Host.Outcome State Fault Refusal :=
  .next (s.vStore v g src 8 (fun tr i => (ctl tr.b).toNat + 64 * i))

/-- A strided load (R193) -/
def execVlds (v : VUnit) (g : Guard) (src : Src) (s : State) : Host.Outcome State Fault Refusal :=
  .next (s.vLoad v g src 8 (fun tr i => (ctl tr.a).toNat + strideOf tr * i))

/-- A strided store (R193) -/
def execVsts (v : VUnit) (g : Guard) (src : Src) (s : State) : Host.Outcome State Fault Refusal :=
  .next (s.vStore v g src 8 (fun tr i => (ctl tr.b).toNat + strideOf tr * i))

/-- A gather by an offset vector (R193) -/
def execVgth (v : VUnit) (g : Guard) (src : Src) (s : State) : Host.Outcome State Fault Refusal :=
  .next (s.vLoad v g src 12 (fun tr i => (lane tr.a.vector i).toNat))

/-- A scatter by an offset vector (R193) -/
def execVsct (v : VUnit) (g : Guard) (src : Src) (s : State) : Host.Outcome State Fault Refusal :=
  .next (s.vStore v g src 12 (fun tr i => (lane tr.b.vector i).toNat))

/-- Delivers a spill line (R196) -/
def execVsld (v : VUnit) (g : Guard) (src : Src) (s : State) : Host.Outcome State Fault Refusal :=
  .next (s.trigger v.dom g src 0 (some 1) (fun tr =>
    s.deliver tr 1 (.vec (s.core.line (fld (ctl tr.t) 0 6)))))

/-- Writes a spill line, from the next bundle on (R196) -/
def execVsst (v : VUnit) (g : Guard) (src : Src) (s : State) : Host.Outcome State Fault Refusal :=
  .next (s.trigger v.dom g src 1 none (fun tr =>
    s.effects tr [.spillLine (fld (ctl tr.t) 0 6) tr.a.vector tr.mask]))

end Sys2Proof.Machine
end

