-- ==== Sys2Proof/Machine/Perm.lean ====
section
/-! DEFINITION. Permutation registers and the Mule, masks, rings (09_vector_permutation: R197 to R209). -/

namespace Sys2Proof.Machine

/-! ### Permutations as index lists (R197, R200) -/

/-- The register with `q` applied to every entry of `p`: entry i is q[p[i]]. -/
def permComp (p q : List Nat) : List Nat := p.map (fun i => q.getD i 0)

/-- The place of value v among the entries. -/
def permInv (p : List Nat) : List Nat := (List.range 256).map (fun v => p.idxOf v)

/-- p^e by the bits of e, low end first. -/
def permPowGo : Nat → List Nat → List Nat → Nat → List Nat
  | 0, acc, _, _ => acc
  | n + 1, acc, sq, e => permPowGo n (if e % 2 = 1 then permComp acc sq else acc) (permComp sq sq) (e / 2)

def permPow (p : List Nat) (e : Int) : List Nat :=
  let q := permPowGo 16 idPerm p e.natAbs
  if e < 0 then permInv q else q

/-- Steps of p from `x` until `i` comes back, at most `fuel`. -/
def cycleFrom (p : List Nat) (i : Nat) : Nat → Nat → Nat
  | 0, _ => 0
  | n + 1, x => if x = i then 1 else 1 + cycleFrom p i n (p.getD x 0)

/-- Whether `i` is the least entry of its cycle: no step from `x` on, before `i` comes back, falls below it. -/
def leastFrom (p : List Nat) (i : Nat) : Nat → Nat → Bool
  | 0, _ => true
  | n + 1, x => if x = i then true else if x < i then false else leastFrom p i n (p.getD x 0)

/-- The cycle lengths, by least entry. -/
def cycleLens (p : List Nat) : List Nat :=
  ((List.range 256).filter (fun i => leastFrom p i 256 (p.getD i 0))).map (fun i => cycleFrom p i 256 (p.getD i 0))

def fixedPoints (p : List Nat) : Nat := ((List.range 256).filter (fun i => p.getD i 0 = i)).length

/-- The first lane whose value occurs in a lower lane, and the lowest value that occurs in none; none for a bijection
(R201). -/
def firstDup : List Nat → List Nat → Option Nat
  | _, [] => none
  | seen, x :: l => if seen.contains x then some x else firstDup (x :: seen) l

def permFault (l : List Nat) : Option (Nat × Nat) :=
  (firstDup [] l).map (fun d => (d, ((List.range 256).find? (fun v => !l.contains v)).getD 0))

/-- The shuffle of prand: `i` from n down to 1 (R202). -/
def shuffle : Nat → W64 → List Nat → List Nat × W64
  | 0, gen, v => (v, gen)
  | n + 1, gen, v =>
    let g := drawStep gen
    let j := drawOf g * (n + 2) / 2 ^ 32
    shuffle n g (lset (lset v (n + 1) (v.getD j 0)) j (v.getD (n + 1) 0))

/-! ### The settings of the Dunsil network (R198, R199) -/

/-- Settings are the numbers of the switches that cross, 128 × stage + switch. `out` and `inn` hold the switches set
so far, keyed by their number in the subnetwork. -/
structure SolveSt where
  out : List (Nat × Nat) := []
  inn : List (Nat × Nat) := []

/-- The loop that starts at an output port and follows partner ports. -/
def solveLoop (pi inv : List Nat) (side : Nat) : Nat → Nat → SolveSt → SolveSt
  | 0, _, st => st
  | n + 1, o, st =>
    let st := { st with out := aput st.out (o / 2) ((o % 2) ^^^ side) }
    let i := pi.getD o 0
    if (alook st.inn (i / 2)).isSome then st
    else
      let st := { st with inn := aput st.inn (i / 2) ((i % 2) ^^^ side) }
      solveLoop pi inv side n ((inv.getD (i ^^^ 1) 0) ^^^ 1) st

/-- One subnetwork of `2 ^ (n + 1)` ports at depth d, number m: the switches that cross. -/
def solveGo : Nat → List Nat → Nat → Nat → List Nat
  | 0, pi, _, m => if pi.getD 0 0 ≠ 0 then [128 * 7 + m] else []
  | n + 1, pi, d, m =>
    let half := 2 ^ (n + 1)
    let inv := (List.range (2 * half)).map (fun v => pi.idxOf v)
    let st := (List.range half).foldl (fun st k =>
      if (alook st.out k).isSome then st else solveLoop pi inv 0 half (2 * k) st) ({} : SolveSt)
    let o := fun k => (alook st.out k).getD 0
    let i := fun k => (alook st.inn k).getD 0
    let up := (List.range half).map (fun k => pi.getD (2 * k + o k) 0 / 2)
    let lo := (List.range half).map (fun k => pi.getD (2 * k + 1 - o k) 0 / 2)
    ((List.range half).filter (fun k => i k = 1)).map (fun k => 128 * d + m * half + k) ++
    ((List.range half).filter (fun k => o k = 1)).map (fun k => 128 * (14 - d) + m * half + k) ++
    solveGo n up (d + 1) (2 * m) ++ solveGo n lo (d + 1) (2 * m + 1)

/-- The settings of an index form, as 1,920 bits (R197, R199). -/
def solve (p : List Nat) : Nat := (solveGo 7 p 0 0).foldl (fun acc k => acc + 2 ^ k) 0

/-! ### Shared shapes -/

/-- The control word of a permutation operation (R197). -/
def pPD (t : BitVec 32) : Nat := fld t 0 4
def pPA (t : BitVec 32) : Nat := fld t 4 4
def pPB (t : BitVec 32) : Nat := fld t 8 4

/-- A write of a permutation register, after its latency; it commits the restart shadow (R203). -/
def State.permWrite (s : State) (v : VUnit) (tr : Trig) (lat pd : Nat) (p : List Nat) (solve : Bool) : State :=
  s.effects tr [.permWr { due := tr.now + lat, trig := tr.now, v := v, pd := pd, val := p, solve := solve }, .commit]

/-- A mask operation's write, one bundle later (R204). -/
def State.maskOp (s : State) (v : VUnit) (g : Guard) (src : Src) (f : Mask → Mask → Mask) : State :=
  s.trigger v.dom g src 0 none (fun tr =>
    let t := ctl tr.t
    s.effects tr [.maskWr { due := tr.now + 1, trig := tr.now, v := v, kd := fld t 0 4,
                            val := f (s.core.mask (fld t 4 4)) (s.core.mask (fld t 8 4)) }])

/-- One number in every lane, whatever the mask. -/
def State.allLanesOf (s : State) (tr : Trig) (lat n : Nat) (n2 : Option Nat) : State :=
  s.deliver tr lat (.vec (splat (BitVec.ofNat 32 n))) (v2 := n2.map (fun x => .vec (splat (BitVec.ofNat 32 x)))) (mask := allLanes)

def maskCount (m : Mask) : Nat := popcGo 256 m.toNat

/-- Whether rbind raises ILLEGAL_MOVE (R206). -/
def State.rbindBad (s : State) (v : VUnit) (q : Nat) (r : Ring) : Bool :=
  let c := s.me
  let file := match r.store with
    | 0 => some (c.rega, VUnit.v0)
    | 1 => some (c.regb, VUnit.v1)
    | _ => none
  let ports := (if r.ten then [r.tp] else []) ++ (if (s.core.ring q).ten then [(s.core.ring q).tp] else [])
  decide (r.depM1 < r.fm1) || decide (r.depM1 < r.em1) || r.store = 2 ||
    (match file with
     | some (n, u) => r.base = 0 || decide (n < r.base + r.depth) || u ≠ v
     | none => false) ||
    s.core.inflight.any (fun x => rtKind x.rt = 4 && ports.contains (rtIdx x.rt))

/-! ### Meanings -/

/-- PD := the index vector t, once it is a bijection (R200, R201). -/
def execPload (v : VUnit) (g : Guard) (src : Src) (s : State) : Host.Outcome State Fault Refusal :=
  .next (s.trigger v.dom g src 1 none (fun tr =>
    let l := tr.t.vector.map (fun (x : BitVec 32) => x.toNat % 256)
    match permFault l with
    | some (d, m) => s.raiseIn v.dom.slot { cause := .permInvalid, info := BitVec.ofNat 64 (d + 256 * m) }
    | none => s.permWrite v tr 14 (pPD (ctl tr.a)) l true))

/-- Delivers the index form of PA (R200). -/
def execPstore (v : VUnit) (g : Guard) (src : Src) (s : State) : Host.Outcome State Fault Refusal :=
  .next (s.trigger v.dom g src 0 (some 3) (fun tr =>
    s.deliver tr 3 (.vec ((s.core.perm (pPA (ctl tr.t))).map (BitVec.ofNat 32))) (mask := allLanes)))

/-- PD[i] := PB[PA[i]] (R200). -/
def execPcomp (v : VUnit) (g : Guard) (src : Src) (s : State) : Host.Outcome State Fault Refusal :=
  .next (s.trigger v.dom g src 0 none (fun tr =>
    let t := ctl tr.t
    s.permWrite v tr 14 (pPD t) (permComp (s.core.perm (pPA t)) (s.core.perm (pPB t))) true))

/-- PD[PA[i]] := i (R200). -/
def execPinv (v : VUnit) (g : Guard) (src : Src) (s : State) : Host.Outcome State Fault Refusal :=
  .next (s.trigger v.dom g src 0 none (fun tr =>
    let t := ctl tr.t
    s.permWrite v tr 14 (pPD t) (permInv (s.core.perm (pPA t))) true))

/-- A random permutation from 255 draws of the context generator (R202). -/
def execPrand (v : VUnit) (g : Guard) (src : Src) (s : State) : Host.Outcome State Fault Refusal :=
  .next (s.trigger v.dom g src 0 none (fun tr =>
    let r := shuffle 255 (s.core.stream 0) idPerm
    (s.drew r.2).permWrite v tr 14 (pPD (ctl tr.t)) r.1 true))

/-- PD := the identity (R200). -/
def execPid (v : VUnit) (g : Guard) (src : Src) (s : State) : Host.Outcome State Fault Refusal :=
  .next (s.trigger v.dom g src 0 none (fun tr => s.permWrite v tr 1 (pPD (ctl tr.t)) idPerm false))

/-- PD := PA^E (R200). -/
def execPpow (v : VUnit) (g : Guard) (src : Src) (s : State) : Host.Outcome State Fault Refusal :=
  .next (s.trigger v.dom g src 0 none (fun tr =>
    let t := ctl tr.t
    s.permWrite v tr 14 (pPD t) (permPow (s.core.perm (pPA t)) (toSigned 16 (fld t 16 16))) true))

/-- Lane i := lane(a, PA[i]), masked (R200). -/
def execPapply (v : VUnit) (g : Guard) (src : Src) (s : State) : Host.Outcome State Fault Refusal :=
  .next (s.trigger v.dom g src 1 (some 3) (fun tr =>
    let a := tr.a.vector
    s.deliver tr 3 (.vec ((s.core.perm (pPA (ctl tr.t))).map (fun i => lane a i)))))

/-- The number of cycles of PA (R200). -/
def execPcyc (v : VUnit) (g : Guard) (src : Src) (s : State) : Host.Outcome State Fault Refusal :=
  .next (s.trigger v.dom g src 0 (some 10) (fun tr => s.allLanesOf tr 10 (cycleLens (s.core.perm (pPA (ctl tr.t)))).length none))

/-- The fixed points of PA, and how many (R200). -/
def execPfix (v : VUnit) (g : Guard) (src : Src) (s : State) : Host.Outcome State Fault Refusal :=
  .next (s.trigger v.dom g src 0 (some 10) (fun tr =>
    let p := s.core.perm (pPA (ctl tr.t))
    s.deliver tr 10 (.vec (vecOf (fun i => if p.getD i 0 = i then BitVec.allOnes 32 else 0)))
      (v2 := some (.vec (splat (BitVec.ofNat 32 (fixedPoints p))))) (mask := allLanes)))

/-- The order of PA: low and high word of the least common multiple of its cycle lengths (R200). -/
def execPorder (v : VUnit) (g : Guard) (src : Src) (s : State) : Host.Outcome State Fault Refusal :=
  .next (s.trigger v.dom g src 0 (some 10) (fun tr =>
    let n := (cycleLens (s.core.perm (pPA (ctl tr.t)))).foldl Nat.lcm 1
    s.allLanesOf tr 10 n (some (n / 2 ^ 32))))

/-- KD := KA and KB (R204). -/
def execMand (v : VUnit) (g : Guard) (src : Src) (s : State) : Host.Outcome State Fault Refusal :=
  .next (s.maskOp v g src (fun a b => a &&& b))

/-- KD := KA or KB (R204). -/
def execMor (v : VUnit) (g : Guard) (src : Src) (s : State) : Host.Outcome State Fault Refusal :=
  .next (s.maskOp v g src (fun a b => a ||| b))

/-- KD := KA xor KB (R204). -/
def execMxor (v : VUnit) (g : Guard) (src : Src) (s : State) : Host.Outcome State Fault Refusal :=
  .next (s.maskOp v g src (fun a b => a ^^^ b))

/-- KD := not KA (R204). -/
def execMnot (v : VUnit) (g : Guard) (src : Src) (s : State) : Host.Outcome State Fault Refusal :=
  .next (s.maskOp v g src (fun a _ => ~~~a))

/-- The number of 1 bits of KA (R204). -/
def execMcnt (v : VUnit) (g : Guard) (src : Src) (s : State) : Host.Outcome State Fault Refusal :=
  .next (s.trigger v.dom g src 0 (some 1) (fun tr => s.allLanesOf tr 1 (maskCount (s.core.mask (fld (ctl tr.t) 4 4))) none))

/-- The lowest set index of KA, or 256 (R204). -/
def execMfirst (v : VUnit) (g : Guard) (src : Src) (s : State) : Host.Outcome State Fault Refusal :=
  .next (s.trigger v.dom g src 0 (some 1) (fun tr =>
    s.allLanesOf tr 1 (ctzGo 256 (s.core.mask (fld (ctl tr.t) 4 4)).toNat) none))

/-- Advances a head by n (R207). -/
def execRadv (v : VUnit) (g : Guard) (src : Src) (s : State) : Host.Outcome State Fault Refusal :=
  .next (s.trigger v.dom g src 0 none (fun tr =>
    let t := ctl tr.t
    if 64 < fld t 3 7 ∨ (s.core.headRing (fld t 0 3)).isNone then s.raiseIn v.dom.slot { cause := .illegalMove }
    else s.effects tr [.radv (fld t 0 3) (fld t 3 7)]))

/-- Advances a tail by n (R207). -/
def execRpush (v : VUnit) (g : Guard) (src : Src) (s : State) : Host.Outcome State Fault Refusal :=
  .next (s.trigger v.dom g src 0 none (fun tr =>
    let t := ctl tr.t
    if 64 < fld t 3 7 ∨ (s.core.tailRing (fld t 0 3)).isNone then s.raiseIn v.dom.slot { cause := .illegalMove }
    else s.effects tr [.rpush (fld t 0 3) (fld t 3 7)]))

/-- Binds a ring, empty (R206). -/
def execRbind (v : VUnit) (g : Guard) (src : Src) (s : State) : Host.Outcome State Fault Refusal :=
  .next (s.trigger v.dom g src 2 none (fun tr =>
    let a := ctl tr.a
    let t := ctl tr.t
    let r : Ring :=
      { store := fld a 16 2, base := fld a 0 16, line := if fld a 16 2 = 3 then fld (ctl tr.b) 0 19 else 0, depM1 := fld a 18 6,
        hl := fld t 4 3, hen := bit t 7, fm1 := fld t 8 6, tp := fld t 14 3, ten := bit t 17, em1 := fld t 18 6 }
    if s.rbindBad v (fld t 0 4) r then s.raiseIn v.dom.slot { cause := .illegalMove }
    else s.effects tr [.rbind (fld t 0 4) r]))

/-- The levels of a ring (R208). -/
def execRlvl (v : VUnit) (g : Guard) (src : Src) (s : State) : Host.Outcome State Fault Refusal :=
  .next (s.trigger v.dom g src 0 (some 1) (fun tr =>
    let r := s.core.ring (fld (ctl tr.t) 0 4)
    s.allLanesOf tr 1 (pack [(0, 7, r.filled), (7, 7, r.infl), (14, 6, r.head), (20, 6, r.tail), (26, 1, b2n r.hen), (27, 1, b2n r.ten)])
      none))

end Sys2Proof.Machine
end

