-- ==== Sys2Proof/Machine/Area.lean ====
section
/-! DEFINITION. A core's state as bytes: what a save lays down and how it comes back (R103, R104), and what readback shows of a
suspended context and management writes (R109). -/

namespace Sys2Proof.Machine

/-! ### Values as bytes (R6) -/

def vecBytes (v : Vec) : List Byte := v.flatMap (fun x => bytesLE 4 x.toNat)

def vecOfBytes (bs : List Byte) : Vec := vecOf (fun i => BitVec.ofNat 32 (natLE ((bs.drop (4 * i)).take 4)))

def valBytes : Val → List Byte
  | .sc x => bytesLE 8 x.toNat
  | .vec v => vecBytes v

def wordsBytes (ws : List Nat) : List Byte := ws.flatMap (bytesLE 8)

/-- A ring descriptor as R205 lays it out. -/
def Ring.word (r : Ring) : Nat :=
  pack [(0, 2, r.store), (2, 16, r.base), (18, 19, r.line), (37, 6, r.depM1), (43, 6, r.head), (49, 6, r.tail), (55, 7, r.filled),
    (64, 7, r.infl), (71, 3, r.hl), (74, 1, b2n r.hen), (75, 6, r.fm1), (81, 3, r.tp), (84, 1, b2n r.ten), (85, 6, r.em1)]

def ringOfWord (w : Nat) : Ring where
  store := nfld w 0 2
  base := nfld w 2 16
  line := nfld w 18 19
  depM1 := nfld w 37 6
  head := nfld w 43 6
  tail := nfld w 49 6
  filled := nfld w 55 7
  infl := nfld w 64 7
  hl := nfld w 71 3
  hen := nfld w 74 1 = 1
  fm1 := nfld w 75 6
  tp := nfld w 81 3
  ten := nfld w 84 1 = 1
  em1 := nfld w 85 6

/-- A permutation register in both forms (R199). -/
def permBytes (p : List Nat) : List Byte := p.map (BitVec.ofNat 8) ++ bytesLE 240 (solve p) ++ bytesLE 16 0

/-! ### The fixed part of a save (R103) -/

def NestLevel.words (l : NestLevel) : List Nat :=
  [l.word.toNat, l.idx] ++ l.ents.map (fun e => pack [(0, 2, e.kind), (2, 6, e.idx), (16, 48, e.stride.toNat)])

/-- Batch state of an engine. -/
def CEngine.batchWords (e : CEngine) : List Nat :=
  let counts := (e.closed.take 16).map (fun b => (e.cmds.filter (fun c => c.batch = b)).length)
  let word := fun (j : Nat) => pack ((List.range 4).map (fun i => (16 * i, 16, counts.getD (4 * j + i) 0)))
  [pack [(0, 6, e.openN), (16, 5, e.closed.length)], word 0, word 1, word 2, word 3, 0, 0, 0]

def CmdSt.num : CmdSt → Nat
  | .queued => 0
  | .running => 1
  | .faulted => 2

/-- The two lines of a command; its coordinate block is that of its tensor endpoint. The batch of a command that belongs to no closed
batch is written as their number, which R103 leaves open (DESIGN CHOICE, log 29). -/
def Cmd.saveWords (c : Cmd) (closed : List Nat) : List Nat :=
  let g := fun (j : Nat) => (c.g j).toNat
  let coords := if epT c.srcw then c.srcC else c.dstC
  let batch := (closed.idxOf? c.batch).getD closed.length
  [c.word.toNat, pack [(0, 6, c.op), (8, 2, c.st.num), (16, 5, batch)], c.elem, g 0, g 1, g 2, g 3, g 4, g 5, g 6, g 7] ++
    (List.range 3).map (fun j => (coords.getD j 0).toNat) ++ [0, 0]

def CEngine.saveWords (e : CEngine) : List Nat :=
  let l := (e.cmds.take 32).flatMap (fun c => c.saveWords e.closed)
  l ++ List.replicate (512 - l.length) 0

/-- The 1,280 words of the fixed part. -/
def CoreSt.fixedWords (c : CoreSt) : List Nat :=
  let r := fun (d : Dom) => (c.rtOf d).toNat
  [c.pc, c.guards.toNat % 256, c.fst.toNat, c.fmt.toNat, (c.stream 0).toNat,
   pack [(0, 4, c.mkOf .v0), (4, 4, c.mkOf .v1), (8, 5, c.dixOf .c0), (16, 5, c.dixOf .c1), (24, 8, c.spx), (32, 2, c.ntp), (36, 3, c.nxts.length)],
   pack [(0, 16, r .s), (16, 16, r .v0), (32, 16, r .v1), (48, 16, r .m)], pack [(0, 16, r .c0), (16, 16, r .c1)]] ++
  (List.range 4).map (fun i => (c.ntReg i).toNat) ++ [(c.stream 1).toNat, (c.stream 2).toNat, (c.stream 3).toNat, 0] ++
  (List.range 6).flatMap (fun l => (c.level (l + 1)).words) ++ [0, 0, 0, 0] ++
  (List.range 16).flatMap (fun k => (List.range 4).map (fun j => fld (c.mask k) (64 * j) 64)) ++
  c.eng0.batchWords ++ c.eng1.batchWords ++ c.eng0.saveWords ++ c.eng1.saveWords ++ List.replicate 96 0

/-! ### Spaces of a core (R14, R109) -/

/-- An input file: how many entries are unread, the entry read last, and four places, each a value and the bundles that pass
before it is readable (log 16). -/
def readInput (now : Nat) (f : InFile) : List Byte :=
  let size := (valBytes f.last).length + 8
  let q := (f.q.take 4).flatMap (fun x => valBytes x.1 ++ bytesLE 8 (x.2 - now))
  bytesLE 8 f.q.length ++ valBytes f.last ++ q ++ List.replicate (4 * size - q.length) 0

/-- A value of a domain from its bytes. -/
def valOfBytes (d : Dom) (bs : List Byte) : Val :=
  match d with
  | .v0 | .v1 => .vec (vecOfBytes (bs.take 1024))
  | _ => .sc (BitVec.ofNat 64 (natLE (bs.take 8)))

def valSize (d : Dom) : Nat :=
  match d with
  | .v0 | .v1 => 1024
  | _ => 8

def inputOfBytes (d : Dom) (now : Nat) (bs : List Byte) : InFile :=
  let n := valSize d
  let at_ := fun (i : Nat) => bs.drop (8 + n + i * (n + 8))
  { last := valOfBytes d (bs.drop 8),
    q := (List.range (min 4 (natLE (bs.take 8)))).map (fun i => (valOfBytes d (at_ i), now + natLE (((at_ i).drop n).take 8))) }

/-- A K-block column of a B-store half: what the column is, its exponent, its aligned significands (log 16). -/
def BBlock.bytes (b : BBlock) : List Byte :=
  bytesLE 8 (pack [(0, 1, b2n b.special), (1, 1, b2n b.zero), (2, 1, b2n b.inx), (8, 8, b.q.length)]) ++ bytesLE 8 (ofInt 64 b.exp) ++
    b.q.flatMap (fun x => bytesLE 16 (ofInt 128 x)) ++ List.replicate (16 * (16 - b.q.length)) 0

def bblockOf (bs : List Byte) : BBlock :=
  let f := natLE (bs.take 8)
  let int := fun (n off : Nat) => (BitVec.ofNat (8 * n) (natLE ((bs.drop off).take n))).toInt
  { special := nfld f 0 1 = 1, zero := nfld f 1 1 = 1, inx := nfld f 2 1 = 1, exp := int 8 8,
    q := (List.range (min 16 (nfld f 8 8))).map (fun i => int 16 (16 + 16 * i)) }

/-- The contents of a half: how many columns are listed, then each under its place. -/
def Half.contents (h : Half) : List Byte := bytesLE 8 h.cols.length ++ h.cols.flatMap (fun c => bytesLE 8 c.1 ++ c.2.bytes)

def Half.bytes (h : Half) : List Byte := bytesLE 8 h.word.toNat ++ h.contents

/-- A half from its bytes, and how many they are. -/
def halfOf (bs : List Byte) : Half × Nat :=
  let w := natLE (bs.take 8)
  let n := natLE ((bs.drop 8).take 8)
  let col := fun (i : Nat) => bs.drop (16 + 280 * i)
  ({ cls := nfld w 0 3, fb := nfld w 3 5, kbv := nfld w 8 9,
     cols := (List.range n).foldl (fun m i => aput m (natLE ((col i).take 8)) (bblockOf ((col i).drop 8))) [] }, 16 + 280 * n)

/-- What the mark in force holds (R101): its place, guards, masks, rings with heads and tails, nest, FST, formats, generator. -/
def Mark.bytes (m : Mark) : List Byte :=
  wordsBytes ([m.pc, m.guards.toNat, m.fst.toNat, m.fmt.toNat, m.gen0.toNat] ++
    (List.range 6).flatMap (fun l => (sget ({} : NestLevel) m.nest (l + 1)).words) ++
    (List.range 16).flatMap (fun k => (List.range 4).map (fun j => fld (sget (0 : Mask) m.masks k) (64 * j) 64))) ++
  (List.range 16).flatMap (fun q => bytesLE 16 (sget ({} : Ring) m.rings q).word)

/-- Which register an entry of the shadow is: its kind (0 s-file, 1 a- and b-file, 2 spill word, 3 spill line) and number. -/
def ShKey.code : ShKey → Nat
  | .sreg i => i
  | .vreg i => 2 ^ 16 + i
  | .word i => 2 * 2 ^ 16 + i
  | .line i => 3 * 2 ^ 16 + i

/-- A gated store: its segment, and its pieces, each with its offset and length. -/
def GStore.bytes (g : GStore) : List Byte :=
  wordsBytes [g.seg, g.pieces.length] ++ g.pieces.flatMap (fun p => wordsBytes [p.1, p.2.length] ++ p.2)

/-- A list of words behind its length. -/
def counted (ws : List Nat) : List Nat := ws.length :: ws

/-- Pairs as words behind their number. -/
def countedPairs (ps : List (Nat × Nat)) : List Nat := ps.length :: ps.flatMap (fun p => [p.1, p.2])

/-- The number of an optional thing, 0 for none. -/
def optNum (x : Option Nat) : Nat :=
  match x with
  | some n => n + 1
  | none => 0

def MKind.num : MKind → Nat
  | .call => 0
  | .mload => 1
  | .bload => 2
  | .bswap => 3
  | .accz => 4
  | .accrel => 5

/-- A command of the M queue. How management sees it, and what else no map of the spec lays out, is log 16's. -/
def MCmd.words (x : MCmd) : List Nat :=
  [x.kind.num, x.seq, x.o0.toNat, x.o1.toNat, x.word.toNat, x.fmt.toNat, x.bidx, x.cid, x.task,
   pack [(0, 1, b2n x.timed), (1, 1, b2n x.cm), (2, 1, b2n x.marked), (3, 1, b2n x.faulted), (4, 1, b2n x.auto)]] ++
  counted (x.wps.map BitVec.toNat) ++ counted x.pins ++ counted x.wait ++ counted x.held

def MicroLoop.words (l : MicroLoop) : List Nat := [b2n l.armed, l.body, l.trips, l.idx]

def Epilogue.words (e : Epilogue) : List Nat :=
  [e.scaleMode, e.biasMode, e.act, e.shift, e.mode, e.codes.toNat] ++ counted (e.scale.map BitVec.toNat) ++ counted (e.bias.map BitVec.toNat)

def Routine.words (r : Routine) : List Nat :=
  r.call.words ++ [r.mpc, r.skip, r.done, r.flags.toNat, r.gen1.toNat, b2n r.faulted, b2n r.restart] ++ counted (r.wp.map BitVec.toNat) ++
    counted r.held ++ (r.ranges.length :: r.ranges.flatMap (fun x => [x.1, x.2.1, x.2.2])) ++
    (r.loops.length :: r.loops.flatMap (fun x => x.1 :: x.2.words)) ++ r.epi.words ++ counted r.sigs

def SlotSt.num : SlotSt → Nat
  | .empty => 0
  | .filling => 1
  | .full => 2

def Matrix.words (m : Matrix) : List Nat :=
  [m.seq, optNum m.lastCall, b2n m.active, m.zeroTag.toNat, m.macros, b2n m.warm] ++ counted (m.slots.map SlotSt.num) ++ countedPairs m.relPend

def Gate.words : Gate → List Nat
  | .waitb u n => [0, u.num, n]
  | .bwait u n => [1, u.num, n]
  | .drain u n => [2, u.num, n]

/-- What a core waits to bring into force, with the bundles still to pass. -/
def CoreSt.pendingWords (c : CoreSt) : List Nat :=
  (c.fmtq.length :: c.fmtq.flatMap (fun f => [f.due - c.issued, f.val.toNat])) ++
  (c.nxts.length :: c.nxts.flatMap (fun x => [x.1, x.2.1, optNum (x.2.2.1.map BitVec.toNat), x.2.2.2 - c.issued])) ++
  countedPairs (c.branches.map (fun b => (b.1 - c.issued, b.2))) ++ (c.gates.length :: c.gates.flatMap Gate.words)

def SigKind.words : SigKind → List Nat
  | .dec n => [0, n]
  | .arrive n => [1, n]
  | .bytes n => [2, n]
  | .expect n a => [3, n, b2n a]
  | .depset b v => [4, b2n b, v]

def Signal.words (x : Signal) : List Nat := [x.cid, x.clu, x.n, x.src, x.core, x.eng, x.at_, x.sent] ++ x.kind.words

/-- All of a command, beside its two lines of R103. -/
def Cmd.words (c : Cmd) (closed : List Nat) : List Nat :=
  c.saveWords closed ++ [c.id, c.fmt.toNat, c.bidx, c.cid, c.task, c.batch, c.total, c.unsig, c.flags.toNat, c.chunk,
    pack [(0, 1, b2n c.timed), (1, 1, b2n c.cm), (2, 1, b2n c.local_), (3, 1, b2n c.acq), (4, 1, b2n c.performed), (5, 1, b2n c.ready), (6, 1, b2n c.auto)]] ++
  counted (c.srcC.map BitVec.toNat) ++ counted (c.dstC.map BitVec.toNat) ++ counted c.perm ++ counted c.pins ++ countedPairs c.locks ++
  counted c.held ++ countedPairs c.pages ++ countedPairs c.wtiles ++ countedPairs c.stiles ++ countedPairs c.rtiles ++ counted c.wait ++
  countedPairs (c.acc.map (fun p => (p.1, p.2.toNat)))

def SubSt.words (x : SubSt) : List Nat :=
  [x.cid, x.task, x.bidx, x.ring, x.rows, x.next, x.back, x.src.toNat, x.dst.toNat, x.sigw.toNat, pack [(0, 1, b2n x.ret), (1, 1, b2n x.faulted), (2, 1, b2n x.auto)]] ++
  counted (x.srcC.map BitVec.toNat) ++ counted (x.dstC.map BitVec.toNat) ++ counted x.held ++ countedPairs x.pages

def accRowBytes (m : Matrix) (acc row : Nat) : List Byte :=
  if bit m.zeroTag acc then List.replicate 256 0
  else (sdense (0 : W32) m.accs (acc * 16384 + row * 64) 64).flatMap (fun x => bytesLE 4 x.toNat)

/-- The bytes of a space; none outside its range. -/
def CoreSt.image (c : CoreSt) (r : CoreSpace) : Option (List Byte) :=
  match r with
  | .sreg i => if i < 64 then some (bytesLE 8 (c.sreg i).toNat) else none
  | .vreg b i => if i < 320 then some (vecBytes (c.vreg (i + if b then 320 else 0))) else none
  | .guards => some (bytesLE 1 (c.guards.toNat ||| 1))
  | .maskReg i => if i < 16 then some (bytesLE 32 (c.mask i).toNat) else none
  | .permReg i => if i < 16 then some (permBytes (c.perm i)) else none
  | .inputFile d second => some (readInput c.issued (c.input d second))
  | .ringDesc i => if i < 16 then some (bytesLE 16 (c.ring i).word) else none
  | .spillWord i => if i < 256 then some (bytesLE 8 (c.word i).toNat) else none
  | .spillLine i => if i < 64 then some (vecBytes (c.line i)) else none
  | .dword u i => if i < 32 then some (bytesLE 8 (c.dword u i).toNat) else none
  | .mreg i => if i < 8 then some (bytesLE 8 (c.mreg i).toNat) else none
  | .accRow a row => if a < 8 ∧ row < 256 then some (accRowBytes c.mat a row) else none
  | .half idle => some (if idle then c.mat.idleHalf else c.mat.activeHalf).bytes
  | .micro i => if i < Config.microWords then some (bytesLE 12 (sget (0 : BitVec 96) c.mat.micro i).toNat) else none
  | .fixed => some (wordsBytes c.fixedWords)
  | .latch => some (c.latch.flatMap (fun r => bytesLE 64 r.word))
  | .shadow n =>
    match c.shadow[n]? with
    | some (k, v) => some (bytesLE 8 k.code ++ valBytes v)
    | none => none
  | .shadowDword n =>
    match c.dshadow[n]? with
    | some (u, i, v) => some (wordsBytes [u.num * 32 + i, v.toNat])
    | none => none
  | .gated n => c.gated[n]?.map GStore.bytes
  | .markState => c.mark.map Mark.bytes
  | .rtReg d => some (bytesLE 2 (c.rtOf d).toNat)
  | .mkReg v => some (bytesLE 1 (c.mkOf v))
  | .dixReg u => some (bytesLE 1 (c.dixOf u))
  | .spxReg => some (bytesLE 1 c.spx)
  | .fstReg => some (bytesLE 8 c.fst.toNat)
  | .fmtReg => some (bytesLE 8 c.fmt.toNat)
  | .genReg j => if j < 4 then some (bytesLE 8 (c.stream j).toNat) else none
  | .ntReg i => if i < 4 then some (bytesLE 8 (c.ntReg i).toNat) else none
  | .resReg d second => some (valBytes ((alook (if second then c.res2 else c.res) d.num).getD (valOfBytes d [])))
  | .matState => some (wordsBytes c.mat.words)
  | .mQueue n => c.mat.queue[n]?.map (fun x => wordsBytes x.words)
  | .routine => c.mat.routine.map (fun r => wordsBytes r.words)
  | .bufRow i => if i < 256 then some (sdense 0 c.mat.rows (256 * i) 256) else none
  | .scaleRow i => if i < 1024 then some (sdense 0 c.mat.scales (16 * i) 16) else none
  | .pending => some (wordsBytes c.pendingWords)
  | .journal n => c.journal[n]?.map (fun e => bytesLE 8 e.1 ++ [e.2])
  | .journalSignal n => c.jsigs[n]?.map (fun x => wordsBytes x.words)
  | .command u n => (c.eng u).cmds[n]?.map (fun x => wordsBytes (x.words (c.eng u).closed))
  | .subscription u n => (c.eng u).subs[n]?.map (fun x => wordsBytes (x.1 :: x.2.words))

/-- Writes a row of an accumulator; one that was tagged zero holds zeros in its other rows. -/
def Matrix.putAccRow (m : Matrix) (acc row : Nat) (bs : List Byte) : Matrix :=
  let accs := if bit m.zeroTag acc then m.accs.filter (fun (p : Nat × W32) => p.1 / 16384 ≠ acc) else m.accs
  { m with zeroTag := m.zeroTag &&& ~~~(1#8 <<< acc),
           accs := (List.range 64).foldl (fun a j => sset (0 : W32) a (acc * 16384 + row * 64 + j) (BitVec.ofNat 32 (natLE ((bs.drop (4 * j)).take 4)))) accs }

/-- The format register with its reserved bits [11:0] zero (R8, R49). -/
def fmtBits (v : Nat) : BitVec 40 := BitVec.ofNat 40 (pack [(12, 28, nfld v 12 28)])

/-- Writes a whole space of registers, input files and ring descriptors, which is what management may write; a space that it
may only read stays as it is (R7), and none is the write of an index form or a latch value that R199 and R18 refuse (R109). -/
def CoreSt.putImage (c : CoreSt) (r : CoreSpace) (bs : List Byte) : Option CoreSt :=
  let v := natLE bs
  match r with
  | .sreg i => some (c.setSreg i (BitVec.ofNat 64 v))
  | .vreg b i => some (c.setVreg (i + if b then 320 else 0) (vecOfBytes bs))
  | .guards => some { c with guards := BitVec.ofNat 8 v ||| 1 }
  | .maskReg i => some (c.setMask i (BitVec.ofNat 256 v))
  | .permReg i =>
    let p := (bs.take 256).map BitVec.toNat
    if (permFault p).isSome then none else some (c.setPerm i p)
  | .inputFile d second => some (c.setInput d second (inputOfBytes d c.issued bs))
  | .ringDesc i => some (c.setRing i (ringOfWord v))
  | .spillWord i => some { c with words := sset 0 c.words i (BitVec.ofNat 64 v) }
  | .spillLine i => some { c with lines := sset zeroVec c.lines i (vecOfBytes bs) }
  | .dword u i => some (c.setDword u i (BitVec.ofNat 64 v))
  | .mreg i => some { c with mregs := sset 0 c.mregs i (BitVec.ofNat 64 v) }
  | .accRow a row => some { c with mat := c.mat.putAccRow a row bs }
  | .rtReg d =>
    let w := BitVec.ofNat 16 v
    if 5 ≤ rtKind w ∨ fld w 10 3 ≠ 0 then none else some { c with rt := sset 0 c.rt d.num w }
  | .mkReg u => some { c with mks := sset 0 c.mks u.num (v % 16) }
  | .dixReg u => some { c with dix := sset 0 c.dix u.num (v % 32) }
  | .spxReg => some { c with spx := v % 256 }
  -- every bit of FST is W1C (R7, R86)
  | .fstReg => some { c with fst := w1c c.fst (BitVec.ofNat 11 v) }
  | .fmtReg => some { c with fmt := fmtBits v }
  | .genReg j => some (c.setStream j (BitVec.ofNat 64 v))
  | .ntReg i => some { c with nt := sset nullTile c.nt i (BitVec.ofNat 64 v) }
  | _ => some c

/-! ### What a live-state list names (R104) -/

def lslKind (e : W32) : Nat := fld e 28 4
def lslFirst (e : W32) : Nat := fld e 14 14
def lslCount (e : W32) : Nat := fld e 0 14

/-- Whether a list names item i of a kind. -/
def listed (l : List W32) (kind i : Nat) : Bool := l.any (fun e => lslKind e = kind && decide (lslFirst e ≤ i) && decide (i < lslFirst e + lslCount e))

/-- The state that a save takes: what is not listed is left out. -/
def CoreSt.filtered (c : CoreSt) (l : List W32) : CoreSt :=
  let m := c.mat
  let half := fun (j : Nat) (h : Half) => if listed l 8 j then h else {}
  let keep := fun (acc : Nat) => listed l 7 acc
  let act := half 0 m.activeHalf
  let idl := half 1 m.idleHalf
  { c with
    vregs := c.vregs.filter (fun (p : Nat × Vec) => if p.1 < 320 then listed l 0 p.1 else listed l 1 (p.1 - 320)),
    sregs := c.sregs.filter (fun (p : Nat × W64) => listed l 2 p.1),
    perms := c.perms.filter (fun (p : Nat × List Nat) => listed l 3 p.1),
    rings := c.rings.filter (fun (p : Nat × Ring) => listed l 4 p.1),
    lines := c.lines.filter (fun (p : Nat × Vec) => listed l 5 p.1),
    words := c.words.filter (fun (p : Nat × W64) => listed l 6 p.1),
    dfile0 := c.dfile0.filter (fun (p : Nat × W64) => listed l 10 p.1),
    dfile1 := c.dfile1.filter (fun (p : Nat × W64) => listed l 11 p.1),
    mregs := c.mregs.filter (fun (p : Nat × W64) => listed l 12 p.1),
    inputs := if listed l 13 0 || l.any (fun e => lslKind e = 13) then c.inputs else [],
    mat := { m with accs := m.accs.filter (fun (p : Nat × W32) => keep (p.1 / 16384)),
                    zeroTag := BitVec.ofNat 8 (pack ((List.range 8).map (fun a => (a, 1, if keep a then b2n (bit m.zeroTag a) else 1)))),
                    halves := if m.active then (idl, act) else (act, idl),
                    rows := [], slots := List.replicate 4 .empty, scales := [],
                    micro := m.micro.filter (fun (p : Nat × BitVec 96) => listed l 9 p.1) } }

/-- The domains whose input files a save takes, in their order (R57). -/
def inDoms : List Dom := [.s, .v0, .v1, .m, .c0, .c1]

/-- The bytes of one entry, from a new line; how a line holds B-store halves and input files is not stated (log 16). -/
def CoreSt.entryBytes (c : CoreSt) (e : W32) : List Byte :=
  let items := (List.range (lslCount e)).map (· + lslFirst e)
  let im := fun (f : Nat → CoreSpace) => items.flatMap (fun i => (c.image (f i)).getD [])
  let bs : List Byte :=
    match lslKind e with
    | 0 => im (.vreg false)
    | 1 => im (.vreg true)
    | 2 => im .sreg
    | 3 => im .permReg
    | 4 => im .ringDesc
    | 5 => im .spillLine
    | 6 => im .spillWord
    | 7 => items.flatMap (fun a => (List.range 256).flatMap (fun r => (c.image (.accRow a r)).getD []))
    | 8 => im (fun i => .half (i = 1))
    | 9 => im .micro
    | 10 => im (.dword .c0)
    | 11 => im (.dword .c1)
    | 12 => im .mreg
    | 13 => inDoms.flatMap (fun d =>
        ((c.image (.inputFile d false)).getD []) ++ ((c.image (.inputFile d true)).getD []))
    | _ => []
  bs ++ List.replicate ((64 - bs.length % 64) % 64) 0

/-- What a save writes, from line SPB on. -/
def CoreSt.saveBytes (c : CoreSt) (l : List W32) : List Byte := wordsBytes c.fixedWords ++ l.flatMap c.entryBytes

/-! ### A save read back (R104) -/

/-- One item of an entry comes back. -/
def CoreSt.loadItem (c : CoreSt) (r : CoreSpace) (bs : List Byte) : CoreSt :=
  match r with
  | .micro i => { c with mat := { c.mat with micro := sset (0 : BitVec 96) c.mat.micro i (BitVec.ofNat 96 (natLE bs)) } }
  | _ => (c.putImage r bs).getD c

/-- Items of one size each, one after the other. -/
def CoreSt.loadItems (size : Nat) : List CoreSpace → List Byte → CoreSt → CoreSt
  | [], _, c => c
  | r :: l, bs, c => CoreSt.loadItems size l (bs.drop size) (c.loadItem r (bs.take size))

def Matrix.setHalf (m : Matrix) (idle : Bool) (h : Half) : Matrix :=
  { m with halves := if m.active = idle then (h, m.halves.2) else (m.halves.1, h) }

def CoreSt.loadHalves : List Nat → List Byte → CoreSt → CoreSt × Nat
  | [], _, c => (c, 0)
  | i :: l, bs, c =>
    let h := halfOf bs
    let r := CoreSt.loadHalves l (bs.drop h.2) { c with mat := c.mat.setHalf (i = 1) h.1 }
    (r.1, r.2 + h.2)

/-- One entry of a live-state list comes back from its line on: the core, and the bytes that the entry takes. -/
def CoreSt.loadEntry (c : CoreSt) (e : W32) (bs : List Byte) : CoreSt × Nat :=
  let items := (List.range (lslCount e)).map (· + lslFirst e)
  let go := fun (size : Nat) (l : List CoreSpace) => (CoreSt.loadItems size l bs c, size * l.length)
  let r : CoreSt × Nat :=
    match lslKind e with
    | 0 => go 1024 (items.map (.vreg false))
    | 1 => go 1024 (items.map (.vreg true))
    | 2 => go 8 (items.map .sreg)
    | 3 => go 512 (items.map .permReg)
    | 4 => go 16 (items.map .ringDesc)
    | 5 => go 1024 (items.map .spillLine)
    | 6 => go 8 (items.map .spillWord)
    | 7 => go 256 (items.flatMap (fun a => (List.range 256).map (.accRow a)))
    | 8 => CoreSt.loadHalves items bs c
    | 9 => go 12 (items.map .micro)
    | 10 => go 8 (items.map (.dword .c0))
    | 11 => go 8 (items.map (.dword .c1))
    | 12 => go 8 (items.map .mreg)
    | 13 => inDoms.foldl (fun (r : CoreSt × Nat) d =>
        let size := 8 + valSize d + 4 * (valSize d + 8)
        (CoreSt.loadItems size [.inputFile d false, .inputFile d true] (bs.drop r.2) r.1, r.2 + 2 * size)) (c, 0)
    | _ => (c, 0)
  (r.1, cdiv r.2 64 * 64)

def CoreSt.loadList : List W32 → List Byte → CoreSt → CoreSt
  | [], _, c => c
  | e :: l, bs, c =>
    let r := c.loadEntry e bs
    CoreSt.loadList l (bs.drop r.2) r.1

/-- A nest level from its ten words. -/
def levelOf (w : Nat → Nat) : NestLevel :=
  { arm := nfld (w 0) 13 1 = 1, c := nfld (w 0) 14 1 = 1, last := nfld (w 0) 15 1 = 1, body := nfld (w 0) 0 13, t := nfld (w 0) 16 32, idx := w 1,
    ents := (List.range 8).map (fun i =>
      let e := w (2 + i)
      { kind := nfld e 0 2, idx := nfld e 2 6, stride := BitVec.ofNat 64 (ofInt 64 (BitVec.ofNat 48 (nfld e 16 48)).toInt) }) }

/-- A command as its two lines have it. The place of its batch is that among `n` closed ones; one beyond them is of the open batch if
the command was (`joins`), and of none otherwise. A queued command starts anew, at the element of its line. -/
def Cmd.loadWords (c : Cmd) (n : Nat) (joins : Bool) (w : Nat → Nat) : Cmd :=
  let b := nfld (w 1) 16 5
  let c := { c with word := BitVec.ofNat 64 (w 0), op := nfld (w 1) 0 6, elem := w 2, grp := (List.range 8).map (fun j => BitVec.ofNat 64 (w (3 + j))),
                    batch := if b < n then b + 1 else if joins then n + 1 else 0,
                    st := if nfld (w 1) 8 2 = 0 then .queued else if c.total = 0 then .queued else .running,
                    total := if nfld (w 1) 8 2 = 0 then 0 else c.total }
  let coords := (List.range 3).map (fun j => BitVec.ofNat 64 (w (11 + j)))
  if epT c.srcw then { c with srcC := coords ++ c.srcC.drop 3 } else { c with dstC := coords ++ c.dstC.drop 3 }

/-- An engine's batches and commands come back: `n` closed batches, of which those with incomplete commands are outstanding. -/
def CEngine.loadWords (e : CEngine) (m : Nat) (batch w : Nat → Nat) : CEngine :=
  let n := nfld (batch 0) 16 5
  let cnt := fun (i : Nat) => nfld (batch (1 + i / 4)) (16 * (i % 4)) 16
  { e with openN := nfld (batch 0) 0 6, openB := n, closed := ((List.range n).filter (fun i => cnt i ≠ 0)).map (· + 1),
           cmds := e.cmds.zipIdx.map (fun p =>
             if m ≤ p.2 ∧ p.2 < m + 32 then p.1.loadWords n (p.1.batch = e.openB + 1) (fun j => w (16 * (p.2 - m) + j)) else p.1) }

/-- The fixed part comes back; the commands of the save stand behind the `n0` and `n1` that the engines hold already. -/
def CoreSt.loadFixed (c : CoreSt) (n0 n1 : Nat) (w : Nat → Nat) : CoreSt :=
  let c := { c with pc := nfld (w 0) 0 13, guards := BitVec.ofNat 8 (w 1) ||| 1, fst := BitVec.ofNat 11 (w 2), fmt := fmtBits (w 3),
                    spx := nfld (w 5) 24 8, ntp := nfld (w 5) 32 2, nxts := c.nxts.take (nfld (w 5) 36 3),
                    eng0 := c.eng0.loadWords n0 (fun j => w (144 + j)) (fun j => w (160 + j)),
                    eng1 := c.eng1.loadWords n1 (fun j => w (152 + j)) (fun j => w (672 + j)) }
  let c := (((c.setStream 0 (BitVec.ofNat 64 (w 4))).setStream 1 (BitVec.ofNat 64 (w 12))).setStream 2 (BitVec.ofNat 64 (w 13))).setStream 3
    (BitVec.ofNat 64 (w 14))
  let c := { c with mks := sset 0 (sset 0 c.mks 0 (nfld (w 5) 0 4)) 1 (nfld (w 5) 4 4), dix := sset 0 (sset 0 c.dix 0 (nfld (w 5) 8 5)) 1 (nfld (w 5) 16 5),
                    rt := inDoms.zipIdx.foldl (fun m p => sset 0 m p.1.num (BitVec.ofNat 16 (nfld (w (6 + p.2 / 4)) (16 * (p.2 % 4)) 16))) c.rt }
  let c := (List.range 4).foldl (fun (c : CoreSt) i => { c with nt := sset nullTile c.nt i (BitVec.ofNat 64 (w (8 + i))) }) c
  let c := (List.range 6).foldl (fun (c : CoreSt) l => c.setLevel (l + 1) (levelOf (fun j => w (16 + 10 * l + j)))) c
  (List.range 16).foldl (fun (c : CoreSt) k =>
    c.setMask k (BitVec.ofNat 256 (pack ((List.range 4).map (fun j => (64 * j, 64, w (80 + 4 * k + j))))))) c

/-- The 64-bit words of an area. -/
def areaWord (bs : List Byte) (j : Nat) : Nat := natLE ((bs.drop (8 * j)).take 8)

/-- A save area comes back: the fixed part, then the entries of its list. -/
def CoreSt.loadArea (c : CoreSt) (n0 n1 : Nat) (l : List W32) (bs : List Byte) : CoreSt :=
  CoreSt.loadList l (bs.drop 10240) (c.loadFixed n0 n1 (areaWord bs))

end Sys2Proof.Machine
end

