-- ==== Sys2Proof/Machine/Start.lean ====
section
/-! DEFINITION. How a task comes onto a core: the read and the checks of its control block (R269 to R271), the clear engine
(R98), the transport reset and the directives (R40, R99), overlay regions (R265, R266), and a saved task's return (R104). -/

namespace Sys2Proof.Machine

/-! ### Images (R265) -/

/-- Bundle indices below this lie in the image. -/
def imgLen (i : Image) : Nat := i.bundles.foldl (fun n b => max n (b.1 + 1)) 0

/-- Whether an image covers an overlay region. -/
def imgCovers (i : Image) (region : Nat) : Bool := decide (512 * region < imgLen i)

/-- The tag a region holds once the code of a context is in place; none is the null tag. -/
def Ctx.tagFor (c : Ctx) (region : Nat) : Option W32 :=
  match c.image with
  | some i => if imgCovers i region then some c.imgid else none
  | none => none

/-- Regions whose tags differ from the context's image (R266). -/
def CoreSt.staleRegions (k : CoreSt) (c : Ctx) : List Nat := (List.range 16).filter (fun j => alook k.tags j ≠ c.tagFor j)

/-- The bundles of a region with a context's code in it. -/
def Ctx.regionCode (c : Ctx) (region : Nat) : List (Nat × BitVec 256) :=
  match c.image with
  | some i => if imgCovers i region then i.bundles.filter (fun b => b.1 / 512 = region) else []
  | none => []

/-- A region is in place (R265, R266). -/
def CoreSt.loadRegion (k : CoreSt) (c : Ctx) (region : Nat) : CoreSt :=
  let old := k.istore.filter (fun b => b.1 / 512 ≠ region)
  { k with istore := (c.regionCode region).foldl (fun m b => sset fillBundle m b.1 b.2) old,
           tags := match c.tagFor region with
             | some id => aput k.tags region id
             | none => adel k.tags region,
           reload := k.reload.filter (· ≠ region) }

def execOverlayRegionReload (region : Nat) (s : State) : Host.Outcome State Fault Refusal :=
  if s.core.reload.contains region then .next (s.upd (fun k => k.loadRegion s.me region)) else .next s

/-! ### What a context finds on a core (R98, R99) -/

/-- The part of a core that stays with a context: the registers and stores that R99 keeps. -/
def CoreSt.keepFrom (c x : CoreSt) : CoreSt :=
  { c with sregs := x.sregs, vregs := x.vregs, mregs := x.mregs, dfile0 := x.dfile0, dfile1 := x.dfile1, guards := x.guards,
           masks := x.masks, perms := x.perms, fmt := x.fmt, fmtq := x.fmtq, gen := x.gen, fst := x.fst, words := x.words,
           lines := x.lines,
           mat := { c.mat with halves := x.mat.halves, active := x.mat.active, rows := x.mat.rows, slots := x.mat.slots,
                               scales := x.mat.scales, accs := x.mat.accs, zeroTag := x.mat.zeroTag, micro := x.mat.micro } }

/-- The four streams of a context's generator on its first issue (R82, R83). -/
def seedStreams (seed : W64) (lin : Nat) : List (Nat × W64) :=
  (List.range 4).foldl (fun m j => sset (seedStream 0 0 j) m j (seedStream seed lin j)) []

/-- The clear engine (R98): of the register files the allocation alone (R40), with the matrix stores of R210 to R212. -/
def CoreSt.cleared (c : CoreSt) (x : Ctx) (lin : Nat) : CoreSt :=
  { c with sregs := c.sregs.filter (fun (p : Nat × W64) => decide (x.regs ≤ p.1)),
           vregs := c.vregs.filter (fun (p : Nat × Vec) => if p.1 < 320 then decide (x.rega ≤ p.1) else decide (x.regb ≤ p.1 - 320)),
           mregs := [], dfile0 := [], dfile1 := [], guards := 1, masks := [], perms := [], rings := [], nest := [], nt := [], inputs := [], rt := [], mks := [], dix := [], words := [], lines := [],
           fmt := fmtReset, fmtq := [], gen := seedStreams x.seed lin, fst := 0,
           mat := { c.mat with halves := ({}, {}), active := false, slots := List.replicate 4 .empty, zeroTag := BitVec.allOnes 8 } }

/-- The transport reset of a task start (R99). -/
def CoreSt.transportReset (c : CoreSt) : CoreSt :=
  { c with inputs := [], rt := [], mks := [], dix := [], spx := 0, nest := [], rings := [], nt := [], ntp := 0, nxts := [] }

/-- The coordinate word of a core bound to a group (R11, R276). -/
def Group.coord (g : Group) (lin : Nat) : W32 :=
  BitVec.ofNat 32 (pack [(0, 2, lin % 4), (2, 4, lin / 4 % 16), (6, 2, lin / 64), (8, 4, g.stage lin), (16, 16, g.num)])

/-- A context comes to a core: what it left there stands again, or the clear engine runs on its first issue (R98, R99; what
another context has there meanwhile waits for it, log 14). -/
def State.enterCtx (s : State) (k cid : Nat) : State :=
  let c := s.getCore k
  let x := s.ctx cid
  let lin := x.group.linOfPhys k
  let s : State := match c.owner with
    | some o => if o = cid then s else { s with away := aput s.away (k * 1024 + o) (CoreSt.reset.keepFrom c) }
    | none => s
  let c : CoreSt :=
    if !c.seen.contains cid then { (c.cleared x lin) with seen := cid :: c.seen }
    else if c.owner = some cid then c
    else
      match alook s.away (k * 1024 + cid) with
      | some y => c.keepFrom y
      | none => c
  s.onCore k (fun _ => { c with owner := some cid, coord := x.group.coord lin })

/-! ### Directives (R40) -/

/-- The ring that a `.ring` line binds. -/
def Ctx.ringOf (c : Ctx) (r : RingDecl) : Ring :=
  { store := r.store, base := if r.store = 3 then (c.ksegs.getD r.base 0).toNat else r.base, line := r.line, depM1 := r.depth - 1,
    hl := match r.head with
      | some x => x.1
      | none => 0,
    hen := r.head.isSome,
    fm1 := match r.head with
      | some x => x.2 - 1
      | none => 0,
    tp := match r.tail with
      | some x => x.1
      | none => 0,
    ten := r.tail.isSome,
    em1 := match r.tail with
      | some x => x.2 - 1
      | none => 0 }

/-- The `.ring` and `.perm` lines that apply at an entry bundle: those outside any task at `.entry`, a task's at its own. -/
def imgDirectives (i : Image) (entry : Nat) : List RingDecl × List (Nat × List Nat) :=
  let ts := i.tasks.filter (fun t => t.entry = entry)
  ((if i.entry = entry then i.rings else []) ++ ts.flatMap (·.rings), (if i.entry = entry then i.perms else []) ++ ts.flatMap (·.perms))

def CoreSt.directives (k : CoreSt) (c : Ctx) (entry : Nat) : CoreSt :=
  match c.image with
  | none => k
  | some i =>
    let d := imgDirectives i entry
    let k := d.1.foldl (fun k r => k.setRing r.q (c.ringOf r)) k
    d.2.foldl (fun k p => k.setPerm p.1 p.2) k

/-- s1 to sP hold the launch parameters (R40, R269). -/
def CoreSt.launchParams (k : CoreSt) (ps : List W64) : CoreSt := ps.zipIdx.foldl (fun k p => k.setSreg (p.2 + 1) p.1) k

/-! ### Starts (R99, R273) -/

/-- The journal and the commands of a task that still retires stay apart from those of the next (R273). -/
def CoreSt.setAside (c : CoreSt) : CoreSt :=
  if c.run = .retiring then
    let out := fun (e : CEngine) => { e with cmds := e.cmds.map (fun (x : Cmd) => { x with batch := 0 }) }
    { c with oldj := c.oldj ++ [((c.task.cid, c.task.key), c.journal, c.jsigs)], eng0 := out c.eng0, eng1 := out c.eng1 }
  else c

/-- What every way onto a core sets: the task, no journal, no hold, the regions to reload; the next bundle is a mark. -/
def CoreSt.takeTask (c : CoreSt) (t : TaskRun) (reload : List Nat) : CoreSt :=
  let fresh := fun (e : CEngine) => { e with openB := 0, openN := 0, closed := [], remote := false }
  let key := (t.cid, t.eacct)
  { c with run := .running, task := t,
           holdsNow := if c.holdsNow.any (fun h => h.1 = key) then c.holdsNow else c.holdsNow ++ [(key, false)],
           journal := [], jsigs := [], gates := [], branches := [], reload := reload, ended := false, markNext := true, mark := none, shadow := [], dshadow := [], counted := [], gated := [], stores := [], skipBrk := none,
           preempt := false, safe := none, eng0 := fresh c.eng0, eng1 := fresh c.eng1 }

/-- Committed mode of a task: its own, the context's, or that of reduced service (R95, R270, R356). -/
def State.committed (s : State) (cid : Nat) (k : Tcb) : Bool := k.cm || (s.ctx cid).cmode || s.reduced

def State.runOf (s : State) (t : Task) : TaskRun :=
  { cid := t.cid, id := t.id, serial := t.serial, timed := t.timed, rpol := t.tcb.rpol, eacct := t.tcb.eacct, cm := s.committed t.cid t.tcb,
    pins := if t.timed then t.tcb.pins.map nameIdx else [], q := t.q, w := t.w, books := t.tcb.books }

/-- A task starts on a core at its entry bundle. -/
def State.startTask (s : State) (k : Nat) (t : Task) : State :=
  let s := s.enterCtx k t.cid
  let x := s.ctx t.cid
  let run := s.runOf t
  let s := s.onCore k (fun c =>
    let c := c.setAside
    let c := c.takeTask run (c.staleRegions x)
    let c := c.transportReset.directives x t.tcb.entry
    { (if t.launch then c.launchParams x.kparams else c) with pc := t.tcb.entry })
  let s := s.onTask t.same (fun y => { y with tcb := t.tcb, core := some k, state := .running })
  s.settleCtx t.cid

/-- Commands of a saved engine come into the engine of a core, with numbers of their own there. -/
def CEngine.restored (e x : CEngine) (due : Nat → Nat) : CEngine :=
  { e with cmds := e.cmds ++ x.cmds.map (fun (c : Cmd) =>
             ({ c with id := c.id + e.nextId, at_ := due c.at_, startAt := due c.startAt } : Cmd).woken),
           nextId := e.nextId + x.nextId, openB := x.openB, openN := x.openN, closed := x.closed, remote := x.remote,
           subs := e.subs ++ x.subs }

def Gate.shift (n0 n1 : Nat) (g : Gate) : Gate :=
  let off := fun (u : CUnit) => match u with
    | .c0 => n0
    | .c1 => n1
  match g with
  | .waitb u n => .waitb u n
  | .bwait u id => .bwait u (id + off u)
  | .drain u id => .drain u (id + off u)

/-- The place of a command that came from core `from_` and is on core k now. -/
def moveRef (from_ k n0 n1 : Nat) (r : Option (Nat × CUnit × Nat)) : Option (Nat × CUnit × Nat) :=
  r.map (fun (x : Nat × CUnit × Nat) => if x.1 = from_ then (k, x.2.1, x.2.2 + (if x.2.1 = .c0 then n0 else n1)) else x)

/-- What waits for commands of a task follows them: routing slots, permits, offers. -/
def State.moveRefs (s : State) (t : Task) (k n0 n1 : Nat) : State :=
  let mv := moveRef t.snapOn k n0 n1
  let s := { s with gslots := s.gslots.map (fun (g : Nat × GSlot) =>
                      if g.2.cid = t.cid ∧ g.2.taskId = t.key then (g.1, { g.2 with cmd := mv g.2.cmd }) else g) }
  let saved := fun (r : Option (Nat × CUnit × Nat)) =>
    match r, t.snap with
    | some (c, u, id), some x => c = t.snapOn && (x.eng u).cmds.any (fun y => y.id = id)
    | _, _ => false
  let s := s.onCtx t.cid (fun c => { c with permits := c.permits.map (fun (p : Nat × Permit) =>
    if saved p.2.cmd then (p.1, { p.2 with cmd := mv p.2.cmd }) else p) })
  { s with tasks := s.tasks.map (fun (x : Task) => if x.cid = t.cid && saved x.tsub then { x with tsub := mv x.tsub } else x) }

/-- Registers of a save over those of a core. -/
def layRegs {α : Type} [DecidableEq α] (d : α) (m l : List (Nat × α)) : List (Nat × α) := l.foldl (fun m p => sset d m p.1 p.2) m

/-- The bytes of a task's save area and its live-state list. -/
def State.areaOf (s : State) (t : Task) (x : CoreSt) : Option (List W32 × List Byte) :=
  t.saveAt.map (fun a =>
    let l := match (s.ctx t.cid).image with
      | some i => (alook i.lists a.2.2).getD []
      | none => []
    (l, s.tensorRead a.1 a.2.1 (x.saveBytes l).length))

/-- A saved task goes on where it stopped, on any of its cores: the clear engine, then the save area, and what no area holds as
the save took it (R104). Of a branch taken and not yet in effect at the safe point, for which the fixed part has no place, that is the
branch itself (DESIGN CHOICE, log 14). -/
def State.restoreTask (s : State) (k : Nat) (t : Task) (x : CoreSt) : State :=
  let s := s.enterCtx k t.cid
  let ctx := s.ctx t.cid
  -- committed mode is forced at a dispatch, and a resumption is none (R95, R356)
  let run := { s.runOf t with cm := x.task.cm }
  let s := s.moveRefs t k (s.getCore k).eng0.nextId (s.getCore k).eng1.nextId
  let area := s.areaOf t x
  let s := s.onCore k (fun c =>
    let n0 := c.eng0.nextId
    let n1 := c.eng1.nextId
    let c := c.setAside
    let c := c.takeTask run (c.staleRegions ctx)
    let m0 := c.eng0.cmds.length
    let m1 := c.eng1.cmds.length
    let e := c.cleared ctx (ctx.group.linOfPhys k)
    let due := fun (n : Nat) => n + c.issued - x.issued
    -- what no area holds; a branch taken before the safe point is among it (log 14)
    let rest := fun (c : CoreSt) =>
      { c with nxts := x.nxts.map (fun n => (n.1, n.2.1, n.2.2.1, due n.2.2.2)), fmtq := x.fmtq.map (fun (f : FmtWr) => { f with due := due f.due }),
               gates := x.gates.map (Gate.shift n0 n1), branches := x.branches.map (fun b => (due b.1, b.2)),
               journal := x.journal, jsigs := x.jsigs,
               eng0 := c.eng0.restored x.eng0 due, eng1 := c.eng1.restored x.eng1 due }
    match area with
    | some a =>
      let e := { e with mat := { e.mat with rows := [], scales := [], accs := [], micro := [] } }
      (rest e).loadArea m0 m1 a.1 a.2
    | none =>
      let c := { e.keepFrom x with sregs := layRegs 0 e.sregs x.sregs, vregs := layRegs zeroVec e.vregs x.vregs }
      rest { c with pc := x.pc, rt := x.rt, mks := x.mks, dix := x.dix, spx := x.spx, nest := x.nest, rings := x.rings, nt := x.nt, ntp := x.ntp,
                    inputs := x.inputs.map (fun (f : Nat × InFile) => (f.1, { f.2 with q := f.2.q.map (fun e => (e.1, due e.2)) })) })
  let s := s.onTask t.same (fun y =>
    { y with core := some k, state := .running, snap := none, saveAt := none, resume := false, preempted := false })
  s.settleCtx t.cid

/-- A chosen task goes on its core: it starts, it returns from a fault where it stopped (R108), or from its save. -/
def State.runTask (s : State) (k : Nat) (t : Task) : State :=
  let s := s.onCtx t.cid (fun c => c.applyPend t.cid)
  match t.resume, t.snap with
  | true, some x => s.restoreTask k t x
  | true, none =>
    let s := s.onCore k (fun c => { c with task := { c.task with q := t.q, w := t.w }, reload := c.staleRegions (s.ctx t.cid) })
    s.returnFromFault { t with core := some k }
  | false, _ => s.startTask k t

/-! ### Control blocks (R269, R271, R274) -/

/-- What reading a control block gives. -/
inductive TcbRead where
  | ok (s : State) (k : Tcb) (code : Nat)
  | wait (s : State)
  | bad

/-- The launch block of a core (R269). -/
def Ctx.launchTcb (c : Ctx) : Tcb :=
  { entry := match c.image with
      | some i => i.entry
      | none => 0 }

/-- A recall for the dispatcher, once. -/
def State.recallOnce (s : State) (cid : Nat) (idxs : List Nat) : State :=
  let x := s.ctx cid
  s.requestRecall cid (idxs.filter (fun i => !x.batches.any (fun b => b.2.contains i)))

/-- Reads a TCB as the dispatcher does: as an engine operation acquires (R121, R123, R271). -/
def State.readTcb (s : State) (t : Task) : TcbRead :=
  let x := s.ctx t.cid
  let noShare : Bool := match s.partOf x.tenant with
    | some p => p.jshare = 0
    | none => true
  if t.launch then .ok s x.launchTcb (if s.committed t.cid x.launchTcb && noShare then 8 else 0)
  else
    match x.acquire none none true [⟨t.tcbSeg, t.tcbOff, 256⟩] with
    | .fault f => if f.cause = .segAbsent then .wait (s.recallOnce t.cid f.recalls) else .bad
    | .hold => .wait s
    | .ok segs =>
      let idx := nameIdx t.tcbSeg
      if (x.seg idx).tilesOk t.tcbOff 256 false then
        let w : BitVec 2048 := BitVec.ofNat 2048 (natLE (s.segRead t.cid idx t.tcbOff 256))
        let k := decodeTcb w
        let len := match x.image with
          | some i => imgLen i
          | none => 0
        let code := tcbReject w t len
        let code := if code = 0 && s.committed t.cid k && noShare then 8 else code
        .ok (segs.foldl (fun s i => s.touch t.cid i) s) k code
      else .wait s

/-- The outcome of the offer that a tsub waits for: the booked start and a status (R291). -/
def State.tsubDone (s : State) (t : Task) (q : W64) (status : Nat) : State :=
  match t.tsub with
  | some (k, u, id) => s.setCmdOn k u id (fun x =>
      if x.cid = t.cid ∧ x.op = 39 then { x with acc := [(0, q), (1, BitVec.ofNat 64 status)], ready := true } else x)
  | none => s

/-- A card is rejected: it leaves the queue with a record and runs nothing (R271). -/
def State.rejectCard (s : State) (t : Task) (entry code : Nat) : State :=
  let x := s.ctx t.cid
  let r : FaultRec :=
    { code := 1, rstb := false, roll := false, auto := false, unit := 13,
      core := match x.group.allowed t.clu t.cmask t.stage with
        | c :: _ => c.2
        | [] => 0,
      task := t.id, bidx := entry, mark := 0, frame := BitVec.ofNat 64 (s.frameCtx t.cid),
      wher := if code = 11 then segWhere t.tcbSeg t.tcbOff else 0, info := BitVec.ofNat 64 code, resume := 0 }
  let s := s.tsubDone t (BitVec.allOnes 64) 3
  let s := s.dropTask t.same
  (s.record t.cid r none).settleCtx t.cid

end Sys2Proof.Machine
end

