-- ==== Sys2Proof/Machine/Calendar.lean ====
section
/-! DEFINITION. The booking calendar (14_group_calendar): bookings and conflicts (R278, R280 to R282), placement (R283, R286),
compaction (R284), starts and the window's end (R285, R232), slips (R287, R288), the frame boundary with throttle and energy
(R231, R279, R358, R359), and the booking instructions (R289 to R292). -/

namespace Sys2Proof.Machine

/-! ### Entries and windows (R280 to R282, R286) -/

/-- A book entry: RES, START, LEN, MASK. -/
structure Entry where
  res   : Nat
  start : Nat
  len   : Nat
  mask  : Nat
deriving DecidableEq, Repr

def entryOf (b : W64) : Entry := ⟨bookRes b, bookStart b, bookLen b, bookMask b⟩

/-- The rest of an entry d quanta into its window (R286). -/
def Entry.cut (d : Nat) (e : Entry) : Option Entry :=
  if e.start + e.len ≤ d then none
  else some { e with start := e.start - d, len := e.start + e.len - max e.start d }

/-- Throttle step k dilates a mat entry (R282). -/
def Entry.dilate (k : Nat) (e : Entry) : Entry := if e.res = 1 then { e with len := cdiv (e.len * 8) (8 - k) } else e

/-- The rest of an entry after several pre-emptions, each counted from the start of the window it cut. -/
def Entry.cutAll (ds : List Nat) (e : Entry) : Option Entry := ds.foldl (fun o d => o.bind (Entry.cut d)) (some e)

/-- The quanta that the pre-emptions of a task have cut from its window, one after the other. -/
def Task.used (t : Task) : List Nat := if t.preempted then t.cuts else []

/-- The entries of a task as they would be placed at throttle step k. -/
def Task.entries (t : Task) (k : Nat) : List Entry :=
  ((t.tcb.books.map entryOf).filterMap (Entry.cutAll t.used)).map (Entry.dilate k)

/-- W at throttle step k (R282, R286). -/
def Task.window (t : Task) (k : Nat) : Nat :=
  let base := if t.preempted then t.left else t.tcb.window
  (t.entries k).foldl (fun w e => if e.res = 1 then max w (e.start + e.len) else w) base

/-- The clear in quanta (R281). -/
def Ctx.cq (c : Ctx) : Nat := cdiv (max c.rega c.regb + 8) 16

/-- What a placement of a task at q on a core books (R280, R281). -/
def Task.bookingsAt (t : Task) (k cq core q : Nat) : List Booking :=
  let w := t.window k
  let es := t.entries k
  { res := 0, core := core, mask := 0, lo := q - cq, hi := q + w - 1 } ::
    (es.filter (fun e => e.res ≠ 0)).map (fun e =>
      { res := e.res, core := core, mask := e.mask, lo := q + e.start, hi := q + e.start + e.len - 1 }) ++
    (if es.any (fun e => e.res = 1) then [{ res := 1, core := core, mask := 0, lo := q + w, hi := q + w + 7, ramp := true }] else [])

/-- Two bookings conflict: the same resource, the same core, die, bank, entry, link or pipe, and a common quantum (R280). -/
def Booking.conflicts (a b : Booking) : Bool :=
  !a.ramp && !b.ramp && a.res = b.res && decide (a.lo ≤ b.hi) && decide (b.lo ≤ a.hi) &&
    (match a.res with
     | 4 => a.core = b.core && (List.range 32).any (fun i => nfld a.mask i 1 = 1 && nfld b.mask i 1 = 1)
     | 5 => a.core = b.core && nfld a.mask 8 6 = nfld b.mask 8 6
     | 6 => nfld a.mask 0 6 = nfld b.mask 0 6
     | 7 => a.core / 64 = b.core / 64 && (List.range 4).any (fun i => nfld a.mask i 1 = 1 && nfld b.mask i 1 = 1)
     | _ => a.core = b.core)

def State.bookings (s : State) : List Booking := s.tasks.flatMap (·.book) ++ s.lateBooks.map (·.2)

/-- What a task that retires leaves on the calendar: the quantum in course, and a ramp-down already in course (R285). -/
def Task.lateBook (t : Task) (qc : Nat) : List Booking :=
  (t.book.filter (fun b => decide (b.lo ≤ qc) && decide (qc ≤ b.hi))).map (fun b => if b.ramp then b else { b with hi := qc })

def fits (have_ new : List Booking) : Bool := new.all (fun b => have_.all (fun h => !b.conflicts h))

/-- A MASK that R280 allows, the link or pipes being apportioned to the cluster. -/
def Entry.maskOk (p : Option Partition) (pclu : Nat) (e : Entry) : Bool :=
  match e.res with
  | 1 | 2 | 3 => e.mask = 0
  | 5 => decide (e.mask < 2 ^ 14)
  | 6 => decide (e.mask < 64) && (match p with
    | some p => p.links.contains (pclu, nfld e.mask 0 5, nfld e.mask 5 1 = 1)
    | none => false)
  | 7 => decide (e.mask < 16) && (match p with
    | some p => (List.range 4).all (fun i => nfld e.mask i 1 = 0 || p.pipes.contains (pclu, i))
    | none => false)
  | _ => true

/-! ### Placement (R283) -/

/-- Whether another context has the core: it works on it, or it is launched and stands to go on there, since contexts share a
core only by pre-emption (R94; log 28). -/
def State.heldByOther (s : State) (k cid : Nat) : Bool :=
  let c := s.getCore k
  (c.run ≠ .idle && c.task.cid ≠ cid) ||
    (match c.owner with
     | some o => o ≠ cid && (s.ctx o).kstate = .launched && ((s.ctx o).state = .runnable || (s.ctx o).state = .running)
     | none => false)

/-- Whether the calendar may take a core (R278); a task whose state is latched on a core goes on there alone. -/
def State.calCores (s : State) (t : Task) : List Nat :=
  let x := s.ctx t.cid
  let l := (x.group.allowed t.clu t.cmask t.stage).map (·.1)
  match t.resume, t.snap, t.core with
  | true, none, some k => [k]
  | _, _, _ => l.filter (fun k => ((s.getCore k).run = .idle || (s.getCore k).task.timed) && !s.heldByOther k t.cid)

/-- The first start quantum in [lo, lo + n) and core at which a task meets no conflict. -/
def fitFrom (have_ : List Booking) (t : Task) (k cq : Nat) (cores : List Nat) (lo n : Nat) : Option (Nat × Nat) :=
  (List.range n).findSome? (fun i => (cores.find? (fun c => fits have_ (t.bookingsAt k cq c (lo + i)))).map (fun c => (lo + i, c)))

def Task.pinIdx (t : Task) : List Nat := (t.tcb.pins.map nameIdx).eraseDups

/-- The code that rejects a task at its first try (R283), or 0. -/
def State.placeReject (s : State) (t : Task) : Nat :=
  let x := s.ctx t.cid
  if !(t.tcb.books.map entryOf).all (Entry.maskOk (s.partOf x.tenant) (x.group.pclu t.clu)) then 9
  else if t.pinned then 0
  else if x.quota < (t.pinIdx.map (fun i => (x.seg i).size)).foldl (· + ·) 0 then 10
  else if t.tcb.pins.any (fun n => x.stale n || (x.seg (nameIdx n)).state = .poisoned) then 12
  else 0

/-- Counts the pins of a task that is placed, which touches them (R120), and locks their descriptors on the core (R114, R283). -/
def State.takePins (s : State) (t : Task) (core : Nat) : State :=
  if t.pinned then s
  else
    let s := t.pinIdx.foldl (fun s i => (s.onSeg t.cid i (fun g => { g with pin := g.pin + 1 })).touch t.cid i) s
    t.pinIdx.foldl (fun s i => s.onCore core (fun c =>
      let g := s.seg t.cid i
      { c with dcache := ({ cid := t.cid, idx := i, st := g.state, base := g.base, gen := g.gen } : DEnt) ::
          c.dcache.filter (fun x => !(x.cid = t.cid && x.idx = i)) })) s

/-- One try of a pending task at a quantum boundary (R283, R285). -/
def State.tryPlace (s : State) (t : Task) : State :=
  let x := s.ctx t.cid
  let code := s.placeReject t
  if code ≠ 0 then s.rejectCard t t.tcb.entry code
  else
    let k := s.throttle.step
    let w := t.window k
    let lo := s.qc + 1 + x.cq
    match fitFrom s.bookings t k x.cq (s.calCores t) lo (s.qc + Config.horizon - w - 8 + 1 - lo) with
    | none => s.onTask t.same (fun y => { y with dropped := false })
    | some (q, core) =>
      let gone := t.pinIdx.filter (fun i => (x.seg i).state.absent)
      if !t.pinned && !gone.isEmpty then (s.onTask t.same (fun y => { y with dropped := true })).recallOnce t.cid gone
      else if !t.pinned && t.pinIdx.any (fun i => (x.seg i).state = .moving) then s.onTask t.same (fun y => { y with dropped := true })
      else
        let s := s.takePins t core
        let s := s.tsubDone t (BitVec.ofNat 64 q) 0
        s.onTask t.same (fun y =>
          { y with state := .booked, q := q, w := w, core := some core, book := t.bookingsAt k x.cq core q, pinned := true,
                   dropped := false, tsub := none })

/-- The order of the pending tasks: PRIO, ready order, TASK (R283). -/
def pendBefore (a b : Task) : Bool :=
  decide (b.prio < a.prio) || (a.prio = b.prio && (decide (a.readyAt < b.readyAt) || (a.readyAt = b.readyAt && decide (a.id < b.id))))

/-- A context whose tasks run (R93, R263). -/
def Ctx.serves (c : Ctx) : Bool := (c.state = .runnable || c.state = .running) && !c.preempting

/-- A task whose state is latched on a core that has still to stop: it goes on to its next safe point, though its context
takes no other work (R106). -/
def State.mustStop (s : State) (t : Task) : Bool :=
  match t.resume, t.snap, t.core with
  | true, none, some k =>
    let c := s.getCore k
    let x := s.ctx t.cid
    c.preempt && c.task.cid = t.cid && (x.state = .runnable || x.state = .running)
  | _, _, _ => false

/-- Whether a card of the context may be chosen now. -/
def State.mayRun (s : State) (t : Task) : Bool := (s.ctx t.cid).serves || s.mustStop t

def State.tryPending (s : State) : State :=
  (sortBy pendBefore (s.tasks.filter (fun t => t.state = .pending))).foldl (fun s t =>
    match s.tasks.find? t.same with
    | some t => if s.mayRun t then s.tryPlace t else s
    | none => s) s

/-! ### Compaction (R284) -/

/-- One BOOKED task moves to its earliest start on its own core, at its placed lengths. -/
def State.compactTask (s : State) (t : Task) : State :=
  let cq := (s.ctx t.cid).cq
  let others := (s.tasks.filter (fun x => !t.same x)).flatMap (·.book) ++ s.lateBooks.map (·.2)
  let at_ := fun (q : Nat) => t.book.map (fun (b : Booking) => { b with lo := b.lo + q - t.q, hi := b.hi + q - t.q })
  let lo := s.qc + 1 + cq
  match ((List.range (t.q - lo)).map (· + lo)).find? (fun q => fits others (at_ q)) with
  | some q => s.onTask t.same (fun y => { y with q := q, book := at_ q })
  | none => s

def State.compactAll (s : State) : State :=
  (sortBy (fun a b => decide (a.q < b.q) || (a.q = b.q && decide (a.id < b.id)))
    (s.tasks.filter (fun t => t.state = .booked && decide (s.qc < t.q - (s.ctx t.cid).cq)))).foldl (fun s t =>
      match s.tasks.find? t.same with
      | some t => s.compactTask t
      | none => s) s

/-! ### Starts and the window's end (R232, R283, R285) -/

/-- A booked start of a context that is stopped gives its place back (log 18). -/
def State.unbook (s : State) (t : Task) : State := s.onTask t.same (fun y => { y with state := .pending, book := [] })

def execTimedClearStart (cid task : Nat) (s : State) : Host.Outcome State Fault Refusal :=
  match s.tasks.find? (fun t => t.named cid task && t.state = .booked) with
  | some t =>
    if s.qc < t.q - (s.ctx cid).cq then .next s
    else if s.mayRun t then .next ((s.onTask t.same (fun y => { y with state := .starting })).settleCtx cid)
    else .next (s.unbook t)
  | none => .next s

/-- A core that a booked start can take: no task, one that retires, or the start's own latched task. -/
def CoreSt.takes (c : CoreSt) (t : Task) : Bool :=
  c.run = .idle || (c.run = .retiring && c.task.cid = t.cid) || (c.run = .faulted && t.resume && t.snap.isNone && c.runs t.cid t.key)

def execTimedTaskStart (cid task : Nat) (s : State) : Host.Outcome State Fault Refusal :=
  match s.tasks.find? (fun t => t.named cid task && t.state = .starting) with
  | some t =>
    match t.core with
    | some k =>
      .next (if s.qc < t.q then s
        else if !s.mayRun t then s.unbook t
        else if (s.getCore k).takes t ∧ !s.heldByOther k t.cid then s.runTask k t
        else s)
    | none => .next s
  | none => .next s

/-- A timed task of the core whose window is over. -/
def State.windowOver (s : State) (cid id : Nat) : Bool :=
  match s.taskOn s.cur cid id with
  | some t => t.timed && decide (t.q + t.w ≤ s.qc)
  | none => false

/-- The end of a window: a routine that still runs, else a task that has not ended (R232). -/
def execWindowEnd (s : State) : Host.Outcome State Fault Refusal :=
  let c := s.core
  let late : Option Routine := c.mat.routine.filter (fun r => !r.faulted && s.windowOver r.call.cid r.call.task)
  match late with
  | some r => .next (s.routineFault r { cause := .overrun })
  | none =>
    .next (if c.run = .running && c.task.timed && decide (c.task.q + c.task.w ≤ s.qc) then s.takeFault { cause := .overrun, unit := 13 } else s)

/-! ### Quanta (R279) -/

/-- The context and energy account of each task that holds a core: the one it runs, and those that still retire on it (R359). -/
def State.holdersOf (s : State) (k : Nat) (c : CoreSt) : List (Nat × Nat) :=
  ((if c.run = .idle then [] else [(c.task.cid, c.task.eacct)]) ++
    (s.tasks.filter (fun t => t.core = some k && t.state = .retiring)).map (fun t => (t.cid, t.tcb.eacct))).eraseDups

/-- How the 16 cycles of a quantum fall to those who held a core for a part of it: at which cycles it changed hands is open (log 5), and
each had at least one. -/
def shareCycles (free : Nat → Nat) : List (Nat × Nat) → Nat → Nat → List ((Nat × Nat) × Nat)
  | [], _, _ => []
  | h :: l, i, left =>
    let n := min left (1 + free i % (max 1 (left - l.length)))
    (h, n) :: shareCycles free l (i + 1) (left - n)

/-- The cycles of a quantum are counted for its holders: all 16 for each that held the core from its start to its end, a task that still
retires and the one that runs before it alike (R273, R359). -/
def CoreSt.holdCycles (c : CoreSt) (fresh : Nat) (now : List (Nat × Nat)) : CoreSt :=
  let free := fun (i : Nat) => Config.freeNat (fresh + i)
  let whole := (c.holdsNow.filter (fun x => x.2 && now.contains x.1)).map (·.1)
  let part := (c.holdsNow.filter (fun x => !(x.2 && now.contains x.1))).map (·.1)
  let shares := if whole.isEmpty then shareCycles free part 0 16
    else whole.map (fun h => (h, 16)) ++ part.zipIdx.map (fun (h : (Nat × Nat) × Nat) => (h.1, 1 + free h.2 % 16))
  let add := fun (m : List ((Nat × Nat) × Nat)) (x : (Nat × Nat) × Nat) =>
    (x.1, x.2 + (match m.find? (fun h => h.1 = x.1) with
      | some h => h.2
      | none => 0)) :: m.filter (fun h => h.1 ≠ x.1)
  { c with holders := shares.foldl add c.holders, holdsNow := now.map (fun h => (h, true)) }

/-- A ramp-up that is under way turns on 2 more macros every quantum until all 16 are active (R230). -/
def Matrix.rampOn (m : Matrix) : Matrix := if m.warm then { m with macros := max m.macros (min 16 (m.macros + 2)) } else m

/-- A quantum passes (R279): every core's cycles are counted (R359), and arrays that ramp up go on (R230). -/
def State.holdQuantum (s : State) : State :=
  let f := fun (k : Nat) (c : CoreSt) => ({ c.holdCycles (s.fresh + 16 * k) (s.holdersOf k c) with mat := c.mat.rampOn } : CoreSt)
  { s with core := f s.cur s.core, parked := s.parked.map (fun (p : Nat × CoreSt) => (p.1, f p.1 p.2)), sub := 0,
           fresh := s.fresh + 16 * Config.cores }

/-- Bookings that are over leave the calendar. -/
def State.dropLate (s : State) : State := { s with lateBooks := s.lateBooks.filter (fun b => decide (s.qc ≤ b.2.hi)) }

/-- QC advances inside a package frame, and the pending tasks are tried (R279, R283). -/
def execQuantumBoundary (s : State) : Host.Outcome State Fault Refusal :=
  if (s.qc + 1) % 64 = 0 then .next s
  else .next ({ s.holdQuantum with qc := s.qc + 1 } : State).dropLate.tryPending

/-! ### Slips (R287, R288) -/

/-- The cause a held task falls under, 0 for a task that holds nothing. -/
def Task.slipCause (t : Task) : Nat :=
  match t.state with
  | .posted => 1
  | .ready => 2
  | .pending => if t.dropped then 3 else 2
  | .faulted | .suspended => if t.state = .suspended then 6 else t.susp
  | _ => 0

/-- The task that makes a partition slip: the first by cluster, then TASK. -/
def State.heldTask (s : State) (p : Partition) : Option Task :=
  let l := s.tasks.filter (fun t =>
    let x := s.ctx t.cid
    x.tenant = p.tenant && x.kstate = .launched && (x.state = .runnable || x.state = .running) && t.timed &&
      decide (t.release ≤ p.f) && t.slipCause ≠ 0)
  (sortBy (fun a b => decide (a.clu < b.clu) || (a.clu = b.clu && decide (a.id < b.id))) l).head?

/-- A partition at a package frame boundary. -/
def Partition.boundary (p : Partition) (held : Option Task) : Partition :=
  match held, p.slip with
  | none, some r => { p with slip := none, log := aput p.log (p.slipCnt % 256) r, slipCnt := (p.slipCnt + 1) % 2 ^ 64, f := (p.f + 1) % 2 ^ 64 }
  | none, none => { p with f := (p.f + 1) % 2 ^ 64 }
  | some _, some r => { p with slip := some { r with dur := min (r.dur + 1) (2 ^ 32 - 1) } }
  | some t, none => { p with slip := some { frame := p.f, task := t.id, cause := t.slipCause, clu := t.clu, dur := 1 } }

def State.advanceF (s : State) : State := { s with parts := s.parts.map (fun p => p.boundary (s.heldTask p)) }

/-! ### Throttle (R231, R358) -/

/-- Frames in 1 s, and the least number of frames that lasts 10 ms (R4; log 19). -/
def frames1s : Nat := 1269531
def frames10ms : Nat := 12696

/-- A demand that rises by one when `up`, and falls by one after 8 consecutive frames of `low`: with its count of them. -/
def demand (up low : Bool) (d n : Nat) : Nat × Nat :=
  if up then (min (d + 1) 7, 0)
  else if low then (if n + 1 = 8 then (d - 1, 0) else (d, n + 1))
  else (d, 0)

/-- The new frame's step (R358): time within a second is counted in boundaries, whatever a beacon sets the frame counter to. -/
def Throttle.boundary (t : Throttle) (ppwr : Nat) (tmax : Int) : Throttle :=
  let p := demand (decide (t.cap < ppwr)) (decide (ppwr * 100 ≤ t.cap * 95)) t.demP t.lowP
  let h := demand (decide (760 ≤ tmax)) (decide (tmax < 720)) t.demT t.lowT
  let hist := (t.hist.filter (fun f => decide (t.count < f + frames1s))) ++ (if 2000 < ppwr then [t.count] else [])
  let c : Nat × Nat :=
    if 2400 < ppwr ∨ (2000 < ppwr ∧ frames10ms ≤ hist.length) then (4, 0)
    else if 2000 < ppwr then (t.demC, 0)
    else (if 1024 ≤ t.lowC + 1 then 0 else t.demC, min (t.lowC + 1) 1024)
  let step := max (max p.1 h.1) (max c.1 t.floor)
  let cause := if step = 0 then 0 else if p.1 = step then 1 else if h.1 = step then 2 else if c.1 = step then 3 else 4
  { t with step := step, cause := cause, frames := if step = t.step then min (t.frames + 1) (2 ^ 32 - 1) else 0,
           demP := p.1, lowP := p.2, demT := h.1, lowT := h.2, demC := c.1, lowC := c.2, hist := hist, count := t.count + 1 }

/-! ### Energy (R359) -/

/-- Adds nJ to a task account, the context and its kernel. -/
def State.charge (s : State) (cid acct n : Nat) : State :=
  s.onCtx cid (fun c =>
    let add := fun (m : List (Nat × Nat)) (k : Nat) => sset 0 m k (sget 0 m k + n)
    { c with energy := c.energy + n, ktask := add (add c.ktask acct) 256 })

/-- A core's energy of the frame, split by the cycles each task held the core, of `total` in all: nothing is lost in rounding. -/
def State.chargeSplit (e total : Nat) : List ((Nat × Nat) × Nat) → Nat → State → State
  | [], _, s => s
  | h :: l, before, s =>
    State.chargeSplit e total l (before + h.2) (s.charge h.1.1 h.1.2 (e * (before + h.2) / total - e * before / total))

/-- The cycles a core's energy of a frame is split over: its 1,024, or more where tasks held it together (R273). -/
def frameCycles (l : List ((Nat × Nat) × Nat)) : Nat := max 1024 ((l.map (·.2)).foldl (· + ·) 0)

def State.energyOf (s : State) (fin : FrameIn) : State :=
  let s := fin.energy.foldl (fun s e => 
    let l := (s.getCore e.1).holders
    ({ s with pkge := s.pkge + e.2 } : State).chargeSplit e.2 (frameCycles l) l 0) s
  { s with core := { s.core with holders := [] },
           parked := s.parked.map (fun (p : Nat × CoreSt) => (p.1, { p.2 with holders := [] })) }

/-! ### Booking instructions (R289 to R292) -/

def bookUse : CmdUse := { srcTen := false, dst := false, shape := false }

def execBkseg (u : CUnit) (g : Guard) (src : Src) (s : State) : Host.Outcome State Fault Refusal :=
  .next (s.command u g src 36 bookUse (fun c => epOff c.srcw % 256 ≠ 0))

def execBkwin (u : CUnit) (g : Guard) (src : Src) (s : State) : Host.Outcome State Fault Refusal :=
  .next (s.command u g src 37 bookUse (fun c => epOff c.srcw % 256 ≠ 0 || !([0, 1, 2, 3, 4, 7] : List Nat).contains (bookRes c.dstw)))

def execBklink (u : CUnit) (g : Guard) (src : Src) (s : State) : Host.Outcome State Fault Refusal :=
  .next (s.command u g src 38 bookUse (fun c => epOff c.srcw % 256 ≠ 0 || !([5, 6] : List Nat).contains (bookRes c.dstw)))

def execTsub (u : CUnit) (g : Guard) (src : Src) (s : State) : Host.Outcome State Fault Refusal :=
  .next (s.command u g src 39 bookUse (fun c => epOff c.srcw % 64 ≠ 0) (fill := notLocal))

/-- bkseg, bkwin and bklink start: the TCB's segment is held (R290). -/
def State.startBook (s : State) (u : CUnit) (c : Cmd) : State :=
  let name := epName c.srcw
  let r := s.acquireCmd u c [⟨name, epOff c.srcw, 0⟩] [] [] (tilesOf [(nameIdx name, epOff c.srcw, 256)])
  s.started u c r (fun s => s.runCmd u c 1)

/-- The edit of R290, in one step. -/
def State.bookElem (s : State) (u : CUnit) (c : Cmd) : Res (Nat × Nat) :=
  let name := epName c.srcw
  let off := epOff c.srcw
  let seg := c.op = 36
  let lo := if seg then 53 else 48
  (s.cmdRead u c name off 64).bind (fun s bs =>
    let w := natLE (bs.take 8)
    let n := if bit c.word 5 then 0 else nfld w lo 5
    (if seg ∧ n ≠ 0 then s.cmdRead u c name (off + 176) (2 * min n 16) else .val s []).bind (fun s pins =>
      let listed : Bool := (List.range (min n 16)).any (fun i => natLE ((pins.drop (2 * i)).take 2) = fld c.dstw 0 16)
      if seg ∧ listed then .val s (0, 1)
      else if 16 ≤ n then .fault s { cause := .illegalMove, info := 1 }
      else
        let w := w - nfld w lo 5 * 2 ^ lo + (n + 1) * 2 ^ lo
        (if seg then s.cmdWrite u c name (off + 176 + 2 * n) (bytesLE 2 (fld c.dstw 0 16))
         else s.cmdWrite u c name (off + 48 + 8 * n) (bytesLE 8 c.dstw.toNat)).bind (fun s _ =>
          (s.cmdWrite u c name off (bytesLE 8 w)).bind (fun s _ => .val s (if seg then 10 else 16, 1)))))

/-- tsub starts: the card and the return line are held. -/
def State.startTsub (s : State) (u : CUnit) (c : Cmd) : State :=
  let card : Ext := ⟨epName c.srcw, epOff c.srcw, 64⟩
  let ret : Ext := ⟨epName c.dstw, epOff c.dstw, 16⟩
  let r := s.acquireCmd u c [card, ret] [] [] (tilesOf [(nameIdx card.name, card.off, 64)])
  s.started u c r (fun s => s.runCmd u c 1)

/-- The offer of a tsub (R291), its outcome known at once unless the card is posted. -/
def State.tsubOffer (s : State) (u : CUnit) (c : Cmd) (bs : List Byte) : State :=
  let card := decodeCard (BitVec.ofNat 512 (natLE bs))
  let out := fun (s : State) (st : Nat) => s.setCmd u c.id (fun x =>
    { x with performed := true, ready := true, acc := [(0, BitVec.allOnes 64), (1, BitVec.ofNat 64 st)] })
  if !card.timed then out s 2
  else
    let n := s.tasks.length
    let r := s.offer c.cid (s.linIn c.cid / 4) card
    match r.2 with
    | 0 => ({ r.1 with tasks := r.1.tasks.modify n (fun t => { t with tsub := some (s.cur, u, c.id) }) } : State).setCmd u c.id
        (fun x => { x with performed := true })
    | 1 => out s 1
    | _ => out s 2

/-- The element of a tsub: the offer, deferred to the commit in committed mode; then the 16 bytes of its outcome. -/
def State.tsubElem (s : State) (u : CUnit) (c : Cmd) : State × Option (Res (Nat × Nat)) :=
  if c.ready then
    (s, some ((s.cmdWrite u c (epName c.dstw) (epOff c.dstw)
      (bytesLE 8 ((alook c.acc 0).getD 0).toNat ++ bytesLE 8 ((alook c.acc 1).getD 0).toNat)).bind (fun s _ => .val s (16, 1))))
  else if c.performed || c.cm then (s, none)
  else
    match s.cmdRead u c (epName c.srcw) (epOff c.srcw) 64 with
    | .val s bs => (s.tsubOffer u c bs, none)
    | .fault s f => (s, some (.fault s f))
    | .hold => (s, some .hold)

/-- The earliest q at which the core's sequencer is free for n quanta and its clear (R292 SEL 3). -/
def State.freeSeq (s : State) (n : Nat) : Option Nat :=
  let cq := s.me.cq
  let mine := s.bookings.filter (fun b => b.res = 0 && b.core = s.cur)
  ((List.range (s.qc + Config.horizon + 1 - n + 1 - (s.qc + 1 + cq))).map (· + (s.qc + 1 + cq))).find? (fun q =>
    fits mine [{ res := 0, core := s.cur, mask := 0, lo := q - cq, hi := q + n - 1 }])

/-- What calq delivers (R292); the window of a task that is not placed is open. -/
def State.calqValues (s : State) (sel arg : Nat) : W64 × W64 :=
  let p := s.partOf s.me.tenant
  let pclu := s.cur / 4
  match sel with
  | 0 => (BitVec.ofNat 64 s.qc, BitVec.ofNat 64 (s.frameOf s.me.tenant))
  | 1 =>
    match s.tasks.find? (fun t => t.named s.cid arg && t.timed && s.me.group.pclu t.clu = pclu &&
        (t.state = .booked || t.state = .starting || t.state = .running)) with
    | some t => (BitVec.ofNat 64 t.q, BitVec.ofNat 64 t.w)
    | none => (BitVec.allOnes 64, Config.freeWord s.fresh)
  | 2 =>
    match p with
    | some p => (BitVec.ofNat 64 p.slipCnt, if p.slip.isSome then 1 else 0)
    | none => (0, 0)
  | 3 =>
    match s.freeSeq arg with
    | some q => (BitVec.ofNat 64 q, 0)
    | none => (BitVec.allOnes 64, 0)
  | _ => (BitVec.ofNat 64 s.throttle.step,
      BitVec.ofNat 64 (s.tasks.filter (fun t => t.state = .pending && (s.ctx t.cid).group.pclu t.clu = pclu)).length)

def execCalq (u : CUnit) (g : Guard) (src : Src) (s : State) : Host.Outcome State Fault Refusal :=
  .next (s.trigger u.dom g src 0 (some 2) (fun tr =>
    let w := tr.t.scalar
    let sel := fld w 5 3
    if 5 ≤ sel then s.raiseIn u.dom.slot { cause := .illegalMove }
    else
      let v := s.calqValues sel (fld w 32 32)
      s.tickFresh.deliver tr 2 (.sc v.1) (v2 := some (.sc v.2)) (more := [.commit])))

end Sys2Proof.Machine
end

