-- ==== Sys2Proof/Machine/Gander.lean ====
section
/-! DEFINITION. The Gander (17_routing_engine): routing slots and commands (R317 to R320, R328 to R332, R335), the passes (R321 to
R324, R333), what a receiving Gander does with row, pull, return, free and acknowledge messages (R325 to R327, R331, R332, R375). -/

namespace Sys2Proof.Machine

/-! ### Slots (R317, R318) -/

def State.gslot (s : State) (key : Nat) : GSlot := (alook s.gslots key).getD {}

def State.setSlot (s : State) (key : Nat) (g : GSlot) : State := { s with gslots := aput s.gslots key g }

def gSlotOf (c : Cmd) : Nat := fld c.word 6 4

/-- The slot of the die of the core in focus. -/
def State.gMine (s : State) (c : Cmd) : Nat := gKey (dieOf s.cur) (gSlotOf c)

/-- Whether a slot is apportioned to the core's cluster (R317). -/
def State.slotOurs (s : State) (slot : Nat) : Bool :=
  match s.partOf s.me.tenant with
  | some p => p.pipes.contains (s.cur / 4, slot / 4)
  | none => false

def GState.num : GState → Nat
  | .empty => 0
  | .configured => 1
  | .running => 2
  | .done => 3
  | .freeing => 4
  | .faulted => 5
  | .inverting => 6

/-! ### Triggers (R317, R328, R329) -/

def gUse : CmdUse := { src := false, dst := false, shape := false }

def State.gBad (s : State) (c : Cmd) : Bool := sigSk c.sigw = 3 || !s.slotOurs (gSlotOf c)

def execRtcfg (u : CUnit) (g : Guard) (src : Src) (s : State) : Host.Outcome State Fault Refusal :=
  .next (s.command u g src 15 { srcTen := false, dst := false, shape := false } (fun c => s.gBad c || epOff c.srcw % 64 ≠ 0)
    (fill := notLocal))

def execRtgo (u : CUnit) (g : Guard) (src : Src) (s : State) : Host.Outcome State Fault Refusal :=
  .next (s.command u g src 16 gUse s.gBad (fill := notLocal))

def execRtinv (u : CUnit) (g : Guard) (src : Src) (s : State) : Host.Outcome State Fault Refusal :=
  .next (s.command u g src 18 gUse s.gBad (fill := notLocal))

def execRtfree (u : CUnit) (g : Guard) (src : Src) (s : State) : Host.Outcome State Fault Refusal :=
  .next (s.command u g src 19 gUse s.gBad (fill := notLocal))

/-- The value of rtstat (R329). -/
def GSlot.stat (g : GSlot) (sel exp : Nat) : Nat :=
  match sel with
  | 0 => pack [(0, 3, g.state.num), (3, 1, b2n g.badx), (4, 3, g.pass), (7, 20, g.token)]
  | 1 => g.novfl
  | 2 => g.ndrop
  | _ => if g.blk.nexp ≤ exp then 0 else g.cntOf exp

def execRtstat (u : CUnit) (g : Guard) (src : Src) (s : State) : Host.Outcome State Fault Refusal :=
  .next (s.trigger u.dom g src 0 (some 2) (fun tr =>
    let w := tr.t.scalar
    let slot := fld w 0 4
    let sl := s.gslot (gKey (dieOf s.cur) slot)
    let foreign : Bool := !s.slotOurs slot || (sl.ever && sl.cid ≠ s.cid)
    let v := if foreign then 2 ^ 63 else sl.stat (fld w 4 2) (fld w 6 12)
    s.deliver tr 2 (.sc (BitVec.ofNat 64 v)) (v2 := some (.sc 0)) (more := [.commit])))

/-! ### Areas -/

/-- Bytes of an area, whose segment the slot holds. -/
def State.areaRead (s : State) (cid : Nat) (w : W64) (off n : Nat) : Res (List Byte) :=
  let idx := nameIdx (epName w)
  let g := s.seg cid idx
  if g.state = .poisoned then .fault s { cause := .tilePoison, info := BitVec.ofNat 64 g.poison, wher := segWhere (epName w) (epOff w + off) }
  else if g.tilesOk (epOff w + off) n false then .val s (s.segRead cid idx (epOff w + off) n) else .hold

def State.areaWrite (s : State) (cid : Nat) (w : W64) (off : Nat) (bs : List Byte) : Res Unit :=
  let idx := nameIdx (epName w)
  let g := s.seg cid idx
  if g.state = .poisoned then .fault s { cause := .tilePoison, info := BitVec.ofNat 64 g.poison, wher := segWhere (epName w) (epOff w + off) }
  else if g.tilesOk (epOff w + off) bs.length true then .val (s.segWrite cid idx (epOff w + off) bs) () else .hold

/-- Whether a write of an area would fault or wait, without the write. -/
def State.areaOk (s : State) (cid : Nat) (w : W64) (off n : Nat) : Res Unit :=
  let idx := nameIdx (epName w)
  let g := s.seg cid idx
  if g.state = .poisoned then .fault s { cause := .tilePoison, info := BitVec.ofNat 64 g.poison, wher := segWhere (epName w) (epOff w + off) }
  else if g.tilesOk (epOff w + off) n true then .val s () else .hold

/-! ### The pipes (R317) -/

/-- A command that still waits for its pipe. -/
def State.waitsPipe (s : State) (e : Nat × Nat × CUnit × Nat) : Bool :=
  ((s.getCore e.2.1).eng e.2.2.1).cmds.any (fun c => c.id = e.2.2.2 && c.st = .queued)

/-- The pipe runs another dispatch. -/
def State.pipeBusy (s : State) (key : Nat) : Bool :=
  s.gslots.any (fun g => g.1 ≠ key && g.1 / 4 = key / 4 && (g.2.state = .running || g.2.state = .inverting || g.2.state = .faulted))

/-- A pipe takes its commands in the order of their arrival, a dispatch only when it runs no other; until then the command waits. -/
def State.atPipe (s : State) (u : CUnit) (c : Cmd) (dispatch : Bool) (f : State → State) : State :=
  let key := s.gMine c
  let me := (key / 4, s.cur, u, c.id)
  let l := s.gwait.filter s.waitsPipe
  let s := { s with gwait := if l.contains me then l else l ++ [me] }
  if s.gwait.find? (fun e => e.1 = key / 4) ≠ some me ∨ (dispatch && s.pipeBusy key) then s else f s

/-! ### rtcfg (R319, R320) -/

def gBlockOf (w : Nat) : GBlock where
  nexp := nfld w 0 13
  k := nfld w 13 3
  nc := nfld w 16 3
  cap := nfld w 20 16
  ntok := nfld w 64 20
  rowb := nfld w 96 15
  choice := BitVec.ofNat 64 (nfld w 128 64)
  tokens := BitVec.ofNat 64 (nfld w 192 64)
  map := BitVec.ofNat 64 (nfld w 256 64)
  counts := BitVec.ofNat 64 (nfld w 320 64)
  ovfl := BitVec.ofNat 64 (nfld w 384 64)
  drops := BitVec.ofNat 64 (nfld w 448 64)
  inv := BitVec.ofNat 64 (nfld w 512 64)
  ret := BitVec.ofNat 64 (nfld w 576 64)

/-- The index of the first word with a field outside its limits. -/
def GBlock.badWord (b : GBlock) : Option Nat :=
  if b.nexp = 0 ∨ 4096 < b.nexp ∨ b.k = 0 ∨ 4 < b.k ∨ b.nc < b.k ∨ 4 < b.nc ∨ b.cap = 0 ∨ 2 ^ 24 < b.nexp * b.cap then some 0
  else if b.ntok = 0 ∨ b.rowb = 0 ∨ b.rowb % 64 ≠ 0 ∨ 16384 < b.rowb then some 1
  else none

/-- The areas with their largest contents. -/
def GBlock.areas (b : GBlock) : List Ext :=
  let e := fun (w : W64) (n : Nat) => (⟨epName w, epOff w, n⟩ : Ext)
  [e b.choice (16 * b.ntok), e b.map (32 * b.nexp), e b.counts (4 * b.nexp), e b.ovfl (8 * b.k * b.ntok), e b.drops (8 * b.k * b.ntok),
   e b.inv (8 * b.k * b.ntok)] ++ (if epName b.ret = 0 then [] else [e b.ret (b.nexp * b.cap * b.rowb)])

/-- A routing command faults as it starts, with UNIT 11. -/
def State.gStartFault (s : State) (u : CUnit) (c : Cmd) (f : FaultInfo) : State := s.cmdFault u c { f with unit := 11 }

/-- A command of one element whose element is done. -/
def State.gDone (s : State) (u : CUnit) (c : Cmd) : State := (s.runCmd u c 1).setCmd u c.id (fun x => { x with elem := 1 })

def State.startRtcfg (s : State) (u : CUnit) (c : Cmd) : State :=
  let key := s.gMine c
  let sl := s.gslot key
  if sl.state ≠ .empty ∧ sl.state ≠ .configured then s.gStartFault u c { cause := .illegalMove }
  else s.atPipe u c false (fun s =>
    match (s.ctx c.cid).acquire c.pinsFor none true [⟨epName c.srcw, epOff c.srcw, 128⟩] with
    | .fault f => s.gStartFault u c f
    | .hold => s.cmdHold u c
    | .ok block =>
      match s.cmdRead u c (epName c.srcw) (epOff c.srcw) 128 with
      | .hold => s.cmdHold u c
      | .fault s f => s.gStartFault u c f
      | .val s bs =>
        let s := block.foldl (fun s i => s.touch c.cid i) s
        let b := gBlockOf (natLE bs)
        match b.badWord with
        | some i => s.gStartFault u c { cause := .illegalMove, info := BitVec.ofNat 64 i }
        | none =>
          match (s.ctx c.cid).acquire c.pinsFor none true b.areas with
          | .fault f => s.gStartFault u c f
          | .hold => s.cmdHold u c
          | .ok segs =>
            let s := s.holdSet c.cid segs
            let s := sl.held.foldl (fun s i => s.dropInb sl.cid i) s
            (s.setSlot key { state := .configured, cid := c.cid, ever := true, blk := b, held := segs, taskId := c.task }).gDone u c)

/-! ### The start of a dispatch (R318, R322, R323, R335) -/

def mapEntOf (w : Nat) : MapEnt where
  name := BitVec.ofNat 16 (nfld w 0 16)
  remote := nfld w 16 1 = 1
  pkg := nfld w 17 10
  rctx := nfld w 27 10
  pmt := nfld w 37 8
  rten := nfld w 45 6
  rrow := nfld w 64 32
  rctr := nfld w 96 12
  rccl := nfld w 108 6
  sen := nfld w 114 1 = 1
  outn := BitVec.ofNat 16 (nfld w 128 16)
  orow := nfld w 192 32

/-- A timed rtgo or rtinv outside a gander entry for its pipe (R335). -/
def State.gStall (s : State) (c : Cmd) : Bool :=
  c.timed && !(match s.taskOn s.cur c.cid c.task with
    | some t => t.book.any (fun b => b.res = 7 && nfld b.mask (gSlotOf c / 4) 1 = 1 && decide (b.lo ≤ s.qc) && decide (s.qc ≤ b.hi))
    | none => false)

/-- A destination that rtgo refuses: a package outside the fabric; a local region that is stale or too small (R322). -/
def Ctx.mapFault (x : Ctx) (s : State) (b : GBlock) (e : Nat) (m : MapEnt) : Option FaultInfo :=
  if m.remote then (if s.inFabric m.pkg then none else some { cause := .illegalMove, info := BitVec.ofNat 64 e })
  else if x.stale m.name then some { cause := .segStale, info := BitVec.ofNat 64 e, wher := segWhere m.name 0 }
  else if (x.seg (nameIdx m.name)).size * 64 < (m.rrow + b.cap) * b.rowb then
    some { cause := .segBounds, info := BitVec.ofNat 64 e, wher := segWhere m.name (m.rrow * b.rowb) }
  else none

/-- Whether a slot is the command's own and in a state that lets it start. -/
def GSlot.ready (sl : GSlot) (c : Cmd) (st : GState) : Bool := sl.state = st && sl.cid = c.cid

def State.startRtgo (s : State) (u : CUnit) (c : Cmd) : State :=
  let key := s.gMine c
  let sl := s.gslot key
  if !sl.ready c .configured then s.gStartFault u c { cause := .illegalMove }
  else if s.gStall c then s.gStartFault u c { cause := .timedStall }
  else s.atPipe u c true (fun s =>
    match s.areaRead c.cid sl.blk.map 0 (32 * sl.blk.nexp) with
    | .hold => s.cmdHold u c
    | .fault s f => s.gStartFault u c f
    | .val s bs =>
      let map := (List.range sl.blk.nexp).map (fun e => (e, mapEntOf (natLE ((bs.drop (32 * e)).take 32))))
      match map.findSome? (fun m => (s.ctx c.cid).mapFault s sl.blk m.1 m.2) with
      | some f => s.gStartFault u c f
      | none =>
        (s.setSlot key { sl with state := .running, badx := false, cnt := [], pass := 1, token := 0, rank := 0, novfl := 0, ndrop := 0,
                                 inv := [], map := map, drew := [], cmd := some (s.cur, u, c.id), taskId := c.task, inverting := false,
                                 pins := c.pinsFor }).runCmd u c 1)

/-! ### The passes (R321 to R325, R333) -/

/-- A candidate of a choice row: its expert and weight. -/
def candidate (row : List Byte) (c : Nat) : Nat × Nat :=
  let w := natLE ((row.drop (4 * c)).take 4)
  (nfld w 0 12, nfld w 16 16)

def GBlock.isCand (b : GBlock) (e : Nat) : Bool := e ≠ 0xFFF && decide (e < b.nexp)

/-- held(t): the experts of the entries of token t that this dispatch has written with DROP 0. -/
def GSlot.held_ (g : GSlot) (t : Nat) : List Nat :=
  (List.range g.blk.k).filterMap (fun j =>
    match alook g.inv (g.blk.k * t + j) with
    | some w => if bit w 63 then none else some (fld w 0 24 / g.blk.cap)
    | none => none)

/-- An inverse entry is written (R246, R323). -/
def State.putInv (s : State) (g : GSlot) (key : Nat) (w : W64) : Res GSlot :=
  (s.areaWrite g.cid g.blk.inv (8 * key) (bytesLE 8 w.toNat)).bind (fun s _ => .val s { g with inv := aput g.inv key w })

/-- Token t's row, whole; in a timed task its segment has to be pinned (R121). -/
def State.tokenRow (s : State) (g : GSlot) (t : Nat) : Res (List Byte) :=
  let w := g.blk.tokens
  let n := g.blk.rowb
  if epT w then
    match s.tensor (epTid w) with
    | none => .fault s (pagePerm (epTid w) 0 6)
    | some x =>
      match x.rowCol [t, 0] with
      | some (row, b) =>
        if x.rowBytes < b + n then .fault s (pagePerm (epTid w) 0 3)
        else
          let runs := x.runs row b n
          match State.touchAll g.cid none (epTid w) false (pagesOf runs) s with
          | (s, none) => .val s (s.readRuns (epTid w) runs)
          | (s, some f) => .fault s f
      | none => .fault s (pagePerm (epTid w) 0 3)
  else
    let off := epOff w + t * n
    match (s.ctx g.cid).acquire g.pins none true [⟨epName w, off, n⟩] with
    | .fault f => .fault s f
    | .hold => .hold
    | .ok segs =>
      if (s.seg g.cid (nameIdx (epName w))).tilesOk off n false then
        .val (segs.foldl (fun s i => s.touch g.cid i) s) (s.segRead g.cid (nameIdx (epName w)) off n)
      else .hold

/-- The permit of a remote region (R325, R353): the first row draws the region's credit. -/
def State.drawPermit (s : State) (g : GSlot) (e : Nat) : Res GSlot :=
  let d := g.destOf e
  if !d.remote then .val s g
  else
    let draw := if g.drew.contains e then 0 else g.blk.cap * g.blk.rowb
    match (s.permit g.cid d.pmt).refuses s.frame draw with
    | some i => .fault s { cause := .permitExpired, info := BitVec.ofNat 64 i }
    | none =>
      .val (s.setPermit g.cid d.pmt (fun p => { p with credit := p.credit - draw, drawn := p.drawn + draw }))
        { g with drew := if g.drew.contains e then g.drew else e :: g.drew }

/-- The packets of a row. -/
def chunksOf (bs : List Byte) : List (Nat × List Byte) :=
  (List.range (cdiv bs.length 1024)).map (fun i => (i, (bs.drop (1024 * i)).take 1024))

/-- `assign` of R323 with the token's row: every fault it can raise is found before anything changes (R325, R333). -/
def State.assign (s : State) (key : Nat) (g : GSlot) (t j e wt : Nat) (fb : Bool) (row : List Byte) : Res GSlot :=
  let m := g.cntOf e
  let w : W64 := BitVec.ofNat 64 (pack [(0, 24, e * g.blk.cap + m), (32, 16, wt)])
  (s.areaOk g.cid g.blk.inv (8 * (g.blk.k * t + j)) 8).bind (fun s _ =>
    (s.drawPermit g e).bind (fun s g =>
      (s.putInv g (g.blk.k * t + j) w).bind (fun s g =>
        let g := { g with cnt := sset 0 g.cnt e (m + 1) }
        let d := g.destOf e
        let msg := { s.gMsg key g e with slot := m, token := t, rank := j, weight := wt, fb := fb }
        .val ((chunksOf row).foldl (fun s c => s.sendRow d.pkg d.remote { msg with chunk := c.1, data := c.2 }) s) g)))

/-- The choice row of token t; an expert out of range sets BADX. -/
def State.choiceRow (s : State) (g : GSlot) (t : Nat) : Res (GSlot × List (Nat × Nat)) :=
  (s.areaRead g.cid g.blk.choice (16 * t) 16).bind (fun s row =>
    let cs := (List.range g.blk.nc).map (candidate row)
    .val s ({ g with badx := g.badx || cs.any (fun c => c.1 ≠ 0xFFF && decide (g.blk.nexp ≤ c.1)) }, cs))

/-- What every element reads: its choice row, its inverse entry and its token row, also where it then defers or drops (R323, R333). -/
def State.elemRows (s : State) (g : GSlot) (t j : Nat) : Res (GSlot × List (Nat × Nat) × List Byte) :=
  (s.choiceRow g t).bind (fun s r =>
    (s.areaRead g.cid g.blk.inv (8 * (g.blk.k * t + j)) 8).bind (fun s _ =>
      (s.tokenRow g t).bind (fun s row => .val s (r.1, r.2, row))))

/-- An element of rank pass j + 1. -/
def State.rankElem (s : State) (key : Nat) (g : GSlot) : Res GSlot :=
  let t := g.token
  let j := g.pass - 1
  (s.elemRows g t j).bind (fun s r =>
    let g := r.1
    let c := r.2.1.getD j (0xFFF, 0)
    let dup := (g.held_ t).contains c.1
    (if g.blk.isCand c.1 && !dup && decide (g.cntOf c.1 < g.blk.cap) then s.assign key g t j c.1 c.2 false r.2.2
     else s.putInv g (g.blk.k * t + j) (BitVec.ofNat 64 (pack [(0, 12, c.1), (12, 1, b2n dup), (62, 1, 1), (63, 1, 1)]))).bind (fun s g =>
      .val s (if t + 1 < g.blk.ntok then { g with token := t + 1 }
        else if g.pass < g.blk.k then { g with token := 0, pass := g.pass + 1 }
        else { g with token := 0, pass := 5, rank := 0 })))

/-- The next entry with PEND, from a key on. -/
def nextPend (inv : List (Nat × W64)) (from_ : Nat) : Option (Nat × W64) := inv.find? (fun e => decide (from_ ≤ e.1) && bit e.2 62)

/-- An element of the fallback pass: the entry at `k`. -/
def State.fallElem (s : State) (key : Nat) (g : GSlot) (k : Nat) (w : W64) : Res GSlot :=
  let t := k / g.blk.k
  let j := k % g.blk.k
  let x := fld w 0 12
  let dup := bit w 12
  (s.elemRows g t j).bind (fun s r =>
    let g := r.1
    let held := g.held_ t
    let pick := r.2.1.find? (fun c => g.blk.isCand c.1 && c.1 ≠ x && !held.contains c.1 && decide (g.cntOf c.1 < g.blk.cap))
    let rec_ := fun (f slot : Nat) => BitVec.ofNat 64 (pack [(0, 20, t), (20, 2, j), (22, 12, x), (34, 1, b2n dup), (35, 12, f),
      (47, 1, b2n pick.isNone), (48, 16, slot)])
    let put := fun (s : State) (g : GSlot) (v : W64) =>
      (s.areaWrite g.cid g.blk.ovfl (8 * g.novfl) (bytesLE 8 v.toNat)).bind (fun s _ => Res.val s { g with novfl := g.novfl + 1 })
    let next := fun (g : GSlot) => { g with token := (k + 1) / g.blk.k, rank := (k + 1) % g.blk.k }
    -- the records this element writes find their faults first
    (s.areaOk g.cid g.blk.ovfl (8 * g.novfl) 8).bind (fun s _ => (s.areaOk g.cid g.blk.drops (8 * g.ndrop) (if pick.isNone then 8 else 0)).bind (fun s _ =>
    match pick with
    | some (f, wt) =>
      let m := g.cntOf f
      (s.assign key g t j f wt true r.2.2).bind (fun s g => (put s g (rec_ f m)).bind (fun s g => .val s (next g)))
    | none =>
      (s.putInv g k (1#64 <<< 63)).bind (fun s g => (put s g (rec_ 0xFFF 0)).bind (fun s g =>
        (s.areaWrite g.cid g.blk.drops (8 * g.ndrop) (bytesLE 8 (pack [(0, 20, t), (20, 2, j), (22, 12, x)]))).bind (fun s _ =>
          .val s (next { g with ndrop := g.ndrop + 1 })))))))

/-- The end of the passes: COUNTS, and a LAST packet for every destination with SEN (R323, R327). -/
def State.finishGo (s : State) (key : Nat) (g : GSlot) : Res GSlot :=
  (s.areaWrite g.cid g.blk.counts 0 ((List.range g.blk.nexp).flatMap (fun e => bytesLE 4 (g.cntOf e)))).bind (fun s _ =>
    let s := (g.map.filter (fun m => m.2.sen)).foldl (fun s m =>
      s.sendRow m.2.pkg m.2.remote { s.gMsg key g m.1 with slot := g.cntOf m.1, last := true }) s
    .val s { g with state := .done, pass := 0, token := 0 })

/-- Runs with core k in focus, and puts the focus back. -/
def State.atCore (s : State) (k : Nat) (f : State → State) : State := (f (s.focus k)).focus s.cur

/-- The command of a slot has done its element. -/
def State.gEnd (s : State) (g : GSlot) : State :=
  match g.cmd with
  | some (k, u, id) => s.setCmdOn k u id (fun x => { x with elem := x.total })
  | none => s

/-- RESUME of an element (R333). -/
def GSlot.resume (g : GSlot) (j : Nat) : Nat := pack [(0, 20, g.token), (20, 3, g.pass), (23, 2, if g.pass = 5 then j else 0)]

/-- An element's fault: the slot is FAULTED, its working state as it stood (R318, R333). -/
def State.gFault (s : State) (key : Nat) (g : GSlot) (u : CUnit) (c : Cmd) (f : FaultInfo) : State :=
  let s := s.setSlot key { g with state := .faulted }
  let s := s.setCmd u c.id (fun x => { x with st := .faulted, wait := f.recalls, waitPg := f.waitPage })
  let r := s.engineFault { f with unit := 11, bidx := some c.bidx, resume := BitVec.ofNat 64 (g.resume g.rank) } c.cid c.task
  r.1.setCmd u c.id (fun x => { x with auto := r.2 })

/-- One element of a dispatch on the command's core. One that would wait raises TIMED_STALL in a timed task (R123). -/
def State.goElement (s : State) (key : Nat) (g : GSlot) (u : CUnit) (c : Cmd) : State :=
  let g := { g with state := .running }
  -- a fallback element is named by its token and rank
  let pend := if g.pass = 5 then nextPend g.inv (g.blk.k * g.token + g.rank) else none
  let g : GSlot := match pend with
    | some (k, _) => { g with token := k / g.blk.k, rank := k % g.blk.k }
    | none => g
  let r : Res GSlot := if g.pass ≠ 5 then s.rankElem key g else
    match pend with
    | some (k, w) => s.fallElem key g k w
    | none => s.finishGo key g
  match r with
  | .val s g => let s := s.setSlot key g
                if g.state = .done then s.gEnd g else s
  | .fault s f => s.gFault key g u c f
  | .hold => if c.timed then s.gFault key g u c { cause := .timedStall } else s

/-- The next element of a running dispatch, or of a faulted one whose command has been resumed. -/
def execGanderElement (die slot : Nat) (s : State) : Host.Outcome State Fault Refusal :=
  if 4 ≤ die ∨ 16 ≤ slot then .fault .noSuchUnit
  else
    let key := gKey die slot
    let g := s.gslot key
    match g.cmd with
    | some (k, u, id) =>
      match s.cmdOf u id with
      | some c =>
        .next (if k = s.cur && c.st = .running && (g.state = .running || (g.state = .faulted && !g.inverting)) then s.goElement key g u c else s)
      | none => .next s
    | none => .next s

/-! ### rtinv and rtfree (R331, R332) -/

def State.startRtinv (s : State) (u : CUnit) (c : Cmd) : State :=
  let key := s.gMine c
  let sl := s.gslot key
  if !sl.ready c .done || epName sl.blk.ret = 0 then s.gStartFault u c { cause := .illegalMove }
  else if s.gStall c then s.gStartFault u c { cause := .timedStall }
  else s.atPipe u c true (fun s =>
    let es := (List.range sl.blk.nexp).filter (fun e => sl.cntOf e ≠ 0)
    let rows := (es.map sl.cntOf).foldl (· + ·) 0
    let sl := { sl with state := if rows = 0 then .done else .inverting, inverting := true, cmd := some (s.cur, u, c.id), taskId := c.task,
                        got := [], left := rows * cdiv sl.blk.rowb 1024 }
    let s := (s.setSlot key sl).runCmd u c 1
    let s := es.foldl (fun s e =>
      let d := sl.destOf e
      s.sendRow d.pkg d.remote { s.gMsg key sl e with slot := sl.cntOf e, pull := true }) s
    if rows = 0 then s.gEnd sl else s)

def State.startRtfree (s : State) (u : CUnit) (c : Cmd) : State :=
  let key := s.gMine c
  let sl := s.gslot key
  if !sl.ready c .done then s.gStartFault u c { cause := .illegalMove }
  else s.atPipe u c false (fun s =>
    let es := sl.experts
    let free := fun (s : State) (e : Nat) => s.sendFree key sl false e
    let sl := { sl with state := if es.isEmpty then .configured else .freeing, cmd := some (s.cur, u, c.id), taskId := c.task, left := es.length }
    let s := (s.setSlot key sl).runCmd u c 1
    let s := es.foldl free s
    if es.isEmpty then s.gEnd sl else s)

/-! ### The receiving Gander (R327, R331, R332, R375) -/

/-- The die whose Gander a message is for; one from another package, which names no die, is for die 0 (log 20). -/
def State.msgDie (s : State) (m : RowMsg) : Nat :=
  if m.ret || m.ack then m.srcDie
  else if m.dest.remote then 0
  else (s.ctx m.ctx).group.pclu (s.seg m.ctx (nameIdx m.dest.name)).home / 16

inductive MsgKind where
  | row | pull | ret | free | ack
deriving DecidableEq, Repr

def RowMsg.kind (m : RowMsg) : MsgKind := if m.ack then .ack else if m.free then .free else if m.pull then .pull else if m.ret then .ret else .row

def Region.is (r : Region) (die : Nat) (m : RowMsg) : Bool :=
  r.srcPkg = m.srcPkg && r.srcCid = m.srcCid && r.expert = m.expert && r.die = die && r.cid = m.ctx

/-- Whether a region is that of a message's dispatch: the one that opened it (R334, R375). -/
def Region.ofDispatch (r : Region) (m : RowMsg) : Bool := r.srcDie = m.srcDie && r.srcSlot = m.srcSlot

def State.regionOf (s : State) (die : Nat) (m : RowMsg) : Region :=
  (s.regions.find? (fun r => r.is die m)).getD
    { srcPkg := m.srcPkg, srcCid := m.srcCid, srcDie := m.srcDie, srcSlot := m.srcSlot, expert := m.expert, die := die, cid := m.ctx, dest := m.dest, rowb := m.rowb, cap := m.cap }

/-- Whether a PULL may be answered: the region of its dispatch is complete, with the bit of every row that it asks for (R375). -/
def State.pullable (s : State) (die : Nat) (m : RowMsg) : Bool :=
  let r := s.regionOf die m
  r.complete && r.ofDispatch m && (List.range m.slot).all (fun i => sget false r.bits i)

/-- The queue that a message came in by: a port and a virtual network; those of KIND 2 have one class (log 15). -/
def RowMsg.queue (m : RowMsg) : Option Nat × Nat := (m.port.map (·.1), m.net)

/-- The messages for a die that no other holds up: one that waits presses back on its own network and class, whatever the kinds of those
behind it (R327, R341), but a PULL that waits for its region does so in the Gander (R375). -/
def State.unheld (s : State) (die : Nat) : List RowMsg :=
  (s.rowIn.filter (fun m => s.msgDie m = die)).foldl (fun (l : List RowMsg) m =>
    if l.any (fun x => x.queue = m.queue && (x.kind ≠ .pull || s.pullable die x)) then l else l ++ [m]) []

/-- Those of a kind. -/
def State.heads (s : State) (die : Nat) (k : MsgKind) : List RowMsg := (s.unheld die).filter (fun m => m.kind = k)

/-- The first of the messages that does not have to wait is dealt with; `f` says whether it was. -/
def State.tryHeads (f : RowMsg → State → State × Bool) : List RowMsg → State → State
  | [], s => s
  | m :: l, s =>
    let r := f m s
    if r.2 then r.1 else State.tryHeads f l r.1

/-- One message of a kind for the Gander of a die. -/
def State.onMsg (s : State) (die : Nat) (k : MsgKind) (f : RowMsg → State → State × Bool) : Host.Outcome State Fault Refusal :=
  if 4 ≤ die then .fault .noSuchUnit else .next (State.tryHeads f (s.heads die k) s)

def State.dropMsg (s : State) (m : RowMsg) : State := { s with rowIn := s.rowIn.erase m }

/-- A message whose context is gone: one from the fabric leaves an orphan record (R354). -/
def State.lostMsg (s : State) (m : RowMsg) : State :=
  match m.port with
  | some (l, seq, raw) => (s.dropMsg m).orphan l 3 seq raw
  | none => s.dropMsg m

def State.setRegion (s : State) (die : Nat) (m : RowMsg) (r : Region) : State :=
  if s.regions.any (fun x => x.is die m) then { s with regions := s.regions.map (fun x => if x.is die m then r else x) }
  else { s with regions := s.regions ++ [r] }

/-- A record of the Gander in the ring of a receiving context; no task is suspended (R327). -/
def State.gRecord (s : State) (cid : Nat) (f : FaultInfo) : State :=
  s.record cid { code := f.cause.code, rstb := false, roll := false, auto := false, unit := 11, core := 0, task := 0, bidx := 0, mark := 0,
                 frame := BitVec.ofNat 64 (s.frameCtx cid), wher := f.wher, info := f.info, resume := 0 } none

/-- Whether a context can receive. -/
def State.receives (s : State) (cid : Nat) : Bool :=
  match alook s.ctxs cid with
  | some c => c.state ≠ .draining && c.state ≠ .destroyed
  | none => false

/-- A fault that makes a Gander wait rather than drop: a recall, a page that can still come. -/
def FaultInfo.waits (f : FaultInfo) : Bool := f.cause = .segAbsent || f.cause = .pageAbsent

/-- Access of a Gander to row n of a buffer of a receiving context: the state after it, with the segment or the runs. -/
def State.rowAccess (s : State) (cid : Nat) (remote : Bool) (name : W16) (n rowb : Nat) (write : Bool) : Res (Option (Nat × List (Nat × Nat))) :=
  if remote then
    let tid := name.toNat
    match s.tensor tid with
    | none => .fault s (pagePerm tid 0 6)
    | some t =>
      match t.rowCol (n :: List.replicate 5 0) with
      | some (row, b) =>
        if t.rowBytes < b + rowb then .fault s (pagePerm tid 0 3)
        else
          let runs := t.runs row b rowb
          match State.touchAll cid none tid write (pagesOf runs) s with
          | (s, none) => .val s (some (tid, runs))
          | (s, some f) => .fault s f
      | none => .fault s (pagePerm tid 0 3)
  else
    match (s.ctx cid).acquire none none true [⟨name, n * rowb, rowb⟩] with
    | .fault f => if f.cause = .segAbsent then .fault (s.recallOnce cid f.recalls) f else .fault s f
    | .hold => .hold
    | .ok segs => .val (segs.foldl (fun s i => s.touch cid i) s) none

/-- Completion of a region: tiles READY, counts dropped, RCTR decremented once. -/
def State.regionDone (s : State) (die : Nat) (m : RowMsg) (r : Region) : State :=
  match r.last with
  | some n =>
    if r.bits.length = n && !r.complete && !r.dropped then
      let s := (s.freeRegion r).setRegion die m { r with complete := true, tiles := [], pages := [] }
      s.sendDec r.cid r.dest.rccl r.dest.rctr 64
    else s.setRegion die m r
  | none => s.setRegion die m r

/-- The bytes of its segment that a region covers: offset and length. -/
def State.regionSpan (s : State) (r : Region) : Nat × Nat :=
  let off := r.dest.rrow * r.rowb
  (off, min (r.cap * r.rowb) ((s.seg r.cid (nameIdx r.dest.name)).size * 64 - off))

/-- The first row of a region takes its segment and sets the tiles it covers FILLING (R121, R122, R327). -/
def State.openRegion (s : State) (r : Region) : State × Region :=
  if r.opened then (s, r)
  else if r.dest.remote then (s, { r with opened := true })
  else
    let idx := nameIdx r.dest.name
    let span := s.regionSpan r
    let tiles := (tileSpan span.1 span.2).map (fun t => (idx, t))
    ((s.holdSet r.cid [idx]).setTiles r.cid tiles { st := .filling, unit := 11 }, { r with opened := true, tiles := tiles })

/-- A row's chunk lands: its slot's bit is set when all its chunks are there. A row of another dispatch that shares the region is
written, and not counted (R334). -/
def State.landRow (s : State) (die : Nat) (m : RowMsg) (r : Region) (at_ : Option (Nat × List (Nat × Nat))) : State :=
  let off := (m.dest.rrow + m.slot) * r.rowb + 1024 * m.chunk
  let ch := if r.ofDispatch m then sset false r.chunks (m.slot * 16 + m.chunk) true else r.chunks
  let all := r.ofDispatch m && (List.range (cdiv r.rowb 1024)).all (fun i => sget false ch (m.slot * 16 + i))
  let r := { r with chunks := ch, bits := if all then sset false r.bits m.slot true else r.bits }
  match at_ with
  | some (tid, runs) =>
    let bytes := (s.readRuns tid runs)
    let s := State.writeRuns tid runs (bytes.take (1024 * m.chunk) ++ m.data ++ bytes.drop (1024 * m.chunk + m.data.length)) s
    let new := (pagesOf runs).filter (fun p => !r.pages.contains (tid, p))
    let s := new.foldl (fun s p => s.onPage tid p (fun x => { x with pinc := x.pinc + 1 })) s
    s.regionDone die m { r with pages := r.pages ++ new.map (fun p => (tid, p)) }
  | none => (s.segWrite r.cid (nameIdx m.dest.name) off m.data).regionDone die m r

/-- A tile that another agent holds makes the first row wait; the regions of one Gander may share a tile. -/
def State.regionTiles (s : State) (r : Region) : Bool :=
  let idx := nameIdx r.dest.name
  let span := s.regionSpan r
  r.opened || r.dest.remote || (tileSpan span.1 span.2).all (fun t =>
    s.regions.any (fun x => x.cid = r.cid && x.die = r.die && x.opened && !x.complete && x.tiles.contains (idx, t)) ||
    ((s.seg r.cid idx).tile t).st = .ready || ((s.seg r.cid idx).tile t).st = .empty)

/-- WHERE of a row: the segment and the byte, or the tensor and the page (R107). -/
def State.rowWhere (s : State) (m : RowMsg) (r : Region) : W64 :=
  let tid := m.dest.name.toNat
  if m.dest.remote then
    let runs := match s.tensor tid with
      | some t => match t.rowCol ((m.dest.rrow + m.slot) :: List.replicate 5 0) with
        | some (row, b) => t.runs row (b + 1024 * m.chunk) 1
        | none => []
      | none => []
    pageWhere tid ((pagesOf runs).headD 0)
  else segWhere m.dest.name ((m.dest.rrow + m.slot) * r.rowb + 1024 * m.chunk)

/-- A row reaches the Gander of its region: the state after it, and whether it is dealt with or waits (R327, R332). -/
def State.takeRow (die : Nat) (m : RowMsg) (s : State) : State × Bool :=
  let r := s.regionOf die m
  if !s.receives m.ctx then (s.lostMsg m, true)
  else if r.complete then
    (if m.last then s.dropMsg m else (s.dropMsg m).gRecord m.ctx { cause := .landingBusy, wher := s.rowWhere m r }, true)
  else if m.last then
    (if r.ofDispatch m then (s.dropMsg m).regionDone die m { r with last := some m.slot } else s.dropMsg m, true)
  else
    match s.rowAccess m.ctx m.dest.remote m.dest.name (m.dest.rrow + m.slot) r.rowb true with
    | .hold => (s, false)
    | .fault s f => if f.waits then (s, false) else (((s.dropMsg m).gRecord m.ctx f).setRegion die m { r with dropped := r.dropped || r.ofDispatch m }, true)
    | .val s1 at_ =>
      if s.regionTiles r then
        let o := (s1.dropMsg m).openRegion r
        (o.1.landRow die m o.2 at_, true)
      else (s, false)

def execRowPacketReceive (die : Nat) (s : State) : Host.Outcome State Fault Refusal := s.onMsg die .row (State.takeRow die)

/-- Rows of the output region, each with its bytes; an unreadable one is zeros, with the record it leaves (R331). -/
def State.pullRows (m : RowMsg) : List Nat → State → Res (List (Nat × List Byte × Option FaultInfo))
  | [], s => .val s []
  | i :: l, s =>
    let name := m.dest.outn
    let one : Res (List Byte × Option FaultInfo) :=
      match s.rowAccess m.ctx m.dest.remote name (m.dest.orow + i) m.rowb false with
      | .val s (some (tid, runs)) => .val s (s.readRuns tid runs, none)
      | .val s none =>
        if (s.seg m.ctx (nameIdx name)).tilesOk ((m.dest.orow + i) * m.rowb) m.rowb false then
          .val s (s.segRead m.ctx (nameIdx name) ((m.dest.orow + i) * m.rowb) m.rowb, none)
        else .hold
      | .fault s f => if f.waits then .fault s f else .val s (List.replicate m.rowb 0, some f)
      | .hold => .hold
    one.bind (fun s bs => (State.pullRows m l s).bind (fun s rest => .val s ((i, bs.1, bs.2) :: rest)))

/-- A PULL is answered once the region is complete (R375), when no row has to wait any more; the records come with the answer. -/
def State.takePull (die : Nat) (m : RowMsg) (s : State) : State × Bool :=
  if !s.receives m.ctx then (s.lostMsg m, true)
  else if !s.pullable die m then (s, false)
  else
    match State.pullRows m (List.range m.slot) s with
    | .hold => (s, false)
    | .fault s _ => (s, false)
    | .val s rows =>
      (rows.foldl (fun s r =>
        let s : State := match r.2.2 with
          | some f => s.gRecord m.ctx f
          | none => s
        (chunksOf r.2.1).foldl (fun s c =>
          s.sendRow m.srcPkg m.dest.remote { m with pull := false, ret := true, slot := r.1, chunk := c.1, data := c.2 }) s) (s.dropMsg m), true)

def execPullReceive (die : Nat) (s : State) : Host.Outcome State Fault Refusal := s.onMsg die .pull (State.takePull die)

/-- A slot whose rtinv takes return rows: one that has faulted does when its command has been resumed (R318). -/
def State.inverts (s : State) (g : GSlot) : Bool :=
  g.state = .inverting || (g.state = .faulted && g.inverting && (match g.cmd with
    | some (k, u, id) => ((s.getCore k).eng u).cmds.any (fun c => c.id = id && c.st = .running)
    | none => false))

/-- A return row lands in RET; rtinv is over when all have landed. A fault of RET is the command's. -/
def State.takeRet (die : Nat) (m : RowMsg) (s : State) : State × Bool :=
  let key := gKey die m.srcSlot
  let g := s.gslot key
  if (alook s.ctxs m.srcCid).isNone then (s.lostMsg m, true)
  else if g.cid ≠ m.srcCid ∨ !(g.state = .inverting || (g.state = .faulted && g.inverting)) then (s.dropMsg m, true)
  else if !s.inverts g then (s, false)
  else
    let row := m.expert * g.blk.cap + m.slot
    let fails := fun (s : State) (f : Cmd → Option FaultInfo) =>
      match g.cmd with
      | some (k, u, id) => s.atCore k (fun s => match s.cmdOf u id with
        | some c => match f c with
          | some f => s.gFault key g u c f
          | none => s
        | none => s)
      | none => s
    match s.areaWrite g.cid g.blk.ret (row * g.blk.rowb + 1024 * m.chunk) m.data with
    | .hold => (fails s (fun c => if c.timed then some { cause := .timedStall } else none), false)
    | .fault s f => (fails s (fun _ => some f), false)
    | .val s _ =>
      let at_ := row * 16 + m.chunk
      let g := { g with state := .inverting }
      let g := if sget false g.got at_ then g else { g with got := sset false g.got at_ true, left := g.left - 1 }
      let s := s.dropMsg m
      (if g.left = 0 then (s.setSlot key { g with state := .done, inverting := false }).gEnd g else s.setSlot key g, true)

def execRetPacketReceive (die : Nat) (s : State) : Host.Outcome State Fault Refusal := s.onMsg die .ret (State.takeRet die)

/-- The region of the dispatch is closed, its bitmap cleared, and the sender told. -/
def State.takeFree (die : Nat) (m : RowMsg) (s : State) : State × Bool :=
  if !s.receives m.ctx then (s.lostMsg m, true)
  else
    let s := (s.regions.filter (fun r => r.is die m && r.ofDispatch m)).foldl State.closeRegion (s.dropMsg m)
    (s.sendRow m.srcPkg m.dest.remote { m with ack := true }, true)

def execFreeReceive (die : Nat) (s : State) : Host.Outcome State Fault Refusal := s.onMsg die .free (State.takeFree die)

/-- An acknowledgement: the region's credit returns to its permit; rtfree is over when every region has acknowledged. -/
def State.takeAck (die : Nat) (m : RowMsg) (s : State) : State × Bool :=
  if (alook s.ctxs m.srcCid).isNone then (s.lostMsg m, true)
  else
    let key := gKey die m.srcSlot
    let g := s.gslot key
    let s := s.dropMsg m
    let s : State := if m.credit = 0 then s else s.giveBack m.srcCid m.dest.pmt m.credit
    if m.aborted ∨ g.state ≠ .freeing ∨ g.cid ≠ m.srcCid then (s, true)
    else
      let g := { g with left := g.left - 1 }
      (if g.left = 0 then (s.setSlot key { g with state := .configured, drew := [] }).gEnd g else s.setSlot key g, true)

def execFreeAckReceive (die : Nat) (s : State) : Host.Outcome State Fault Refusal := s.onMsg die .ack (State.takeAck die)

end Sys2Proof.Machine
end

