-- ==== Sys2Proof/Machine/Link.lean ====
section
/-! DEFINITION. The link (18_link): scheduled transfers (R346 to R349), collectives (R350), permits (R351 to R354), and the turns
of the ports: flits, replay, beacons, training, the scheduled buffers (R338 to R345). -/

namespace Sys2Proof.Machine

/-! ### The wire layout (R347) -/

def Cmd.fo (c : Cmd) : Nat := fld c.fmt 20 5
def Cmd.fa (c : Cmd) : Nat := fld c.fmt 35 5
def Cmd.rmf (c : Cmd) : Nat := fld c.fmt 17 3

structure Wire where
  mx     : Bool
  fmt    : Nat                            -- of the fields on the wire
  ne     : Nat                            -- elements
  bytes  : Nat                            -- field bytes in all
deriving DecidableEq, Repr

def Cmd.wire (c : Cmd) : Wire :=
  let red := c.op = 22
  let ne := c.rows * c.rowb * 8 / fieldBits (if red then c.fa else c.fo)
  { mx := (red || bit c.word 5) && isMX c.fo, fmt := c.fo, ne := ne, bytes := if red then ne * fieldBits c.fo / 8 else c.rows * c.rowb }

/-- Blocks of an MX packet. -/
def Wire.g (w : Wire) : Nat := if w.fmt = 17 then 60 else 31

/-- Bytes of the fields of a block. -/
def Wire.bb (w : Wire) : Nat := 4 * fieldBits w.fmt

def Wire.packets (w : Wire) : Nat := if w.mx then cdiv (w.ne / 32) w.g else cdiv w.bytes 1024

def Wire.blocks (w : Wire) (k : Nat) : Nat := min w.g (w.ne / 32 - w.g * k)

/-- The field bytes of packet k: where they start, and how many. -/
def Wire.fields (w : Wire) (k : Nat) : Nat × Nat :=
  if w.mx then (w.bb * w.g * k, w.bb * w.blocks k) else (1024 * k, min 1024 (w.bytes - 1024 * k))

/-- The scale codes of packet k. -/
def Wire.scales (w : Wire) (k : Nat) : Nat × Nat := if w.mx then (w.g * k, w.blocks k) else (0, 0)

def Wire.quanta (w : Wire) : Nat := cdiv w.packets 2

/-! ### Link words (R346) -/

def lnkLink (c : Cmd) : Nat := fld (c.g 4) 0 5
def lnkOut (c : Cmd) : Nat := fld (c.g 4) 5 5
def lnkTag (c : Cmd) : Nat := fld (c.g 4) 10 12
def lnkTout (c : Cmd) : Nat := fld (c.g 4) 22 12
def lnkQin (c : Cmd) : Nat := fld (c.g 5) 0 32
def lnkQout (c : Cmd) : Nat := fld (c.g 5) 32 32
def lnkSto (c : Cmd) : Bool := bit c.word 5
def lnkFwd (c : Cmd) : Bool := bit c.word 6

/-- The absolute quanta of a command, found at its trigger. -/
def Cmd.absIn (c : Cmd) : Nat := ((alook c.acc 0).getD 0).toNat
def Cmd.absOut (c : Cmd) : Nat := ((alook c.acc 1).getD 0).toNat

/-- The first QC whose low 32 bits equal a quantum. -/
def State.absQ (s : State) (q : Nat) : Nat := s.qc + (q + 2 ^ 32 - s.qc % 2 ^ 32) % 2 ^ 32

/-! ### Triggers (R346 to R349) -/

/-- The segment endpoints that a transfer has: source, destination, source scales, destination scales. -/
def lnkUses (c : Cmd) : Bool × Bool × Bool × Bool :=
  match c.op with
  | 20 => (true, false, c.wire.mx, false)
  | 21 => (false, true, false, c.wire.mx)
  | _ => (true, lnkSto c, isMX c.fa, lnkSto c && c.wire.mx)

/-- The endpoints a transfer uses (R234). -/
def lnkEnds (c : Cmd) : List W64 := (if (lnkUses c).1 then [c.srcw] else []) ++ (if (lnkUses c).2.1 then [c.dstw] else [])

/-- The words that name its segments: endpoints, and address words of scales (R152). -/
def lnkWords (c : Cmd) : List W64 :=
  lnkEnds c ++ (if (lnkUses c).2.2.1 then [c.g 6] else []) ++ (if (lnkUses c).2.2.2 then [c.g 7] else [])

/-- The link slots of a transfer: link, direction (1 receive), first quantum. -/
def State.lnkSlots (s : State) (c : Cmd) : List (Nat × Nat × Nat) :=
  let qin := s.absQ (lnkQin c)
  match c.op with
  | 20 => [(lnkLink c, 0, qin)]
  | 21 => [(lnkLink c, 1, qin)]
  | _ => [(lnkLink c, 1, qin)] ++ (if lnkFwd c then [(lnkOut c, 0, s.absQ (lnkQout c))] else [])

/-- A quantum in a link entry of the running task for a link and direction (R280). -/
def State.inLinkEntry (s : State) (link dir q : Nat) : Bool :=
  match s.taskOn s.cur s.cid s.core.task.key with
  | some t => t.book.any (fun b => b.res = 6 && !b.ramp && nfld b.mask 0 6 = link + 32 * dir && decide (b.lo ≤ q) && decide (q ≤ b.hi))
  | none => false

/-- What a trigger finds wrong, in the order of R346, R347 and R349. -/
def State.lnkFault (s : State) (c : Cmd) : Option FaultInfo :=
  let w := c.wire
  let ws := lnkWords c
  let red := c.op = 22
  let fmtOk := (c.fo = 12 || c.fo = 13 || c.fo = 15 || isMX c.fo) && (c.fa = 12 || c.fa = 13 || c.fa = 15 || c.fa = c.fo)
  let slots := s.lnkSlots c
  let late := slots.any (fun x => decide (x.2.2 ≤ s.qc) ||
    (List.range w.quanta).any (fun j => !s.inLinkEntry x.1 x.2.1 (x.2.2 + j)))
  if !s.core.task.timed || (lnkEnds c).any epT || (w.mx && w.ne % 32 ≠ 0) || (red && !lnkSto c && !lnkFwd c) ||
      (red && decide (lnkQout c < lnkQin c + 2)) then some { cause := .illegalMove }
  else if red && !fmtOk then some { cause := .formatUnsupported }
  else if late then some { cause := .timedStall }
  else
    match ws.find? (fun x => !s.core.task.pins.contains (nameIdx (epName x))) with
    | some x => some { cause := .segUndeclared, wher := segWhere (epName x) (epOff x) }
    | none =>
      match ws.find? (fun x => (s.me.seg (nameIdx (epName x))).home ≠ s.lclu) with
      | some x => some { cause := .segBounds, wher := segWhere (epName x) (epOff x),
                         info := BitVec.ofNat 64 ((s.me.seg (nameIdx (epName x))).size * 64 + 2 ^ 32) }
      | none => none

/-- The bytes of a destination row: an lred's rows hold its elements in FO. -/
def lnkDstRow (c : Cmd) : Nat := if c.op = 22 then c.rowb * 8 / fieldBits c.fa * fieldBits c.fo / 8 else c.rowb

/-- What a transfer reads, and what it writes. -/
def lnkExts (c : Cmd) : List Ext × List Ext :=
  let w := c.wire
  let u := lnkUses c
  let rows := fun (ep : W64) (pitch n : Nat) => (rowSpans ep pitch c.rows n).map (fun x => (⟨epName ep, x.1, x.2⟩ : Ext))
  let codes := fun (ep : W64) => [(⟨epName ep, epOff ep, w.ne / 32⟩ : Ext)]
  ((if u.1 then rows c.srcw c.spitch c.rowb else []) ++ (if u.2.2.1 then codes (c.g 6) else []),
   (if u.2.1 then rows c.dstw c.dpitch (lnkDstRow c) else []) ++ (if u.2.2.2 then codes (c.g 7) else []))

def extTiles (l : List Ext) : List (Nat × Nat) := tilesOf (l.map (fun x => (nameIdx x.name, x.off, x.len)))

/-- The tiles that a transfer locks from its issue (R315). -/
def lnkLocks (c : Cmd) : List (Nat × Nat) := extTiles (lnkExts c).2 ++ (if sigSrcm c.sigw = 0 then [] else extTiles (lnkExts c).1)

def lnkUse : CmdUse := { src := false, dst := false }

/-- The logical links of a command's link word are bound to physical ones (R276). -/
def State.physLinks (s : State) (c : Cmd) : Cmd :=
  let map := (s.partOf (s.ctx c.cid).tenant).elim [] (·.linkMap)
  let at_ := fun (l : Nat) => ((alook map l).getD l) % 32
  let w := (c.g 4).toNat
  { c with grp := c.grp.set 4 (BitVec.ofNat 64 (w / 1024 * 1024 + at_ (lnkOut c) * 32 + at_ (lnkLink c))) }

/-- A scheduled transfer joins the queue; it counts as a local command for the copy window. -/
def State.linkCmd (s : State) (u : CUnit) (g : Guard) (src : Src) (op : Nat) : State :=
  s.trigger u.dom g src 0 none (fun tr =>
    let sl := u.dom.slot
    let c := s.physLinks (s.sample u op tr.t.scalar)
    if s.core.task.cm || s.cmdIllegal lnkUse c then s.raiseIn sl { cause := .illegalMove }
    else
      match s.lnkFault c with
      | some f => s.raiseIn sl f
      | none =>
        if 32 ≤ ((s.core.eng u).cmds.filter (fun x => x.st = .queued)).length then s.holdMove sl.num
        else
          let acc := [(0, BitVec.ofNat 64 (s.absQ (lnkQin c))), (1, BitVec.ofNat 64 (s.absQ (lnkQout c)))]
          s.effects tr [.cmd u { c with local_ := true, acc := acc, locks := lnkLocks c } true, .commit])

def execLsend (u : CUnit) (g : Guard) (src : Src) (s : State) : Host.Outcome State Fault Refusal := .next (s.linkCmd u g src 20)
def execLrecv (u : CUnit) (g : Guard) (src : Src) (s : State) : Host.Outcome State Fault Refusal := .next (s.linkCmd u g src 21)
def execLred (u : CUnit) (g : Guard) (src : Src) (s : State) : Host.Outcome State Fault Refusal := .next (s.linkCmd u g src 22)

/-! ### Rows as one stream of bytes -/

/-- Bytes k to k + n − 1 of rows of a segment laid end to end: (offset, length). -/
def rowPieces (base pitch rowb k n : Nat) : List (Nat × Nat) :=
  if n = 0 ∨ rowb = 0 then []
  else
    (List.range ((k + n - 1) / rowb + 1 - k / rowb)).map (fun j =>
      let r := k / rowb + j
      let lo := max k (r * rowb)
      (base + r * pitch + (lo - r * rowb), min (k + n) ((r + 1) * rowb) - lo))

def State.readPieces (u : CUnit) (c : Cmd) (name : W16) : List (Nat × Nat) → State → Res (List Byte)
  | [], s => .val s []
  | p :: l, s => (s.cmdRead u c name p.1 p.2).bind (fun s bs => (State.readPieces u c name l s).bind (fun s rest => .val s (bs ++ rest)))

def State.writePieces (u : CUnit) (c : Cmd) (name : W16) : List (Nat × Nat) → List Byte → State → Res Unit
  | [], _, s => .val s ()
  | p :: l, bs, s => (s.cmdWrite u c name p.1 (bs.take p.2)).bind (fun s _ => State.writePieces u c name l (bs.drop p.2) s)

def lnkSrc (c : Cmd) (k n : Nat) : List (Nat × Nat) := rowPieces (epOff c.srcw) c.spitch c.rowb k n
def lnkDst (c : Cmd) (k n : Nat) : List (Nat × Nat) := rowPieces (epOff c.dstw) c.dpitch (lnkDstRow c) k n

/-- Scale codes at an address word. -/
def lnkCodes (w : W64) (p : Nat × Nat) : List (Nat × Nat) := if p.2 = 0 then [] else [(epOff w + p.1, p.2)]

/-! ### Starts (R254, R346, R348) -/

/-- A running receive of the task of a core on a link. -/
def Cmd.receivesOn (c : Cmd) (link : Nat) : Bool := c.st = .running && (c.op = 21 || c.op = 22) && lnkLink c = link && decide (c.elem < c.total)

/-- Every core on record with its number. -/
def State.coreList (s : State) : List (Nat × CoreSt) := (s.cur, s.core) :: s.parked

def CoreSt.engCmds (c : CoreSt) : List (CUnit × Cmd) := c.eng0.cmds.map (fun x => (.c0, x)) ++ c.eng1.cmds.map (fun x => (.c1, x))

/-- The open receives of a link: core, unit, command. -/
def State.receives_ (s : State) (link : Nat) : List (Nat × CUnit × Cmd) :=
  s.coreList.flatMap (fun k => (k.2.engCmds.filter (fun x => x.2.receivesOn link)).map (fun x => (k.1, x.1, x.2)))

/-- The open receive that a scheduled packet is for (R341). -/
def State.receiverOf (s : State) (link : Nat) (p : Packet) : Option (Nat × CUnit × Cmd) :=
  (s.receives_ link).find? (fun x => lnkTag x.2.2 = fld p.rw 49 12 && s.netOf x.2.2.cid = fld p.rw 22 6)

/-! ### lsend, and what lred forwards (R346, R348, R349) -/

def State.sendSched (s : State) (c : Cmd) (link tag : Nat) (bs : List Byte) : State :=
  s.sendOn link
    { rw := s.routing { dest := (s.link link).peer, tenant := s.netOf c.cid, ctx := c.cid, cls := 2, kind := 0,
                        len := cdiv bs.length 64, tag := tag, sched := true },
      rh := 0, info := [], data := bs }

/-- The bytes of packet k as lsend reads them. -/
def State.wireRead (s : State) (u : CUnit) (c : Cmd) (k : Nat) : Res (List Byte) :=
  let w := c.wire
  let f := w.fields k
  (State.readPieces u c (epName c.srcw) (lnkSrc c f.1 f.2) s).bind (fun s bs =>
    (State.readPieces u c (epName (c.g 6)) (lnkCodes (c.g 6) (w.scales k)) s).bind (fun s sc => .val s (bs ++ sc)))

/-- A packet that an lred keeps between its landing and its sending: eight bytes a word. -/
def packWords (k : Nat) (bs : List Byte) : List (Nat × W64) :=
  (List.range (cdiv bs.length 8)).map (fun j => (2 + 256 * k + j, BitVec.ofNat 64 (natLE ((bs.drop (8 * j)).take 8))))

def unpackWords (acc : List (Nat × W64)) (k n : Nat) : List Byte :=
  ((List.range (cdiv n 8)).flatMap (fun j => bytesLE 8 ((alook acc (2 + 256 * k + j)).getD 0).toNat)).take n

def Wire.size (w : Wire) (k : Nat) : Nat := (w.fields k).2 + (w.scales k).2

/-- Whether a transfer still has a packet to send, and which; with the quantum it leaves in. -/
def Cmd.toSend (c : Cmd) : Option (Nat × Nat) :=
  if c.st ≠ .running then none
  else if c.op = 20 ∧ c.elem < c.total then some (c.elem, c.absIn + c.elem / 2)
  else if c.op = 22 ∧ lnkFwd c ∧ c.chunk < c.total then some (c.chunk, c.absOut + c.chunk / 2)
  else none

/-- The next packet leaves in its quantum. -/
def State.sendNext (s : State) (u : CUnit) (c : Cmd) : State :=
  match c.toSend with
  | none => s
  | some (k, q) =>
    if s.qc ≠ q then s
    else if c.op = 20 then
      match s.wireRead u c k with
      | .val s bs => (s.sendSched c (lnkLink c) (lnkTag c) bs).setCmd u c.id (fun x => { x with elem := k + 1 })
      | .fault s f => s.cmdFault u c f
      | .hold => s
    else if k < c.elem then
      (s.sendSched c (lnkOut c) (lnkTout c) (unpackWords c.acc k (c.wire.size k))).setCmd u c.id (fun x => { x with chunk := k + 1 })
    else s

def execSchedSend (u : CUnit) (id : Nat) (s : State) : Host.Outcome State Fault Refusal :=
  match s.cmdOf u id with
  | some c => .next (s.sendNext u c)
  | none => .next s

/-! ### Landing (R346, R349) -/

/-- Fields of w bits, low end first. -/
def fieldsN (w n : Nat) (bs : List Byte) : List Nat :=
  let v := natLE bs
  (List.range n).map (fun i => nfld v (w * i) w)

structure RedOut where
  fields : List Nat
  codes  : List Nat
  flags  : Flags
  gen    : W64

/-- The sums of a packet, rounded to FP32 (R349). -/
def redSums (c : Cmd) (got gotS mine mineS : List Nat) : List (Nat × Flags) :=
  (List.zip got mine).zipIdx.map (fun e =>
    let x := if c.wire.mx then mxNum c.fo (gotS.getD (e.2 / 32) 0) e.1.1 else operandNum c.fo e.1.1
    let y := if isMX c.fa then mxNum c.fa (mineS.getD (e.2 / 32) 0) e.1.2 else operandNum c.fa e.1.2
    roundOp fp32 (Num.add .rne x y))

/-- Requantisation into FO (R349): by blocks for an MX format. -/
def redQuant (c : Cmd) (zs : List (Nat × Flags)) (gen : W64) : RedOut :=
  let k : MCmd := { kind := .call, seq := 0, fmt := c.fmt }
  let fl := orFlags (zs.map (·.2))
  if isMX c.fo then
    let r := (List.range (zs.length / 32)).foldl (fun acc b =>
      epiBlock k 0 (((zs.drop (32 * b)).take 32).map (fun z => decodeFP fp32 z.1)) acc) (⟨[], [], fl, gen⟩ : EpiRow)
    ⟨r.out, r.codes, r.flags, r.gen⟩
  else
    let r := zs.foldl (fun (acc : List Nat × Flags × W64) z =>
      let d := epiRm k acc.2.2
      let o := roundNum c.fo d.1 k.sat (decodeFP fp32 z.1)
      (acc.1 ++ [o.1], acc.2.1 ||| o.2, d.2)) ([], fl, gen)
    ⟨r.1, [], r.2.1, r.2.2⟩

/-- An lred takes its next packet: adds its own block and keeps or stores what it makes. -/
def State.landRed (s : State) (u : CUnit) (c : Cmd) (bs : List Byte) : Res Nat :=
  let w := c.wire
  let k := c.elem
  let f := w.fields k
  let sc := w.scales k
  let wb := fieldBits c.fo
  let i0 := f.1 * 8 / wb
  let n := f.2 * 8 / wb
  let ab := fieldBits c.fa
  (State.readPieces u c (epName c.srcw) (lnkSrc c (i0 * ab / 8) (n * ab / 8)) s).bind (fun s mine =>
    (State.readPieces u c (epName (c.g 6)) (if isMX c.fa then lnkCodes (c.g 6) sc else []) s).bind (fun s codes =>
      let zs := redSums c (fieldsN wb n (bs.take f.2)) (fieldsN 8 sc.2 ((bs.drop f.2).take sc.2)) (fieldsN ab n mine) (fieldsN 8 sc.2 codes)
      let r := redQuant c zs (s.core.stream (2 + u.num))
      let fb := fieldBytes wb f.2 r.fields
      let cb := fieldBytes 8 sc.2 r.codes
      let sto := lnkSto c
      (State.writePieces u c (epName c.dstw) (if sto then lnkDst c f.1 f.2 else []) fb s).bind (fun s _ =>
        (State.writePieces u c (epName (c.g 7)) (if sto then lnkCodes (c.g 7) sc else []) cb s).bind (fun s _ =>
          let s := (s.addFlags u c.id r.flags).upd (fun x => x.setStream (2 + u.num) r.gen)
          let s : State := if lnkFwd c then s.setCmd u c.id (fun x =>
            { x with acc := (packWords k (fb ++ cb)).foldl (fun a e => aput a e.1 e.2) x.acc }) else s
          .val s (if sto then f.2 + sc.2 else 0)))))

def State.landRecv (s : State) (u : CUnit) (c : Cmd) (bs : List Byte) : Res Nat :=
  let w := c.wire
  let f := w.fields c.elem
  let sc := w.scales c.elem
  (State.writePieces u c (epName c.dstw) (lnkDst c f.1 f.2) (bs.take f.2) s).bind (fun s _ =>
    (State.writePieces u c (epName (c.g 7)) (lnkCodes (c.g 7) sc) ((bs.drop f.2).take sc.2) s).bind (fun s _ => .val s (f.2 + sc.2)))

/-- Every scheduled packet of a command has left its port, and none was discarded there (R342, R348). -/
def State.lnkLeft (s : State) (c : Cmd) : Bool :=
  let l := if c.op = 20 then lnkLink c else lnkOut c
  let tag := if c.op = 20 then lnkTag c else lnkTout c
  !c.lost && !(s.link l).waiting.any (fun p => bit p.rw 61 && fld p.rw 49 12 = tag && fld p.rw 28 10 = c.cid)

/-- The quantum by whose end the next packet has to have landed. -/
def Cmd.landBy (c : Cmd) : Nat := c.absIn + c.elem / 2

/-- What has landed whole is signalled as lred with STO signals, before what it still forwards (R348); its flags, all known by then,
reach FST no later (R87). -/
def State.landedAll (s : State) (u : CUnit) (id : Nat) : State :=
  match s.cmdOf u id with
  | some c =>
    if c.op = 22 ∧ lnkSto c ∧ c.elem = c.total ∧ ¬ c.performed then
      let s := (s.flushBytes u c).setTiles c.cid c.wtiles {}
      let s := (s.setCmd u id (fun x => { x with performed := true, wtiles := [] })).flagsTo c.cid c.flags
      s.signalSigw u c c.sigw
    else s
  | none => s

/-- Packet p lands for a receive of the core in focus; none: it has to wait. A packet after its quantum misses its time; INFO[0] is
1 where it arrived too late, and where none arrived (R344). -/
def State.landSched (s : State) (u : CUnit) (c : Cmd) (p : Packet) (arrived : Nat) : Option State :=
  if c.landBy < s.qc then some (s.cmdFault u c { cause := .timedStall, info := if c.landBy < arrived then 1 else 0 })
  else
    match (if c.op = 21 then s.landRecv u c p.data else s.landRed u c p.data) with
    | .val s n =>
      let s := s.setCmd u c.id (fun x => { x with elem := x.elem + 1, unsig := x.unsig + n })
      let s : State := match s.cmdOf u c.id with
        | some c => if 4096 ≤ c.unsig then s.flushBytes u c else s
        | none => s
      some (s.landedAll u c.id)
    | .fault s f => some (s.cmdFault u c f)
    | .hold => none

/-- The packets that wait in the buffer of a command's link for it land in order. -/
def State.claimGo (u : CUnit) (id : Nat) : Nat → State → State
  | 0, s => s
  | fuel + 1, s =>
    match s.cmdOf u id with
    | none => s
    | some c =>
      let l := lnkLink c
      if !c.receivesOn l then s
      else
        -- a packet that has found no receive within 4 quanta is no longer there to be claimed (R341)
        match (s.link l).sched.find? (fun x => lnkTag c = fld x.pkt.rw 49 12 && s.netOf c.cid = fld x.pkt.rw 22 6 &&
            (x.found || decide (s.qc < x.at_ + 4))) with
        | none => s
        | some x =>
          match s.landSched u c x.pkt x.at_ with
          | none => s.setLink l (fun k => { k with sched := k.sched.map (fun y => if y = x then { y with found := true } else y) })
          | some s =>
            let s := s.setLink l (fun k => { k with sched := k.sched.erase x })
            State.claimGo u id fuel s

def State.claim (s : State) (u : CUnit) (c : Cmd) : State := State.claimGo u c.id ((s.link (lnkLink c)).sched.length + 1) s

/-- A transfer starts in a copy window of its task, takes its segments, and opens its receive. -/
def State.startLink (s : State) (u : CUnit) (c : Cmd) : State :=
  if !s.booked c.cid c.task (2 + u.num) then s.cmdFault u c { cause := .timedStall }
  else if c.op ≠ 20 ∧ 8 ≤ (s.receives_ (lnkLink c)).length then s.cmdFault u c { cause := .timedStall }
  else
    let x := lnkExts c
    let src := extTiles x.1
    let marks := sigSrcm c.sigw ≠ 0
    let r := s.acquireCmd u c (x.1 ++ x.2) (extTiles x.2) (if marks then src else []) (if marks then [] else src)
    s.started u c r (fun s => (s.runCmd u c c.wire.packets).claim u c)

/-- A packet's time passes: first what the buffer still holds lands; then a packet that has not been read, or has not landed, by its
quantum raises TIMED_STALL (R346). -/
def execSchedDeadline (u : CUnit) (id : Nat) (s : State) : Host.Outcome State Fault Refusal :=
  match s.cmdOf u id with
  | none => .next s
  | some c =>
    let s := if c.op = 21 ∨ c.op = 22 then s.claim u c else s
    match s.cmdOf u id with
    | none => .next s
    | some c =>
      .next (if c.receivesOn (lnkLink c) && decide (c.landBy < s.qc) then s.cmdFault u c { cause := .timedStall, info := 1 }
        else
          match c.toSend with
          | some (_, q) => if q < s.qc then s.cmdFault u c { cause := .timedStall } else s
          | none => s)

/-! ### Ports (R338, R341, R344, R345) -/

/-- A header as a port takes it: the word, whether it was corrected, or none. -/
def portCheck (w : BitVec 128) : Option (BitVec 128 × Nat) :=
  match eccCheck w with
  | .ok => some (w, 0)
  | .corrected w => some (w, 1)
  | .bad => none

/-- Whether a context is there to receive for a fabric tenant. -/
def State.hasReceiver (s : State) (cid tenant : Nat) : Bool :=
  match alook s.ctxs cid with
  | some c => c.state ≠ .draining && c.state ≠ .destroyed && s.fabTenant c.tenant = tenant
  | none => false

/-! ### Fabric time (R339) -/

/-- Whether a beacon agrees with the package clock to within 8 cycles; the cycle within the quantum is open (log 7). -/
def State.beaconNear (s : State) (frame phase : Nat) : Bool :=
  let b := frame * 1024 + phase
  let t := s.frame * 1024 + s.qc % 64 * 16
  -- the clock stands somewhere from t to t + 15
  if t + 7 ≤ b ∧ b ≤ t + 8 then true
  else if b + 8 < t ∨ t + 23 < b then false
  else Config.beaconClose frame phase s.frame s.qc

/-- A beacon of the frame clock: it shows that the clock strays, which takes SYNC from every link that is UP or in RETRAIN, or, while no link is UP,
it brings the clock into time (R339, R361). The time root keeps its own time. -/
def State.beacon (s : State) (link frame phase : Nat) : State :=
  match (s.link link).state with
  | 2 =>
    if s.timeRoot = some s.pkg || s.beaconNear frame phase then s
    else { s with links := s.links.map (fun (k : Nat × Link) =>
      if k.2.state = 2 ∨ k.2.state = 3 then (k.1, { k.2 with state := 3, sync := false }) else k) }
  | 1 | 3 =>
    if s.timeRoot = some s.pkg || s.links.any (fun k => k.2.state = 2) then s
    else { s with frame := frame % 2 ^ 64, qc := (frame * 64 + phase / 16 % 64) % 2 ^ 64 }
  | _ => s

def execTimeBeacon (link frame phase : Nat) (s : State) : Host.Outcome State Fault Refusal :=
  if Config.links ≤ link then .fault .noSuchUnit else .next (s.beacon link frame phase)

/-- Every link that is UP carries a beacon with this package's frame counter and phase (R339). One that could not leave at once would
tell a time that is past, so none waits. -/
def State.sendBeacons (s : State) : State :=
  (s.links.filter (fun k => k.2.state = 2)).foldl (fun s k =>
    let p : Packet := { rw := s.routing { dest := k.2.peer, tenant := 63, ctx := 0, cls := 3, kind := 6, len := 0 }, rh := 0,
                        info := [s.frame, s.qc % 64 * 16], data := [] }
    if (s.link k.1).ready p then s.sendOn k.1 p else s) s

/-! ### What a port takes (R340, R341, R344, R345) -/

/-- A packet whose receiver does not exist leaves an orphan record with its routing word as received (R345, R354). -/
def State.orElse (s : State) (there : Bool) (f : State → State) (link seq : Nat) (raw : BitVec 128) : State :=
  if there then f s else s.orphan link 3 seq raw

/-- A good packet for this package, its routing word as received beside it. What permits and collectives do with theirs are turns of
their own. -/
def State.takePacket (s : State) (link seq : Nat) (raw : BitVec 128) (p : Packet) : State :=
  let net := fld p.rw 22 6
  let i := fun (k : Nat) => p.info.getD k 0
  let alive := fun (cid : Nat) => (alook s.ctxs cid).isSome
  match fld p.rw 40 4 with
  | 0 =>
    -- the scheduled buffer holds 64 packets (R341)
    let keep := fun (found : Bool) (s : State) => if 64 ≤ (s.link link).sched.length then s.orphan link 4 seq raw
      else s.setLink link (fun k => { k with sched := k.sched ++ [{ pkt := p, seq := seq, at_ := s.qc, raw := raw, found := found }] })
    match s.receiverOf link p with
    | some (k, u, c) =>
      s.atCore k (fun s =>
        match s.landSched u c p s.qc with
        | some s => s
        | none => keep true s)
    | none => keep false s
  | 1 => s.orElse (s.hasReceiver (i 5) net) id link seq raw
  | 2 =>
    let m := { rowOfPacket p with port := some (link, seq, raw) }
    s.orElse (if m.ret || m.ack then alive m.srcCid else s.hasReceiver m.ctx m.tenant) (fun s => { s with rowIn := s.rowIn ++ [m] }) link seq raw
  | 3 => s.orElse (if i 0 = 1 then alive (i 1) else s.hasReceiver (i 3) (i 7)) id link seq raw
  | 4 => { s with mgmtIn := s.mgmtIn ++ [{ srce := fld p.rw 11 11, net := net, opid := fld p.rw 62 16, link := some link, flits := packetFlits p }] }
  | 6 => s.beacon link (i 0) (i 1)
  | _ => s

/-- What the buffer of a port holds of the packet network, by virtual network and class (R341): rows that wait for a Gander, commands
not yet served, and what waits to leave. Every packet of KIND 2 is of class DATA (DESIGN CHOICE, log 15). -/
def State.portHeld (s : State) (link : Nat) : List ((Nat × Nat) × Nat) :=
  (s.rowIn.filter (fun m => m.port.any (fun x => x.1 = link))).map (fun m => ((m.net, 2), 1 + cdiv m.data.length 64)) ++
  (s.mgmtIn.filter (fun q => q.link = some link)).map (fun q => ((q.net, 3), q.flits)) ++
  ((s.link link).waiting.filter (fun p => !bit p.rw 61)).map (fun p => ((fld p.rw 22 6, fld p.rw 38 2), packetFlits p))

/-- The link that leads to a packet's destination; which one that is is open (log 5). -/
def routeOf (p : Packet) : Nat := Config.routeLink (fld p.rw 0 11) % Config.links

/-- Whether a port has reserved or shared room for a packet of the packet network (R341): 34 flits are reserved for each virtual network
and class, and what the rest of the buffer holds is open (log 21). One on its way through waits, if it has to, in the port that it
leaves by. -/
def State.portRoom (s : State) (link : Nat) (p : Packet) : Bool :=
  let here := fld p.rw 0 11 = s.pkg
  let key := (fld p.rw 22 6, fld p.rw 38 2)
  let held := s.portHeld (if here then link else routeOf p)
  let sum := fun (k : Nat × Nat) => ((held.filter (fun x => x.1 = k)).map (·.2)).foldl (· + ·) 0
  let mine := sum key + packetFlits p
  let others := (((held.map (·.1)).eraseDups.filter (fun k => k ≠ key)).map (fun k => sum k - 34)).foldl (· + ·) 0
  bit p.rw 61 || (!here && (s.link (routeOf p)).ready p) || decide (mine ≤ 34) || decide (mine - 34 + others ≤ Config.sharedFlits)

/-- The port asks its peer for what follows the last flit it has taken (R344). -/
def Link.ask (k : Link) : Link := { k with asks := k.asks ++ [k.rxSeq] }

/-- A packet with the flits that have arrived of it: the header as it was taken, and the data that follow. -/
def joinFlits (old : Option (Packet × Nat)) (p : Packet) : Packet :=
  match old with
  | some (h, t) => { h with data := h.data ++ p.data.drop (64 * (t - 1)) }
  | none => p

/-- A port takes `n` flits of a packet, of which it then has the first `at_`: the packet moves on once it is whole; else the port asks
for the next. -/
def State.takeFlits (s : State) (link seq : Nat) (raw : BitVec 128) (p : Packet) (at_ n : Nat) : State :=
  let adv := fun (k : Link) => { k with rxSeq := (k.rxSeq + n) % 65536 }
  if packetFlits p ≤ at_ then
    let s := s.setLink link (fun k => { (adv k) with part := none })
    if fld p.rw 0 11 = s.pkg then s.takePacket link seq raw p else s.sendPacket p
  else s.setLink link (fun k => ({ (adv k) with part := some ({ p with data := p.data.take (64 * (at_ - 1)) }, at_) } : Link).ask)

/-- A run of a packet's flits arrives. What they acknowledge leaves the replay buffer. Only flits that are next in order are taken, up to
one whose CRC fails, from which on the port asks for them again; a header that cannot be trusted discards its packet, and the port
asks for it again. A packet for which there is no room does not move. -/
def execFlitReceive (link : Nat) (f : FlitIn) (s : State) : Host.Outcome State Fault Refusal :=
  if Config.links ≤ link then .fault .noSuchUnit
  else if (s.link link).state ≠ 2 then .next s
  else if !f.crcOk && f.good = 0 then .next (s.setLink link (fun k => { k with crcerr := k.crcerr + 1 }.ask))
  else
    let s := (s.setLink link (fun k => { (k.acked f.ack) with crcerr := k.crcerr + b2n (!f.crcOk) })).pumpLink link
    let k := s.link link
    let skip := seqDist k.rxSeq f.seq
    let at_ := f.first + skip                -- the flit of the packet that is next in order
    -- flits of the run that are new and whole, of a packet of `total`
    let news := fun (total : Nat) => if f.crcOk then total - at_ else min (f.good - skip) (total - at_)
    let ask := fun (s : State) => if f.crcOk then s else s.setLink link Link.ask
    match k.part with
    | some (h, t) =>
      let n := news (packetFlits h)
      if at_ ≠ t ∨ n = 0 then .next (ask s) else .next (s.takeFlits link ((k.rxSeq + 65536 - t) % 65536) h.rw (joinFlits k.part f.pkt) (t + n) n)
    | none =>
      if at_ ≠ 0 then .next (ask s)
      else
        let fixed := fun (n : Nat) (s : State) => s.setLink link (fun k => { k with hcorr := k.hcorr + n })
        let bad := fun (cause : Nat) (s : State) =>
          (s.setLink link (fun k => { k with hunc := k.hunc + 1 }.ask)).orphan link cause f.seq f.pkt.rw
        match portCheck f.pkt.rw with
        | none => .next (bad 1 s)
        | some (rw, n) =>
          if 7 ≤ fld rw 40 4 ∨ 16 < fld rw 44 5 then .next (bad 1 (fixed n s))
          else
            match (if fld rw 40 4 = 2 then portCheck f.pkt.rh else some (f.pkt.rh, 0)) with
            | none => .next (bad 2 (fixed n s))
            | some (rh, m) =>
              let p := { f.pkt with rw := rw, rh := rh }
              if !s.portRoom link p then .next s
              else
                let got := news (packetFlits p)
                .next ((fixed (n + m) s).takeFlits link f.seq f.pkt.rw p got got)

/-- A scheduled packet that no receive has claimed within 4 quanta is discarded (R341). -/
def execSchedUnclaimed (link idx : Nat) (s : State) : Host.Outcome State Fault Refusal :=
  if Config.links ≤ link then .fault .noSuchUnit
  else
    match (s.link link).sched[idx]? with
    | none => .next s
    | some x =>
      .next (if x.at_ + 4 ≤ s.qc ∧ (x.found = false ∨ (s.receiverOf link x.pkt).isNone) then
          (s.setLink link (fun k => { k with sched := k.sched.eraseIdx idx })).orphan link 4 x.seq x.raw
        else s)

/-- The receiver asks for a flit and those after it: they are resent in order; what came before it is acknowledged. A packet resent a
third time sends the link into RETRAIN (R342, R344). -/
def execReplayRequest (link seq : Nat) (s : State) : Host.Outcome State Fault Refusal :=
  if Config.links ≤ link then .fault .noSuchUnit
  else
    let k := s.link link
    let l := k.since seq
    let flits := l.flatMap (fun x => (List.range (packetFlits x.2.1 - x.2.2)).map (fun i => (x.1 + x.2.2 + i) % 65536))
    if k.state ≠ 2 ∨ l.isEmpty then .next s
    else
      let count := fun (q : Nat) => (alook k.resent q).getD 0 + 1
      let resent := flits.foldl (fun (acc : List (Nat × Nat)) q => aput acc q (count q)) []
      let again := resent.any (fun (x : Nat × Nat) => decide (3 ≤ x.2))
      let k' := { (k.acked ((seq + 65535) % 65536)) with resent := resent, replays := k.replays + flits.length }
      .next ((s.resend link l).setLink link (fun _ => if again then { k' with state := 3 } else k'))

/-! ### The life of a link (R342, R343) -/

/-- A command with a packet that its port has discarded does not complete (R342). -/
def Cmd.losing (link : Nat) (p : Packet) (c : Cmd) : Cmd :=
  let mine := c.cid = fld p.rw 28 10 && c.st = .running &&
    ((c.op = 20 && lnkLink c = link && lnkTag c = fld p.rw 49 12) || (c.op = 22 && lnkFwd c && lnkOut c = link && lnkTout c = fld p.rw 49 12))
  if bit p.rw 61 && mine then { c with lost := true } else c

def State.losePacket (s : State) (link : Nat) (p : Packet) : State :=
  let f := fun (k : CoreSt) => { k with eng0 := { k.eng0 with cmds := k.eng0.cmds.map (Cmd.losing link p) },
                                        eng1 := { k.eng1 with cmds := k.eng1.cmds.map (Cmd.losing link p) } }
  if bit p.rw 61 then { s with core := f s.core, parked := s.parked.map (fun (x : Nat × CoreSt) => (x.1, f x.2)) } else s

/-- A link leaves service: what its port keeps goes over the alternate route, or is discarded with orphan records. Its numbers go on from
where they are (DESIGN CHOICE, log 21). -/
def State.linkDown (s : State) (link st : Nat) : State :=
  let k := s.link link
  let left := k.replay ++ k.waiting.map (fun p => (k.txSeq, p))
  let s := s.setLink link (fun k => { k with state := st, sync := false, ackSeq := k.txSeq, replay := [], resent := [], waiting := [] })
  match k.alt with
  | some a => left.foldl (fun s x => s.sendOn a x.2) s
  | none => left.foldl (fun s x => (s.losePacket link x.2).orphan link 5 x.1 x.2.rw) s

/-- A link comes UP: what is not acknowledged is resent, then what waited leaves (R342). -/
def State.linkUp (s : State) (link ld peer : Nat) : State :=
  let k := s.link link
  let s := s.setLink link (fun k =>
    { k with state := 2, sync := true, ld := max 1 (min ld 255), peer := peer % 2048, trains := 0, resent := [], replays := k.replays + k.flits })
  (s.resend link (k.since k.ackSeq)).pumpLink link

def execLinkTrainingDone (link : Nat) (ok : Bool) (ld peer : Nat) (s : State) : Host.Outcome State Fault Refusal :=
  if Config.links ≤ link then .fault .noSuchUnit
  else
    let k := s.link link
    .next (if k.state ≠ 1 ∧ k.state ≠ 3 then s
      else if ok then s.linkUp link ld peer
      else if k.trains < 3 then s.setLink link (fun k => { k with trains := k.trains + 1 })
      else s.linkDown link 4)

def execLenable (link : Nat) (s : State) : Host.Outcome State Fault Refusal :=
  s.commandOwner (fun s =>
    if Config.links ≤ link then s.answer .refused
    else
      let k := s.link link
      if k.state = 0 ∨ k.state = 4 then (s.setLink link (fun k => { k with state := 1, trains := 0 })).answer .done else s.answer .refused)

def execLdisable (link : Nat) (s : State) : Host.Outcome State Fault Refusal :=
  s.commandOwner (fun s => if Config.links ≤ link then s.answer .refused else (s.linkDown link 0).answer .done)

def execLclr (link : Nat) (s : State) : Host.Outcome State Fault Refusal :=
  s.commandOwner (fun s =>
    if Config.links ≤ link then s.answer .refused
    else (s.setLink link (fun k => { k with crcerr := 0, hcorr := 0, hunc := 0, replays := 0 })).answer .done)

/-! ### Permits (R352 to R354) -/

def pmNum (c : Cmd) : Nat := fld c.word 5 8
def pmLease (c : Cmd) : Nat := fld c.word 13 16
def pmPkg (c : Cmd) : Nat := fld (c.g 1) 0 10
def pmRctx (c : Cmd) : Nat := fld (c.g 1) 10 10
def pmRten (c : Cmd) : Nat := fld (c.g 1) 20 6
def pmCredit (c : Cmd) : Nat := fld (c.g 2) 0 40

def pmUse : CmdUse := { src := false, dst := false, shape := false }

/-- Peered fabric tenants (R352). -/
def State.peered (s : State) (a b : Nat) : Bool := a = b || s.peers.contains (a, b) || s.peers.contains (b, a)

/-- The code on res (R352). -/
def State.pmCode (s : State) (c : Cmd) : Nat :=
  let asked := s.core.staged.any (fun e =>
    match e with
    | .request n _ _ _ _ _ => n = pmNum c
    | _ => false)
  if (s.permit c.cid (pmNum c)).state ≠ 0 || asked then 1
  else if !s.inFabric (pmPkg c) || !s.peered (s.fabTenant s.me.tenant) (pmRten c) then 2
  else 0

/-- The requests that the issuing bundle makes before this one. -/
def State.askedIn (s : State) : Nat :=
  (s.core.staged.filter (fun e =>
    match e with
    | .request _ _ _ _ _ _ => true
    | _ => false)).length

def execPmget (u : CUnit) (g : Guard) (src : Src) (s : State) : Host.Outcome State Fault Refusal :=
  .next (s.trigger u.dom g src 0 (some 2) (fun tr =>
    let sl := u.dom.slot
    let c := { s.sample u 24 tr.t.scalar with local_ := false }
    if s.core.task.cm || s.cmdIllegal pmUse c || pmCredit c = 0 || pmLease c = 0 then s.raiseIn sl { cause := .illegalMove }
    else if 32 ≤ ((s.core.eng u).cmds.filter (fun x => x.st = .queued)).length then s.holdMove sl.num
    else
      let code := s.pmCode c
      let opid := (s.opids + s.askedIn) % 65536
      let ask : List Eff := if code = 0 then [.request (pmNum c) (pmPkg c) (pmRctx c) (pmRten c) (pmLease c) (pmCredit c)] else []
      s.deliver tr 2 (.sc (BitVec.ofNat 64 code)) (more := [.cmd u { c with acc := [(0, BitVec.ofNat 64 code), (1, BitVec.ofNat 64 opid)] } true, .commit] ++ ask)))

def execPmret (u : CUnit) (g : Guard) (src : Src) (s : State) : Host.Outcome State Fault Refusal :=
  .next (s.command u g src 25 pmUse (fun _ => false) (fill := notLocal))

/-- A command of one element that is over at once. -/
def State.oneDone (s : State) (u : CUnit) (c : Cmd) : State := (s.runCmd u c 1).setCmd u c.id (fun x => { x with elem := 1 })

/-- pmget starts: its request leaves, or it is over. A permit that has been returned meanwhile waits for the answer apart. -/
def State.startPmget (s : State) (u : CUnit) (c : Cmd) : State :=
  let n := pmNum c
  let opid := ((alook c.acc 1).getD 0).toNat
  let at_ := some (s.cur, u, c.id)
  if (alook c.acc 0).getD 0 ≠ 0 then s.oneDone u c
  else
    let p := s.permit c.cid n
    let s := s.runCmd u c 1
    let s := if p.state = 1 ∧ p.opid = opid then s.setPermit c.cid n (fun p => { p with cmd := at_ })
      else s.onCtx c.cid (fun x => { x with asks := x.asks.map (fun a => if a.pmt = n ∧ a.opid = opid then { a with cmd := at_ } else a) })
    s.sendPermit c.cid (pmPkg c) [0, c.cid, n, pmRctx c, pmCredit c, pmLease c, 0, pmRten c] opid

/-- A permit is given up before the answer to its request has come: a late grant goes back to the receiver (R352, R354). -/
def State.leaveAsk (s : State) (cid n : Nat) : State :=
  let p := s.permit cid n
  if p.state ≠ 1 then s
  else s.onCtx cid (fun x =>
    { x with asks := x.asks ++ [{ pmt := n, opid := p.opid, ask := p.ask, pkg := p.pkg, rctx := p.rctx, rten := p.rten, cmd := p.cmd }] })

/-- pmret starts: the unused credit returns (R352). -/
def State.startPmret (s : State) (u : CUnit) (c : Cmd) : State :=
  let n := pmNum c
  let p := s.permit c.cid n
  if p.state = 0 then s.oneDone u c
  else
    let s : State := if p.credit = 0 then s else s.sendReturn c.cid n p.credit 0 false
    let left : Permit := if p.drawn = 0 then {} else { p with state := 5, credit := 0 }
    ((s.leaveAsk c.cid n).setPermit c.cid n (fun _ => left)).oneDone u c

/-- The receiver grants from its pool or denies, and answers. -/
def execPermitRequestReceive (p : Packet) (s : State) : Host.Outcome State Fault Refusal :=
  let i := fun (k : Nat) => p.info.getD k 0
  let rctx := i 3
  if !s.hasReceiver rctx (i 7) then .next s
  else
    let ok := decide (i 4 ≤ (s.ctx rctx).pool)
    let s : State := if ok then s.onCtx rctx (fun c => { c with pool := c.pool - i 4 }) else s
    .next (s.sendPacket
      { rw := s.routing { dest := fld p.rw 11 11, tenant := s.netOf rctx, ctx := rctx, cls := 1, kind := 3, len := 0, opid := fld p.rw 62 16 },
        rh := 0, info := [1, i 1, i 2, b2n ok], data := [] })

/-- The command that waits for an answer has done its element. -/
def State.endAsk (s : State) (cmd : Option (Nat × CUnit × Nat)) : State :=
  match cmd with
  | some (k, u, id) => s.setCmdOn k u id (fun x => { x with elem := x.total })
  | none => s

/-- The answer reaches the sender; the grant of a permit that has been given up goes back. `pmt` holds the permit in its low 8 bits and
above them the OPID that the answer echoes (R337, R352). -/
def execPermitAnswerReceive (cid pmt : Nat) (granted : Bool) (s : State) : Host.Outcome State Fault Refusal :=
  match alook s.ctxs cid with
  | none => .next s
  | some x =>
    let n := pmt % 256
    let p := s.permit cid n
    if p.state = 1 ∧ p.opid = pmt / 256 then
      .next ((s.endAsk p.cmd).setPermit cid n (fun p =>
        if granted then { p with state := 2, credit := p.ask, expiry := s.frame + p.lease, ask := 0, cmd := none }
        else { p with state := 3, ask := 0, cmd := none }))
    else
      match x.asks.find? (fun a => a.pmt = n && a.opid = pmt / 256) with
      | some a =>
        let s := (s.endAsk a.cmd).onCtx cid (fun x => { x with asks := x.asks.erase a })
        .next (if granted then s.sendPermit cid a.pkg [2, cid, n, a.rctx, a.ask, 0, 0, a.rten] else s)
      | none => .next s

/-- A lease ends: the unused credit is the receiver's again (R353). -/
def State.expirePermit (s : State) (cid pmt : Nat) : State :=
  let p := s.permit cid pmt
  if p.state ≠ 2 ∨ s.frame < p.expiry then s
  else
    let s : State := if p.credit = 0 then s else s.sendReturn cid pmt p.credit 0 false
    s.setPermit cid pmt (fun p => { p with state := 4, credit := 0 })

def execPermitExpire (cid pmt : Nat) (s : State) : Host.Outcome State Fault Refusal := .next (s.expirePermit cid pmt)

/-- At a package frame boundary every lease that is over ends. -/
def State.expirePermits (s : State) : State :=
  s.ctxs.foldl (fun s c => c.2.permits.foldl (fun s p => s.expirePermit c.1 p.1) s) s

/-- A return restores the pool; one of a reset closes the regions that drew on the permit, as rtfree would (R354). -/
def execPermitReturnReceive (p : Packet) (s : State) : Host.Outcome State Fault Refusal :=
  let i := fun (k : Nat) => p.info.getD k 0
  let rctx := i 3
  if !s.hasReceiver rctx (i 7) then .next s
  else
    let s := s.onCtx rctx (fun c => { c with pool := c.pool + i 4 + i 5 })
    if i 6 = 0 then .next s
    else
      let gone := fun (r : Region) => r.srcPkg = fld p.rw 11 11 && r.srcCid = i 1 && r.cid = rctx && r.dest.remote && r.dest.pmt = i 2
      .next ((s.regions.filter gone).foldl State.closeRegion s)

/-- A return for every permit of a context that is not FREE, with all it holds (R94, R354). -/
def State.returnPermits (s : State) (cid : Nat) : State :=
  (s.ctx cid).permits.foldl (fun s p =>
    if p.2.state = 0 then s
    else ((s.sendReturn cid p.1 p.2.credit p.2.drawn true).leaveAsk cid p.1).setPermit cid p.1 (fun _ => {})) s

/-- Resets a partition: its reset sequencer returns the permits of its contexts. -/
def execPreset (part : Nat) (s : State) : Host.Outcome State Fault Refusal :=
  s.commandOf (s.parts[part]?.map (·.tenant)) (fun s =>
    match s.parts[part]? with
    | none => s.answer .refused
    | some p => ((s.ctxs.filter (fun c => c.2.tenant = p.tenant)).foldl (fun s c => s.returnPermits c.1) s).answer .done)

def execPmcfg (cid pool : Nat) (s : State) : Host.Outcome State Fault Refusal :=
  s.commandOf (s.tenantOf cid) (fun s =>
    match alook s.ctxs cid with
    | none => s.answer .refused
    | some _ => (s.onCtx cid (fun c => { c with pool := pool })).answer .done)

def execCollcfg (tenant grp : Nat) (members : List (Nat × Nat)) (s : State) : Host.Outcome State Fault Refusal :=
  s.commandOf (some tenant) (fun s =>
    if 16 ≤ tenant ∨ 64 ≤ grp ∨ members.isEmpty ∨ 1024 < members.length ∨ members.any (fun m => 1024 ≤ m.1 || 1024 ≤ m.2) then s.answer .refused
    else ({ s with groups := aput s.groups (tenant * 64 + grp) members, colls := aput s.colls (tenant * 64 + grp) 0 } : State).answer .done)

/-! ### Collectives (R350) -/

def collOp (c : Cmd) : Nat := fld c.word 5 3
def collGrp (c : Cmd) : Nat := fld c.word 8 6

def execColl (u : CUnit) (g : Guard) (src : Src) (s : State) : Host.Outcome State Fault Refusal :=
  .next (s.command u g src 23 { srcSeg := false, dstSeg := false, shape := false } (fun c => decide (4 ≤ collOp c))
    (fill := notLocal))

def State.collMembers (s : State) (c : Cmd) : List (Nat × Nat) := (alook s.groups ((s.ctx c.cid).tenant * 64 + collGrp c)).getD []

/-- This member's place in the ring. -/
def State.collMe (s : State) (c : Cmd) : Option Nat := (s.collMembers c).idxOf? (s.pkg, c.cid)

def Tensor.count (t : Tensor) : Nat := t.dims.take t.rank |>.foldl (· * ·) 1

/-- The first element of chunk k: the least i with floor(i × N / NE) ≥ k. -/
def chunkLo (n ne k : Nat) : Nat := cdiv (k * ne) n

def chunkLen (n ne k : Nat) : Nat := chunkLo n ne (k + 1) - chunkLo n ne k

/-- Packets of a chunk: 128 elements each. -/
def chunkPackets (n ne k : Nat) : Nat := cdiv (chunkLen n ne k) 128

/-- Elements of packet j of chunk k: the first, and how many. -/
def chunkPart (n ne k j : Nat) : Nat × Nat := (chunkLo n ne k + 128 * j, min 128 (chunkLen n ne k - 128 * j))

/-- Packets that reach this member after the comparison. -/
def collArrivals (op n ne me : Nat) : Nat :=
  let sum := fun (p : Nat → Bool) => (List.range n).foldl (fun a k => a + if p k then chunkPackets n ne k else 0) 0
  match op with
  | 0 => sum (fun k => k ≠ (me + n - 1) % n) + sum (fun k => k ≠ me)
  | 1 => sum (fun k => k ≠ me)
  | 2 => if me = 0 then 0 else sum (fun _ => true)
  | _ => sum (fun k => k ≠ (me + n - 1) % n)

/-- The place of an element, and the bit it starts at. -/
def Tensor.elemAt (t : Tensor) (i : Nat) : Nat × Nat × Nat :=
  let at_ := i % t.inner * memBits t.fmt
  (i / t.inner, at_ / 8, at_ % 8)

/-- Elements i to i + n − 1 in storage order. -/
def State.collRead (u : CUnit) (c : Cmd) (tid : Nat) (t : Tensor) : Nat → Nat → State → Res (List Nat)
  | _, 0, s => .val s []
  | i, n + 1, s =>
    let e := t.elemAt i
    (s.tenRead u c tid (t.runs e.1 e.2.1 (cdiv (e.2.2 + memBits t.fmt) 8))).bind (fun s bs =>
      (State.collRead u c tid t (i + 1) n s).bind (fun s rest => .val s (nfld (natLE bs) e.2.2 (memBits t.fmt) :: rest)))

def State.collWrite (u : CUnit) (c : Cmd) (tid : Nat) (t : Tensor) : Nat → List Nat → State → Res Unit
  | _, [], s => .val s ()
  | i, v :: l, s =>
    let e := t.elemAt i
    let w := memBits t.fmt
    let n := cdiv (e.2.2 + w) 8
    let runs := t.runs e.1 e.2.1 n
    (s.tenTouch u c tid runs true).bind (fun s _ =>
      let old := natLE (s.readRuns tid runs)
      let new := old - nfld old e.2.2 w * 2 ^ e.2.2 + v % 2 ^ w * 2 ^ e.2.2
      (s.tenWrite u c tid runs (bytesLE n new)).bind (fun s _ => State.collWrite u c tid t (i + 1) l s))

/-- Elements are written, once every page that they touch can be (R240). -/
def State.collPut (u : CUnit) (c : Cmd) (tid : Nat) (t : Tensor) (i : Nat) (vs : List Nat) (s : State) : Res Unit :=
  let runs := (List.range vs.length).flatMap (fun j =>
    let e := t.elemAt (i + j)
    t.runs e.1 e.2.1 (cdiv (e.2.2 + memBits t.fmt) 8))
  (s.tenTouch u c tid runs true).bind (fun s _ => State.collWrite u c tid t i vs s)

/-- The format a sum is carried in. -/
def collSum (fmt : Nat) : Nat := if fmt = 16 then 16 else 15

/-- Which collective of its group a command is, counted from its start (R350). -/
def collInst (c : Cmd) : Nat := c.chunk / 2 ^ 32

/-- A packet of a collective to one member: what it is, three numbers, its instance, the member's context and the group; the layout is not stated
(log 15). -/
def State.collSend (s : State) (c : Cmd) (target : Nat × Nat) (info : List Nat) (data : List Byte) : State :=
  s.sendPacket
    { rw := s.routing { dest := target.1, tenant := s.netOf c.cid, ctx := c.cid, cls := 2, kind := 1, len := cdiv data.length 64 },
      rh := 0, info := (info ++ [0, 0, 0, 0]).take 4 ++ [collInst c, target.2, collGrp c], data := data }

/-- To every other member. -/
def State.collSendAll (s : State) (c : Cmd) (me : Nat) (info : List Nat) (data : List Byte) : State :=
  ((s.collMembers c).zipIdx.filter (fun m => m.2 ≠ me)).foldl (fun s m => s.collSend c m.1 info data) s

def collData (bits : Nat) (vs : List Nat) : List Byte := fieldBytes bits (cdiv (bits * vs.length) 8) vs

def State.collFault (s : State) (u : CUnit) (c : Cmd) (f : FaultInfo) : State := s.cmdFault u c { f with unit := 12 }

/-- The start: both tensors, one shape and format, a member of the group; then the members compare OP and NE. -/
def State.startColl (s : State) (u : CUnit) (c : Cmd) : State :=
  match firstFault [s.tensorStart c.srcw false, s.tensorStart c.dstw false] with
  | some f => s.cmdFault u c f
  | none =>
    match s.tensor (epTid c.srcw), s.tensor (epTid c.dstw), s.collMe c with
    | some a, some b, some me =>
      let sums := collOp c = 0 || collOp c = 3
      if a.fmt ≠ b.fmt ∨ a.dims.take a.rank ≠ b.dims.take b.rank then s.cmdFault u c { cause := .illegalMove }
      else if sums ∧ ¬ (a.fmt = 12 ∨ a.fmt = 13 ∨ a.fmt = 15 ∨ a.fmt = 16) then s.cmdFault u c { cause := .formatUnsupported }
      else
        let n := (s.collMembers c).length
        let key := (s.ctx c.cid).tenant * 64 + collGrp c
        let inst := (alook s.colls key).getD 0
        let s := ({ s with colls := aput s.colls key (inst + 1) } : State).runCmd u c (collArrivals (collOp c) n a.count me + 1)
        let c := { c with chunk := inst * 2 ^ 32 }
        let s := s.setCmd u c.id (fun x => { x with ready := n = 1, chunk := c.chunk })
        s.collSendAll c me [0, me, collOp c, a.count] []
    | _, _, _ => s.cmdFault u c { cause := .illegalMove }

/-- Packets of the chunks of a list, in order: (chunk, packet). -/
def chunkJobs (n ne : Nat) (ks : List Nat) : List (Nat × Nat) := ks.flatMap (fun k => (List.range (chunkPackets n ne k)).map (fun j => (k, j)))

/-- A total rounded into the tensor's format, with flags. -/
def collRound (fmt : Nat) (vs : List Nat) : List (Nat × Flags) :=
  vs.map (fun v => if fmt = collSum fmt then (v, 0) else roundNum fmt .rne false (decodeNum (collSum fmt) v))

/-- What a member does of its own accord once all have agreed: packet by packet it sends its own chunks on their way, and writes those
that need no packet; a page fault stops it at one, and it goes on there (R240, R350). -/
def State.collLocal (s : State) (u : CUnit) (c : Cmd) : Res (Nat × Nat) :=
  match s.tensor (epTid c.srcw), s.collMe c with
  | some t, some me =>
    let mem := s.collMembers c
    let n := mem.length
    let ne := t.count
    let w := memBits t.fmt
    let sd := epTid c.srcw
    let dd := epTid c.dstw
    let op := collOp c
    let prev := (me + n - 1) % n
    let ks := match op with
      | 1 => [me]
      | 2 => if me = 0 then List.range n else []
      | _ => [prev]
    let job := fun (kj : Nat × Nat) (s : State) =>
      let p := chunkPart n ne kj.1 kj.2
      (State.collRead u c sd t p.1 p.2 s).bind (fun s vs =>
        if op = 1 ∨ op = 2 then
          (State.collPut u c dd t p.1 vs s).bind (fun s _ => .val (s.collSendAll c me [2, kj.1, kj.2] (collData w vs)) ())
        else
          let xs := vs.map (fun v => (roundNum (collSum t.fmt) .rne false (decodeNum t.fmt v)).1)
          if n = 1 then State.collPut u c dd t p.1 ((collRound t.fmt xs).map (·.1)) s
          else .val (s.collSend c (mem.getD ((me + 1) % n) (0, 0)) [1, kj.1, kj.2] (collData (memBits (collSum t.fmt)) xs)) ())
    let jobs := chunkJobs n ne ks
    let at_ := c.chunk % 2 ^ 32
    match jobs[at_]? with
    | none => .val (s.setCmd u c.id (fun x => { x with performed := true })) (0, 1)
    | some kj =>
      (job kj s).bind (fun s _ =>
        let last := decide (jobs.length ≤ at_ + 1)
        let bytes := if op = 1 ∨ op = 2 ∨ n = 1 then cdiv (w * (chunkPart n ne kj.1 kj.2).2) 8 else 0
        .val (s.setCmd u c.id (fun x => { x with chunk := x.chunk + 1, performed := last })) (bytes, b2n last))
  | _, _ => .val s (0, 1)

/-- A data packet of a collective: a partial sum is added to and goes on, a final chunk is written. -/
def State.collData_ (s : State) (u : CUnit) (c : Cmd) (p : Packet) : Res (Nat × Nat) :=
  match s.tensor (epTid c.srcw), s.collMe c with
  | some t, some me =>
    let mem := s.collMembers c
    let n := mem.length
    let ne := t.count
    let k := p.info.getD 1 0
    let j := p.info.getD 2 0
    let at_ := chunkPart n ne k j
    let dd := epTid c.dstw
    if p.info.getD 0 0 = 2 then
      let vs := fieldsN (memBits t.fmt) at_.2 p.data
      (State.collPut u c dd t at_.1 vs s).bind (fun s _ => .val s (p.data.length, 1))
    else
      let sf := collSum t.fmt
      let part := fieldsN (memBits sf) at_.2 p.data
      (State.collRead u c (epTid c.srcw) t at_.1 at_.2 s).bind (fun s own =>
        let sums := (List.zip part own).map (fun e => roundOp (if sf = 16 then fp64 else fp32) (Num.add .rne (decodeNum sf e.1) (decodeNum t.fmt e.2)))
        let s := s.addFlags u c.id (orFlags (sums.map (·.2)))
        let xs := sums.map (·.1)
        if k ≠ me then .val (s.collSend c (mem.getD ((me + 1) % n) (0, 0)) [1, k, j] (collData (memBits sf) xs)) (0, 1)
        else
          let out := collRound t.fmt xs
          let s := s.addFlags u c.id (orFlags (out.map (·.2)))
          (State.collPut u c dd t at_.1 (out.map (·.1)) s).bind (fun s _ =>
            .val (if collOp c = 0 then s.collSendAll c me [2, k, j] (collData (memBits t.fmt) (out.map (·.1))) else s)
              (cdiv (memBits t.fmt * at_.2) 8, 1)))
  | _, _ => .val s (0, 1)

/-- A packet of a collective arrives for a command: the comparison first, then data, each packet once; one that faults stays to be
taken again (R240). -/
def execCollStep (u : CUnit) (id : Nat) (p : Packet) (s : State) : Host.Outcome State Fault Refusal :=
  match s.cmdOf u id with
  | none => .next s
  | some c =>
    let i := fun (k : Nat) => p.info.getD k 0
    let key := (i 0 * 1024 + i 1) * 2 ^ 40 + i 2 % 2 ^ 40
    let mine := fld p.rw 40 4 = 1 ∧ fld p.rw 22 6 = s.netOf c.cid ∧ i 4 = collInst c ∧ i 5 = c.cid ∧ i 6 = collGrp c
    if c.op ≠ 23 ∨ c.st ≠ .running ∨ ¬ mine then .next s
    else if i 0 = 0 then
      let ne := match s.tensor (epTid c.srcw) with
        | some t => t.count
        | none => 0
      if c.ready ∨ (alook c.acc (i 1)).isSome then .next s
      else if i 2 ≠ collOp c ∨ i 3 ≠ ne then .next (s.collFault u c { cause := .illegalMove })
      else
        .next (s.setCmd u id (fun x => { x with acc := aput x.acc (i 1) 1, ready := x.acc.length + 2 = (s.collMembers c).length }))
    else if !c.performed ∨ (alook c.acc key).isSome then .next s
    else
      match s.collData_ u c p with
      | .val s r => .next (s.elemDone u c (.val (s.setCmd u id (fun x => { x with acc := aput x.acc key 1 })) r))
      | r => .next (s.elemDone u c r)

end Sys2Proof.Machine
end

