-- ==== Sys2Proof/Machine/Engine.lean ====
section
/-! DEFINITION. The turns of a copy engine, over the starts and elements that each family defines (R239 to R241, R253). The stores
of a core stand in memory when their bundle has issued, so a command sees those before it (R309). -/

namespace Sys2Proof.Machine

/-- A command that draws from its engine's stream (R81, R83). -/
def Cmd.draws (c : Cmd) : Bool := c.op = 22 && c.rmf = 4 && c.fo ≠ 15

/-- A fence or a drain. -/
def Cmd.fences (c : Cmd) : Bool := decide (31 ≤ c.op) && decide (c.op ≤ 35)

/-- Whether the next command of an engine may start: no faulted command or subscription, fewer than four running, no stouch that waits
on its recall (R239); fences and drains come after every earlier command and before every later one (R303, R304), and a drawing command
after the earlier drawing ones (R83). -/
def CEngine.mayStart (e : CEngine) (c : Cmd) : Bool :=
  let before := e.cmds.takeWhile (fun x => x.id ≠ c.id)
  e.cmds.all (fun x => x.st ≠ .faulted && !(x.op = 10 && x.st = .running)) && e.subs.all (fun x => !x.2.faulted) &&
    decide ((e.cmds.filter (fun x => x.st = .running)).length < 4) && !(c.fences && !before.isEmpty) && !before.any Cmd.fences && !(c.draws && before.any Cmd.draws)

/-- The start of an operation, by its opcode (R65). -/
def State.startOp (s : State) (u : CUnit) (c : Cmd) : State :=
  match c.op with
  | 5 => s.startMcast u c
  | 6 => s.startTatom u c
  | 8 => s.startSub u c
  | 9 => s.startUnsub u c
  | 10 => s.startStouch u c
  | 11 => s.startSpush u c
  | 15 => s.startRtcfg u c
  | 16 => s.startRtgo u c
  | 18 => s.startRtinv u c
  | 19 => s.startRtfree u c
  | 20 | 21 | 22 => s.startLink u c
  | 23 => s.startColl u c
  | 24 => s.startPmget u c
  | 25 => s.startPmret u c
  | 26 | 27 | 28 | 29 | 30 | 31 | 32 | 33 | 34 | 35 => s.startSync u c
  | 36 | 37 | 38 => s.startBook u c
  | 39 => s.startTsub u c
  | _ => s.startCopy u c

/-- A local copy of a timed task starts only in a copy window of its task (R254, R281). -/
def State.outsideWindow (s : State) (u : CUnit) (c : Cmd) : Bool :=
  c.timed && c.local_ && decide (c.op ≤ 5) && !s.booked c.cid c.task (2 + u.num)

def execCommandStart (u : CUnit) (s : State) : Host.Outcome State Fault Refusal :=
  let e := s.core.eng u
  match e.cmds.find? (fun c => c.st = .queued) with
  | none => .next s
  | some c =>
    .next (if s.core.run = .saving || !e.mayStart c then s
      else if s.outsideWindow u c then s.cmdFault u c { cause := .timedStall }
      else s.startOp u c)

/-- The first granule that the next element of a copy would fill, where it fills a segment. -/
def State.elemFills (s : State) (c : Cmd) : Option (Nat × Nat) :=
  let at_ := fun (r k : Nat) => match s.locate c true r with
    | .ok (.seg name off) => some (nameIdx name, (off + k) / 64)
    | _ => none
  match c.op with
  | 0 => (walkRows (s.pieces c) c.rows 0 c.elem).bind (fun x => at_ x.1 (if c.fx then 8 * x.2.1 / 6 else x.2.1))
  | 4 =>
    let i := toSigned 32 (natLE (s.cmdBytes c (idxName c) (idxOff c + 4 * (c.elem / 2 ^ idxG c)) 4))
    if i < 0 then none else at_ (idxRow c i c.elem) 0
  | 5 => (mcastFind c (mcastN c) 0 c.elem).bind (fun i => (walkRows (mcastLines c i.1) c.rows 0 i.2.1).map (fun x =>
      (nameIdx (epName (mcastBuf c i.1)), (epOff (mcastBuf c i.1) + 64 + x.1 * c.dpitch + x.2.1) / 64)))
  | 6 => if tatomRet c then some (nameIdx (epName c.extw), epOff c.extw / 64) else none
  | _ => at_ c.elem 0

/-- A quantum in a circ entry of the command's task whose destination is a core of a logical cluster (R280). -/
def State.circBooked (s : State) (c : Cmd) (clu : Nat) : Bool :=
  match s.taskOn s.cur c.cid c.task with
  | some t => t.book.any (fun b => b.res = 5 && nfld b.mask 0 8 / 4 = clu && decide (b.lo ≤ s.qc) && decide (s.qc ≤ b.hi))
  | none => false

/-- The segment that the next element of a copy fills. -/
def State.elemTarget (s : State) (c : Cmd) : Option Nat :=
  if c.op = 4 then (if epT c.dstw then none else some (nameIdx (epName c.dstw))) else (s.elemFills c).map (·.1)

/-- A timed copy whose next element sends on the circuit network, from a segment of its core's cluster to one homed in another, outside
every circ entry for it (R281; log 18). -/
def State.outsideCirc (s : State) (c : Cmd) : Bool :=
  let here := s.linIn c.cid / 4
  c.timed && decide (c.op ≤ 5) && !epT c.srcw && ((s.ctx c.cid).seg (nameIdx (epName c.srcw))).home = here &&
    (match s.elemTarget c with
     | some i => let home := ((s.ctx c.cid).seg i).home
                 home ≠ here && !s.circBooked c home
     | none => false)

/-- The next element of a started command. -/
def State.stepElem (s : State) (u : CUnit) (c : Cmd) : State :=
  if s.outsideCirc c then s.cmdFault u c { cause := .timedStall }
  else if c.op ≤ 7 then s.elemDone u c (s.copyElem u c)
  else if 36 ≤ c.op ∧ c.op ≤ 38 then s.elemDone u c (s.bookElem u c)
  else if c.op = 39 then
    match s.tsubElem u c with
    | (s, some r) => s.elemDone u c r
    | (s, none) => s
  else if c.op = 23 ∧ c.ready ∧ ¬ c.performed then s.elemDone u c (s.collLocal u c)
  else s

/-- Whether the next element of a copy reads a page of its source: with the page POISONED it would fault there. -/
def State.elemReads (s : State) (u : CUnit) (c : Cmd) (tid page : Nat) : Bool :=
  c.op ≤ 7 && epT c.srcw && tid = epTid c.srcw && (s.page tid page).stateNum = 1 &&
  (match (s.onPage tid page Page.poisoned).copyElem u c with
   | .fault _ f => f.cause = .tilePoison && f.wher = pageWhere tid page
   | _ => false)

/-- A copy meets an uncorrectable error in a page of either tier: the page is POISONED, nothing of the bad line is written, and the
command faults as every later touch does (R135); with a page of the LP tier the segment it was filling is POISONED too (R145). -/
def State.badLine (s : State) (u : CUnit) (c : Cmd) (tid page : Nat) : State :=
  let fills := if (s.page tid page).lp then s.elemFills c else none
  let s := s.poisonPage tid page
  let s : State := match fills with
    | some g => s.poisonSeg c.cid g.1 g.2
    | none => s
  s.elemDone u c (s.copyElem u c)

/-- The next element of a running command, which may meet a page with a line that cannot be read. -/
def execCopyElement (u : CUnit) (id : Nat) (s : State) : Host.Outcome State Fault Refusal :=
  match s.cmdOf u id with
  | some c =>
    .next (if c.st = .running && decide (c.elem < c.total) then
        (match s.badPages.find? (fun p => s.elemReads u c p.1 p.2) with
         | some p => s.badLine u c p.1 p.2
         | none => s.stepElem u c)
      else s)
  | none => .next s

/-- The end of a running command whose work is done. -/
def State.endCmd (s : State) (u : CUnit) (c : Cmd) : State :=
  if c.op = 10 ∨ c.op = 11 then s.endSegWait u c
  else if 26 ≤ c.op ∧ c.op ≤ 35 then s.endSync u c
  else if c.elem < c.total ∨ (c.op = 22 ∧ lnkFwd c ∧ c.chunk < c.total) then s
  else if (c.op = 20 ∨ (c.op = 22 ∧ lnkFwd c)) ∧ !s.lnkLeft c then s
  else if c.op = 22 ∧ c.performed then s.finishCmd u c
  else s.completeCmd u c

def execCommandComplete (u : CUnit) (id : Nat) (s : State) : Host.Outcome State Fault Refusal :=
  match s.cmdOf u id with
  | some c => .next (if c.st = .running then s.endCmd u c else s)
  | none => .next s

/-- What a faulted command waits for under AUTO is there (R240). -/
def State.cmdWaits (s : State) (c : Cmd) : Bool :=
  c.wait.any (fun i => (s.ctx c.cid).batches.any (fun b => b.2.contains i)) ||
    (match c.waitPg with
     | some (tid, p) => (s.page tid p).mov
     | none => false)

def execEngineResume (u : CUnit) (id : Nat) (s : State) : Host.Outcome State Fault Refusal :=
  match s.cmdOf u id with
  | some c => .next (if c.st = .faulted && c.auto && !s.cmdWaits c then
      (s.setCmd u id Cmd.woken).wakeSlots (fun x => x.1 = s.cur && x.2.1 = u && x.2.2 = id) else s)
  | none => .next s

end Sys2Proof.Machine
end

