-- ==== Sys2Proof/Machine/Frame.lean ====
section
/-! DEFINITION. The package frame boundary: clock, samples, energy and throttle (R279, R357 to R359), compaction and the pending tasks
(R283, R284), fetches that wait for a frame (R144), leases (R353), beacons (R339), the end of bring-up (R355). -/

namespace Sys2Proof.Machine

/-- Every cluster and stack has passed or failed its test (R355). -/
def State.testsOver (s : State) : Bool :=
  (List.range Config.clusters).all (fun c => decide (2 ≤ (alook s.cstate c).getD 0)) &&
    (List.range 8).all (fun k => (alook s.hbm k).getD 0 % 4 ≠ 0)

/-- The samples of a frame, cluster by cluster (R357). -/
def frameSamples (fin : FrameIn) : List (Nat × ClusterMon) :=
  (fin.mons.filter (fun m => decide (m.1 < Config.clusters))).foldl (fun m p => aput m p.1 p.2) []

/-- What the frame brings: the clock, samples, energy, and the throttle's step. -/
def State.newFrame (s : State) (fin : FrameIn) : State :=
  let s : State := { s with qc := s.qc + 1, frame := (s.frame + 1) % 2 ^ 64, ppwr := fin.ppwr, mons := frameSamples fin }
  let s := s.energyOf fin
  { s with throttle := s.throttle.boundary fin.ppwr s.tmax }

/-- A package frame begins; F, with what it makes ready, comes last. -/
def execFrameBoundary (fin : FrameIn) (s : State) : Host.Outcome State Fault Refusal :=
  if (s.qc + 1) % 64 ≠ 0 then .next s
  else
    let s := (s.holdQuantum.newFrame fin).expirePermits.sendBeacons.poolRetry
    let s := s.dropLate.compactAll.tryPending
    let s : State := if s.reduced then s else s.advanceF
    let s : State := s.refreshReady
    .next (if s.pstate = .bringup && s.testsOver then { s with pstate := .service } else s)

end Sys2Proof.Machine
end

