-- ==== Sys2Proof/Machine/Bundle.lean ====
section
/-! DEFINITION. The issue of a bundle (R45 to R50, R66 to R70): the checks in the order of R70, the ring thresholds (R22,
R207), the restart shadow's limits (R101), and the end of a bundle: effects, ring advances (R23), the nest close (R163),
branches (R67), safe points (R103), E. The moves themselves are run by a function that the caller gives. -/

namespace Sys2Proof.Machine

/-! ### The latencies of the maps (R62 to R65) -/

def latS (op : Nat) : Option Nat :=
  if op ≤ 1 then some 1 else if op ≤ 4 then some 3 else if op ≤ 8 then some 18 else if op ≤ 40 then some 1
  else if op ≤ 47 then some 7 else if op ≤ 51 then none else if op ≤ 61 then some 7 else if op = 67 then some 7
  else if op = 72 ∨ op = 74 ∨ op = 76 ∨ op = 77 then some 1 else if 79 ≤ op ∧ op ≤ 82 then some 7 else none

def latV (op : Nat) : Option Nat :=
  if op ≤ 83 then some 2 else if op ≤ 119 then some 4 else if op ≤ 135 then some 8 else if op ≤ 167 then some 2
  else if op ≤ 179 then some 6 else if op ≤ 183 then some 8 else if op ≤ 185 then some 2 else if op = 189 then some 6
  else if op ≤ 191 then some 4 else if op ≤ 195 then some 3 else if op = 196 ∨ op = 198 then some 8
  else if op = 200 then some 12 else if op = 202 then some 1 else if op = 205 ∨ op = 211 then some 3
  else if 212 ≤ op ∧ op ≤ 214 then some 10 else if op = 219 ∨ op = 220 ∨ op = 224 then some 1 else none

/-- The exposed latency of an operation that delivers through res, none for one that does not. -/
def trigLat (d : Dom) (op : Nat) : Option Nat :=
  match d with
  | .s => latS op
  | .v0 | .v1 => latV op
  | .m => if op = 6 then some 1 else none
  | .c0 | .c1 => if op = 14 ∨ op = 17 ∨ op = 24 ∨ op = 40 then some 2 else none

/-! ### Step 1 and 2: what depends on the bits (R68) -/

/-- The slots of a bundle that are not the all-zero move (R69). -/
def liveWords (b : BitVec 256) : List (Slot × BitVec 24) :=
  (allSlots.map (fun sl => (sl, slotWord b sl))).filter (fun p => p.2 ≠ 0#24)

/-- A destination that the duplicate check ignores (R69). -/
def Dst.dead : Dst → Bool
  | .sreg i => i = 0
  | .vreg i => i = 0 || i = 320
  | .guard i => i = 0
  | .mask i => i = 0
  | _ => false

/-- Two moves with the same destination register or port (R68, R69). -/
def duplicates : List (Slot × BitVec 24) → Bool
  | [] => false
  | p :: l =>
    (match dstOf p.1 (moveDst p.2).toNat with
     | some d => !d.dead && l.any (fun q => dstOf q.1 (moveDst q.2).toNat = some d)
     | none => false) || duplicates l

/-- The header conditions of R68, with LE naming an armed level (R163) and LSL a list of the image (R50). -/
def State.headerFault (s : State) (h : Header) : Bool :=
  let c := s.core
  h.hk = 3 || h.le = 7 || (h.sp != (h.hk = 2)) ||
    (h.hk = 1 && (fld h.pay 0 12 ≠ 0 || decide (5 ≤ fld h.pay 17 3))) ||
    (h.hk = 2 && !(match s.me.image with
      | some i => i.lists.any (fun l => l.1 = fld h.pay 24 16)
      | none => false)) ||
    (h.le ≠ 0 && !(c.level h.le).arm)

/-- Whether a domain slot may read a ring (R56). -/
def Ring.readableBy (r : Ring) (d : Dom) : Bool := r.store = 3 || r.dom = d

/-- Step 2 on one move: the encoding, the allocation (R100) and the file of a ring read by a domain slot (R56). -/
def State.staticFault (s : State) (p : Slot × BitVec 24) : Bool :=
  let dst := (moveDst p.2).toNat
  let src := (moveSrc p.2).toNat
  (match decodeMove p.1 p.2 with
   | .ok _ => false
   | .error _ => true) ||
  (match srcKind p.1 (moveSrc p.2), p.1.dom? with
   | none, _ => true
   | some (.head h), some d =>
     match s.core.headRing h with
     | some (_, r) => !r.readableBy d
     | none => false
   | some _, _ => false) ||
  (dst < 704 && !s.me.allocated dst) || (src < 704 && !s.me.allocated src)

/-- Step 3: the format codes and SCP of an FMTW payload (R49, R79). -/
def fmtwFault (h : Header) : Bool :=
  h.hk = 1 && (decide (24 ≤ fld h.pay 35 5) || decide (24 ≤ fld h.pay 30 5) || decide (24 ≤ fld h.pay 25 5) ||
    decide (24 ≤ fld h.pay 20 5) || decide (3 ≤ fld h.pay 12 4))

/-! ### Step 5: the dynamic conditions, on the moves whose guard is true -/

def State.guarded (s : State) (ws : List (Slot × BitVec 24)) : List (Slot × BitVec 24) :=
  ws.filter (fun p => s.core.guard (moveG p.2).toNat)

/-- The opcode of a trigger (R61). -/
def trigOf (p : Slot × BitVec 24) : Option (Dom × Nat) :=
  match p.1.dom? with
  | some d => if 720 ≤ (moveDst p.2).toNat then some (d, (moveDst p.2).toNat - 720) else none
  | none => none

/-- The scalar that a radv or rpush reads, with the V operand's lane 0 for it (R207). -/
def State.advOf (s : State) (p : Slot × BitVec 24) : Option (Bool × Nat × Nat) :=
  match trigOf p with
  | some (d, op) =>
    if d.vu?.isSome && (op = 221 || op = 222) then
      match srcKind p.1 (moveSrc p.2) with
      | some sk =>
        match s.readSrc sk true with
        | .val v _ => let t := lane v.vector 0
                      some (op = 222, fld t 0 3, fld t 3 7)
        | _ => none
      | none => none
    else none
  | none => none

/-- A full input file (R17) and an unbound tail port (R22), whatever value comes. -/
def CoreSt.portFault (c : CoreSt) (d : Dst) : Bool :=
  match d with
  | .input dom second => decide (4 ≤ (c.input dom second).q.length)
  | .tail i => (c.tailRing i).isNone
  | _ => false

/-- What step 5 of R70 finds in a move. A radv or rpush with n above 64 (R207), which the row of step 5 does not list, is found there as well
(DESIGN CHOICE, log 30). -/
def State.dynFault (s : State) (p : Slot × BitVec 24) : Bool :=
  let c := s.core
  match srcKind p.1 (moveSrc p.2) with
  | none => true
  | some sk =>
    match trigOf p with
    | some (d, op) =>
      (match s.readSrc sk d.vu?.isSome with
       | .fault f => f.cause = .illegalMove
       | _ => false) ||
      (match trigLat d op with
       | some l => c.collides d (c.issued + l) || (rtKind (c.rtOf d) = 4 && (c.tailRing (rtIdx (c.rtOf d))).isNone)
       | none => false) ||
      (match s.advOf p with
       | some (push, i, n) => decide (64 < n) || (if push then (c.tailRing i).isNone else (c.headRing i).isNone)
       | none => false)
    | none =>
      match dstOf p.1 (moveDst p.2).toNat with
      | none => true
      | some dst =>
        -- an overflow and an unbound tail port do not depend on the value, which may not be there yet
        c.portFault dst ||
        match s.readSrc sk (s.dstVector dst) with
        | .fault f => f.cause = .illegalMove
        | .hold => false
        | .val v _ =>
          match s.checkDst dst v with
          | .fault f => f.cause = .illegalMove
          | _ => false

/-- An unbound latch or port in the POP or PUSH mask (R22). -/
def CoreSt.maskFault (c : CoreSt) (h : Header) : Bool :=
  (List.range 8).any (fun i => (bit h.pop i && (c.headRing i).isNone) || (bit h.push i && (c.tailRing i).isNone))

/-! ### Step 6: ring thresholds (R22, R207) -/

/-- The latches a bundle reads, and the ports it writes. -/
def State.headsRead (s : State) (h : Header) (ws : List (Slot × BitVec 24)) : List Nat :=
  (List.range 8).filter (fun i => bit h.pop i || ws.any (fun p => srcKind p.1 (moveSrc p.2) = some (.head i)))

/-- An operation that delivers no result writes no tail, whatever its rt says: whether the threshold of a tail in its rt holds it all
the same is open in R22 (DESIGN CHOICE, log 28). -/
def State.tailsWritten (s : State) (h : Header) (ws : List (Slot × BitVec 24)) : List Nat :=
  (List.range 8).filter (fun i => bit h.push i || ws.any (fun p =>
    match trigOf p with
    | some (d, op) => (trigLat d op).isSome && rtKind (s.core.rtOf d) = 4 && rtIdx (s.core.rtOf d) = i
    | none => dstOf p.1 (moveDst p.2).toNat = some (.tail i)))

def State.ringsReady (s : State) (h : Header) (ws : List (Slot × BitVec 24)) : Bool :=
  let heads := s.headsRead h ws
  let tails := s.tailsWritten h ws
  let advs := ws.filterMap s.advOf
  s.core.rings.all (fun e =>
    let r := e.2
    let ha := (if r.hen && bit h.pop r.hl then 1 else 0) +
      ((advs.filter (fun a => !a.1 && r.hen && a.2.1 = r.hl)).map (·.2.2)).foldl (· + ·) 0
    let ta := (if r.ten && bit h.push r.tp then 1 else 0) +
      ((advs.filter (fun a => a.1 && r.ten && a.2.1 = r.tp)).map (·.2.2)).foldl (· + ·) 0
    (!(r.hen && heads.contains r.hl) || decide (r.fm1 + 1 ≤ r.filled)) &&
    (!(r.ten && tails.contains r.tp) || decide (r.em1 + 1 + r.infl ≤ r.free)) &&
    decide (ha ≤ r.filled) && decide (ta ≤ r.free))

/-! ### The limits of the shadow (R101) -/

/-- The levels that a close of level `l` steps (R163). -/
def CoreSt.closeChain (c : CoreSt) : Nat → List Nat
  | 0 => []
  | l + 1 =>
    let lv := c.level (l + 1)
    if (lv.idx + 1 < lv.t ∧ !lv.last) ∨ !(lv.c && decide (0 < l) && (c.level l).arm) then [l + 1]
    else (l + 1) :: c.closeChain l

def Dst.key (c : CoreSt) : Dst → List ShKey
  | .sreg i => if i = 0 then [] else [.sreg i]
  | .vreg i => if i = 0 ∨ i = 320 then [] else [.vreg i]
  | .spd => [.word c.spx]
  | .tail i =>
    match c.tailRing i with
    | some (_, r) =>
      match r.store with
      | 0 => [.vreg (r.base + r.tail)]
      | 1 => [.vreg (320 + r.base + r.tail)]
      | 2 => [.sreg (r.base + r.tail)]
      | _ => []
    | none => []
  | _ => []

def resultKey (c : CoreSt) (r : Result) : List ShKey :=
  let i := rtIdx r.rt
  if rtKind r.rt = 1 then (if i < 640 then Dst.key c (.vreg i) else Dst.key c (.sreg (i - 640)))
  else if rtKind r.rt = 4 then
    match c.tailRing i with
    | some (_, q) =>
      let at_ := (q.tail + q.infl) % q.depth
      match q.store with
      | 0 => [.vreg (q.base + at_)]
      | 1 => [.vreg (320 + q.base + at_)]
      | 2 => [.sreg (q.base + at_)]
      | _ => []
    | none => []
  else []

/-- The spill words that transfers into spd write as they land, in landing order from a given spx: those of the bundle
that issues (R57, R165). -/
def spdKeys : Nat → List (Xfer × Bool) → List ShKey
  | _, [] => []
  | spx, (x, mine) :: l =>
    match x.dst with
    | .spx => spdKeys (fld x.val.scalar 0 8) l
    | .spd => (if mine then [.word spx] else []) ++ spdKeys ((spx + 1) % 256) l
    | _ => spdKeys spx l

/-- The transfers in flight and those of the issuing bundle, in the order in which they land. -/
def CoreSt.landingOrder (c : CoreSt) : List (Xfer × Bool) :=
  sortBy (fun a b => decide (a.1.due < b.1.due)) (c.xfers.map (fun x => (x, false)) ++ c.staged.filterMap (fun e =>
    match e with
    | .xfer x => some (x, true)
    | _ => none))

/-- The registers that the staged effects and the close of a bundle write. -/
def CoreSt.countedBy (c : CoreSt) (h : Header) : List ShKey :=
  (c.staged.flatMap (fun e =>
    match e with
    | .write d _ => d.key c
    | .xfer x => if x.dst = .spd then [] else x.dst.key c
    | .result r => resultKey c r
    | .spillWord i _ => [.word i]
    | .spillLine i _ _ => [.line i]
    | .link _ => [.sreg 63]
    | _ => [])) ++ spdKeys c.spx c.landingOrder ++
  (c.closeChain h.le).flatMap (fun l => ((c.level l).ents.filter (fun e => e.kind = 1 && e.idx ≠ 0)).map (fun e => .sreg e.idx))

/-- A store to a segment ring that a tail port or a result makes. -/
def CoreSt.ringStore (c : CoreSt) (port : Nat) : Bool :=
  match c.tailRing port with
  | some (_, r) => r.store = 3
  | none => false

def CoreSt.storesBy (c : CoreSt) : Nat :=
  (c.staged.filter (fun e =>
    match e with
    | .store _ => true
    | .write (.tail i) _ => c.ringStore i
    | .xfer x => (match x.dst with
      | .tail i => c.ringStore i
      | _ => false)
    | .result r => rtKind r.rt = 4 && c.ringStore (rtIdx r.rt)
    | _ => false)).length

/-- Stores of the mark's bundles that have not reached the gate yet. -/
def CoreSt.storesComing (c : CoreSt) (m : Mark) : Nat :=
  (c.inflight.filter (fun r => rtKind r.rt = 4 && c.ringStore (rtIdx r.rt) && decide (m.issue ≤ r.trig))).length +
  (c.xfers.filter (fun x => decide (m.issue ≤ x.trig) && (match x.dst with
    | .tail i => c.ringStore i
    | _ => false))).length

def CoreSt.commits (c : CoreSt) : Bool := c.staged.contains .commit

def addKeys (l ks : List ShKey) : List ShKey := ks.foldl (fun l k => if l.contains k then l else k :: l) l

/-- Whether the bundle would shadow a 65th register or gate a 129th store (R101). -/
def CoreSt.shadowFull (c : CoreSt) (h : Header) : Bool :=
  match c.mark with
  | none => false
  | some m =>
    !c.commits && (decide (64 < (addKeys c.counted (c.countedBy h)).length) ||
      decide (128 < c.gated.length + c.storesComing m + c.storesBy))

/-! ### The end of a bundle -/

/-- An s register or d-word that an address-update entry steps by k strides (R160, R163). -/
def State.stepEnt (s : State) (k : Int) (e : NestEnt) : State :=
  let dv : W64 := BitVec.ofInt 64 (k * e.stride.toInt)
  match e.kind with
  | 1 => s.upd (fun c => c.writeS c.issued e.idx (c.sreg e.idx + dv))
  | 2 => s.upd (fun c =>
      { (c.setDword .c0 e.idx (c.dword .c0 e.idx + dv)) with
        dshadow := if c.dshadow.any (fun d => d.1 = .c0 && d.2.1 = e.idx) then c.dshadow else (.c0, e.idx, c.dword .c0 e.idx) :: c.dshadow })
  | 3 => s.upd (fun c =>
      { (c.setDword .c1 e.idx (c.dword .c1 e.idx + dv)) with
        dshadow := if c.dshadow.any (fun d => d.1 = .c1 && d.2.1 = e.idx) then c.dshadow else (.c1, e.idx, c.dword .c1 e.idx) :: c.dshadow })
  | _ => s

/-- `close(L)` of R163: the state, and the body start when fetch loops back. -/
def State.close : Nat → State → State × Option Nat
  | 0, s => (s, none)
  | l + 1, s =>
    let lv := s.core.level (l + 1)
    let idx := lv.idx + 1
    let s := lv.ents.foldl (fun s e => s.stepEnt 1 e) (s.upd (fun c => c.setLevel (l + 1) { lv with idx := idx }))
    if idx < lv.t ∧ !lv.last then (s, some lv.body)
    else
      let s := lv.ents.foldl (fun s e => s.stepEnt (-(idx : Int)) e) s
      let s := s.upd (fun c => c.setLevel (l + 1) { lv with idx := 0, last := false })
      if lv.c ∧ 0 < l ∧ (s.core.level l).arm then State.close l s else (s, none)

/-- The engine takes a command at the end of its bundle (R239, R253). -/
def CEngine.enqueue (e : CEngine) (c : Cmd) (joins : Bool) : CEngine :=
  { e with cmds := e.cmds ++ [{ c with id := e.nextId, batch := if joins then e.openB + 1 else 0 }], nextId := e.nextId + 1,
           openN := e.openN + b2n joins, remote := e.remote || !c.local_ }

/-- bclose (R253). -/
def CEngine.closeBatch (e : CEngine) : CEngine :=
  if e.openN = 0 then e
  else
    { e with openB := e.openB + 1, openN := 0,
             closed := if e.cmds.any (fun c => c.batch = e.openB + 1) then e.closed ++ [e.openB + 1] else e.closed }

/-- The accumulators that a mask names. -/
def maskAccs (mask : Nat) : List Nat := (List.range 8).filter (fun a => nfld mask a 1 = 1)

/-- The M queue takes a command at the end of its bundle (R215); accrel attaches to the last call not committed (R220). -/
def Matrix.enqueue (m : Matrix) (x : MCmd) : Matrix :=
  let m := { m with seq := m.seq + 1 }
  match x.kind, m.lastCall with
  | .call, _ => { m with queue := m.queue ++ [{ x with seq := m.seq - 1 }], lastCall := some (m.seq - 1) }
  | .accrel, some q =>
    { m with queue := m.queue ++ [{ x with seq := m.seq - 1, marked := true }],
             relPend := m.relPend ++ (maskAccs (fld x.word 0 8)).map (fun a => (a, q)) }
  | _, _ => { m with queue := m.queue ++ [{ x with seq := m.seq - 1 }] }

/-- The effects that stand before the stores: what a commit does first (R101). -/
def State.applyStores (s : State) (es : List Eff) : State :=
  es.foldl (fun s e =>
    match e with
    | .atomic seg off bs => s.taskWrite seg off bs
    | .store g => (s.putStore (s.checked g)).upd (fun c => { c with stores := c.stores ++ [(g.dom, g.perf)] })
    | _ => s) s

/-- What a write of a transfer's destination keeps of the check of its segment. -/
def State.dstLife (s : State) (d : Dst) : Nat × Nat :=
  match d with
  | .tail i => s.ringLife i
  | _ => (0, 0)

/-- An effect of the issuing bundle, as it ends. The clear of an swr to FST counts in this bundle, the one that triggers it: in which
of the two of R87 and R166 it counts is open (DESIGN CHOICE, log 28). -/
def State.applyEff (s : State) (e : Eff) : State :=
  let n := s.core.issued
  match e with
  | .write d v => s.writeDst n d v (s.dstLife d)
  | .xfer x =>
    let l := s.dstLife x.dst
    s.upd (fun c => { c with xfers := c.xfers ++ [{ x with life := l.1, addr := l.2 }] })
  | .append d second v from_ => s.upd (fun c => c.setInput d second ((c.input d second).append v from_))
  | .took d second => s.upd (fun c => c.setInput d second ((c.input d second).take n))
  | .result r =>
    let l := if rtKind r.rt = 4 then s.ringLife (rtIdx r.rt) else (0, 0)
    s.upd (fun c => { c with inflight := c.inflight ++ [{ r with life := l.1, addr := l.2 }] })
  | .maskWr w => s.upd (fun c => { c with maskq := c.maskq ++ [w] })
  | .permWr w => s.upd (fun c => { c with permq := c.permq ++ [w] })
  | .store _ => s
  | .atomic _ _ _ => s
  | .spillWord i v => s.upd (fun c => c.writeKey n (.word i) (fun _ => .sc v))
  | .spillLine i v m => s.upd (fun c => c.writeKey n (.line i) (maskedVal m (.vec v)))
  | .swrFst v => s.upd (fun c => { c with fst := w1c c.fst (v.setWidth 11) })
  | .swrGen v => s.upd (fun c => c.setStream 0 (if v = 0 then genZero else v))
  | .link v => s.upd (fun c => { c with xfers := { due := n + 1, trig := n, dst := .sreg 63, val := .sc v } :: c.xfers })
  | .branch t => s.upd (fun c => { c with branches := c.branches ++ [(n + 2, t)] })
  | .ringInfl q => s.upd (fun c => c.setRing q { c.ring q with infl := (c.ring q).infl + 1 })
  | .cmd u x joins => s.upd (fun c => c.setEng u ((c.eng u).enqueue x joins))
  | .mcmd x => s.upd (fun c => { c with mat := c.mat.enqueue x })
  | .gate g => s.upd (fun c => { c with gates := c.gates ++ [g] })
  | .closeBatch u => s.upd (fun c => c.setEng u (c.eng u).closeBatch)
  | .request n pkg rctx rten lease ask =>
    ({ s with opids := s.opids + 1 } : State).onCtx s.cid (fun c =>
      { c with permits := aput c.permits n
                 { state := 1, pkg := pkg, rctx := rctx, rten := rten, lease := lease, ask := ask, opid := s.opids % 65536 } })
  | .nxt d slot => s.upd (fun c => { c with nxts := c.nxts ++ [(d, slot, none, n + 24)], ntp := (c.ntp + 1) % 4 })
  | .salloc bytes home empty =>
    match s.salloc s.cid bytes home empty with
    | .made s2 _ _ => s2
    | _ => s
  | .touch seg => s.touch s.cid seg
  | _ => s

/-- The effects after the ring advances (R206, R207). -/
def State.applyRing (s : State) (e : Eff) : State :=
  match e with
  | .radv h n =>
    match s.core.headRing h with
    | some (q, r) => s.upd (fun c => c.setRing q (r.popN n))
    | none => s
  | .rpush t n =>
    match s.core.tailRing t with
    | some (q, r) => s.upd (fun c => c.setRing q (r.pushN n))
    | none => s
  | _ => s

/-- rbind: the latch and port leave the rings that held them (R206). -/
def CoreSt.bindRing (c : CoreSt) (q : Nat) (r : Ring) : CoreSt :=
  let c := c.rings.foldl (fun c e =>
    let x := e.2
    let x : Ring := if r.hen && x.hen && x.hl = r.hl then { x with hen := false } else x
    let x : Ring := if r.ten && x.ten && x.tp = r.tp then { x with ten := false } else x
    c.setRing e.1 x) c
  c.setRing q r

/-- nset, nstep and nbrk govern closes from the next bundle on (R161, R162, R164). -/
def State.applyNest (s : State) (e : Eff) : State :=
  match e with
  | .nset l cas body t => s.upd (fun c =>
      let lv := c.level l
      c.setLevel l (if t = 0 then { lv with arm := false }
        else { lv with arm := true, c := cas, body := body, t := t, idx := 0, last := false }))
  | .nstep l i ent => s.upd (fun c => c.setLevel l { c.level l with ents := lset (c.level l).ents i ent })
  | .nbrk l => s.upd (fun c => c.setLevel l { c.level l with last := true })
  | .rbind q r => s.upd (fun c => c.bindRing q r)
  | _ => s

/-- The POP and PUSH masks (R23). -/
def State.advance (s : State) (h : Header) : State :=
  (List.range 8).foldl (fun s i =>
    let s : State := if bit h.pop i then s.applyRing (.radv i 1) else s
    if bit h.push i then s.applyRing (.rpush i 1) else s) s

/-- A SAFE bundle with a pre-emption pending: the core stops and its save begins (R103). -/
def State.safeStop (s : State) (h : Header) : State :=
  let k := s.cur
  let s := s.onTask (fun t => t.is s.cid s.core.task.key && t.core = some k) (fun t =>
    if t.timed then { t with preempted := true, left := t.w - (s.qc - t.q), cuts := t.cuts ++ [s.qc - t.q] } else { t with preempted := true })
  s.upd (fun c => { c with run := .saving, preempt := false, safe := some (fld h.pay 24 16, fld h.pay 0 24) })

/-- E or halt (R67, R273): fetch stops, the results and stores in flight land, the task is RETIRING, unless a sys among them has
aborted it (R159). -/
def State.endTask (s : State) : State :=
  let k := s.cur
  let s := s.drain
  if s.core.run = .idle then s
  else
  let s := s.onTask (fun t => t.is s.cid s.core.task.key && t.core = some k) (fun t => { t with state := .retiring })
  (s.upd (fun c => { c with run := .retiring, ended := true, branches := [], stores := [], preempt := false })).settleCtx s.cid

/-- Everything after the checks of a bundle: its staged effects, its header effects and where fetch goes. -/
def State.endBundle (s : State) (h : Header) : State :=
  let es := s.core.staged
  let n := s.core.issued
  let pc := s.core.pc
  let s := s.upd (fun c => { c with staged := [], counted := match c.mark with
    | some _ => if c.commits then c.counted else addKeys c.counted (c.countedBy h)
    | none => c.counted })
  let s : State := if es.contains .commit then s.commit.upd (fun c => { c with markNext := true }) else s
  let s := s.applyStores es
  let s := es.foldl State.applyEff s
  let s := es.foldl State.applyRing (s.advance h)
  let s : State := if h.hk = 1 then s.upd (fun c => { c with fmtq := c.fmtq ++ [{ due := n + 4, val := h.pay }] }) else s
  let s : State := if h.hk = 2 then s.commit.upd (fun c => { c with markNext := true }) else s
  let cl := s.close h.le
  let s := es.foldl State.applyNest cl.1
  let target := (s.core.branches.find? (fun b => b.1 = n)).map (·.2)
  let next := target.getD (cl.2.getD (pc + 1))
  let ovr := h.e || es.contains .halt
  let atMark := (s.core.mark.any (fun m => m.issue = n)) && !es.contains .commit
  let s := s.upd (fun c =>
    { c with issued := n + 1, pc := next, branches := c.branches.filter (fun b => decide (n < b.1)),
             skipBrk := if c.skipBrk = some pc then none else c.skipBrk,
             stores := c.stores.filter (fun x => decide (n + 1 < x.2)) })
  -- E commits what is shadowed, so a rollback after it goes back to its bundle at most (R101, R371; log 31)
  let s : State := if ovr then (s.commit.upd (fun c => { c with pc := pc, markNext := atMark })).endTask else s
  match es.findSome? (fun e =>
    match e with
    | .trap x => some x
    | _ => none) with
  | some info => if s.core.run = .idle then s else s.takeFault { cause := .trap, info := info, bidx := some pc }
  | none => if h.hk = 2 ∧ s.core.preempt ∧ ¬ ovr then s.safeStop h else s

/-! ### Holds in front of a bundle -/

/-- Whether a gate lets the next bundle through (R253, R302, R304). -/
def CoreSt.gateOpen (c : CoreSt) (g : Gate) : Bool :=
  match g with
  | .waitb u n => decide ((c.eng u).closed.length ≤ n)
  | .bwait u id => !(c.eng u).cmds.any (fun x => x.id = id && !x.ready)
  | .drain u id => !(c.eng u).cmds.any (fun x => x.id = id)

/-- R254, R305: a waitb of a timed task would hold; its gated command was performed and its condition did not hold. -/
def CoreSt.gateStall (c : CoreSt) (g : Gate) : Option CUnit :=
  let stuck := fun (u : CUnit) (id : Nat) =>
    if (c.eng u).cmds.any (fun x => x.id = id && x.performed && !x.ready) then some u else none
  match g with
  | .waitb u _ => some u
  | .bwait u id => stuck u id
  | .drain u id => stuck u id

/-- The nxt answers due at this bundle fall into their registers (R169). -/
def CoreSt.landNxt (c : CoreSt) : CoreSt :=
  (c.nxts.filter (fun x => x.2.2.2 ≤ c.issued)).foldl (fun c x =>
    match x.2.2.1 with
    | some v => { c with nt := sset nullTile c.nt x.2.1 v, nxts := c.nxts.erase x }
    | none => c) c

/-- R110: an enabled entry that names this core, task and bundle. -/
def bpMatches (e : W64) (pc lin task : Nat) : Bool :=
  bit e 13 && fld e 0 13 = pc && (bit e 14 || fld e 16 8 = lin) && (fld e 32 32 = task || fld e 32 32 = 2 ^ 32 - 1)

def State.breaks (s : State) : Bool :=
  s.core.skipBrk ≠ some s.core.pc && s.me.bps.any (fun b => bpMatches b.2 s.core.pc s.lin s.core.task.id)

/-- Descriptors that the bundle's accesses name and the cache does not hold (R114); a timed task's are locked in. -/
def State.descOf (s : State) (idx : Nat) : DEnt :=
  let g := s.seg s.cid idx
  { cid := s.cid, idx := idx, st := g.state, base := g.base, gen := g.gen }

def State.touched (s : State) : List Nat :=
  (s.core.staged.filterMap (fun e =>
    match e with
    | .touch i => some i
    | _ => none)).eraseDups

def State.missing (s : State) : List Nat :=
  if s.core.task.timed then [] else s.touched.filter (fun i => !s.core.dcache.contains (s.descOf i))

/-- Loads descriptors, least recently used out beyond 64 (R114). -/
def State.loadDesc (s : State) (idxs : List Nat) : State :=
  idxs.foldl (fun s i =>
    let d := s.descOf i
    s.upd (fun c => { c with dcache := (d :: c.dcache.filter (fun x => !(x.cid = d.cid && x.idx = d.idx))).take 64 })) s

/-! ### The issue (R70) -/

/-- Bytes the journal of a core takes for its tenant (R274). -/
def State.journalShare (s : State) : Nat :=
  match s.partOf s.me.tenant with
  | some p => p.jshare
  | none => 0

/-- Whether the stores of the bundle would carry a committed task's journal past its share (R274). -/
def State.journalFull (s : State) : Bool :=
  let c := s.core
  c.task.cm && decide (s.journalShare < (s.layLines c.stagedLines (c.staged.foldl (fun j e =>
    match e with
    | .store g => s.layStore j g
    | .atomic seg off bs => putBytes j (s.jKey s.cid seg off) bs
    | _ => j) s.journalComing)).length)

/-- What the checks of steps 1 to 6 say of the bundle at the pc. -/
inductive Check where
  | pass
  | hold
  | fault (f : FaultInfo)
deriving DecidableEq, Repr

def firstSlot (l : List (Slot × BitVec 24)) (p : Slot × BitVec 24 → Bool) : Option Nat := (l.find? p).map (fun x => x.1.num)

/-- What holds a bundle that steps 1 to 5 have passed: gates, an answer of nxt that has not come (R169), and the ring
thresholds (R22). -/
def State.waits (s : State) (h : Header) (live : List (Slot × BitVec 24)) : Check :=
  let c := s.core
  match c.gates.find? (fun g => !c.gateOpen g) with
  | some g =>
    match c.task.timed, c.gateStall g with
    | true, some u => .fault { cause := .timedStall, unit := u.dom.num }
    | _, _ => .hold
  | none =>
    if c.nxts.any (fun x => decide (x.2.2.2 ≤ c.issued)) then .hold
    else if s.ringsReady h live then .pass
    else if c.task.timed then .fault { cause := .timedStall }
    else .hold

/-- The checks of R70 in their order. A latch or a port that only the POP or PUSH mask names is checked after all the slots of step 5, with
UNIT 0: the rule gives the masks no place (DESIGN CHOICE, log 30). -/
def State.checks (s : State) : Check :=
  let c := s.core
  let b := c.bundle c.pc
  let h := decodeHeader (headerBits b)
  let ws := liveWords b
  if 8191 < c.pc || s.headerFault h || duplicates ws then .fault { cause := .illegalBundle }
  else
    match firstSlot ws s.staticFault with
    | some k => .fault { cause := .illegalMove, unit := k }
    | none =>
      if fmtwFault h then .fault { cause := .formatUnsupported }
      else
        let live := s.guarded ws
        match firstSlot live s.dynFault with
        | some k => .fault { cause := .illegalMove, unit := k }
        | none =>
          if c.maskFault h then .fault { cause := .illegalMove } else s.waits h live

/-- A routine of the task that the core runs is under way: at the window's end the record names it (R232). -/
def CoreSt.routineOfTask (c : CoreSt) : Bool :=
  match c.mat.routine with
  | some r => r.call.cid = c.task.cid && r.call.task = c.task.key && !r.faulted
  | none => false

/-- What stands in front of the bundle, before any check of R70: the end of the window (R232), a breakpoint (R110). -/
def State.before (s : State) : Check :=
  let c := s.core
  if c.task.timed && decide (c.task.q + c.task.w ≤ s.qc) then
    (if c.routineOfTask then .hold else .fault { cause := .overrun, unit := 13 })
  else if s.breaks then .fault { cause := .brk }
  else .pass

/-- The moves of the bundle, slot 0 upward, until one raises or holds (R70 step 7). -/
def State.runSlots (run : Instr → State → State) (b : BitVec 256) (s : State) : State :=
  allSlots.foldl (fun s sl =>
    if s.core.raised.isSome || s.core.held then s
    else
      match decodeMove sl (slotWord b sl) with
      | .ok i => run i s
      | .error _ => s) s

/-- A held attempt: a cycle passes and nothing else changes, but for what the descriptor cache asks for. -/
def State.holdIssue (s : State) (fill : List Nat) : State :=
  s.upd (fun c => { c with cycle := c.cycle + 1, fill := fill })

/-- The start of an issue: what is due lands, and a due FMTW comes into force (R13, R19, R49). -/
def State.startBundle (s : State) : State :=
  let s := s.landAt s.core.issued
  s.upd (fun c =>
    let c := { c.landNxt with cycle := c.cycle + 1, gates := c.gates.filter (fun g => !c.gateOpen g), staged := [],
                              raised := none, held := false }
    let due := c.fmtq.filter (fun f => decide (f.due ≤ c.issued))
    { c with fmt := match due.getLast? with
               | some f => f.val
               | none => c.fmt,
             fmtq := c.fmtq.filter (fun f => !decide (f.due ≤ c.issued)) })

/-- A fault of the bundle: one that resumes at the mark rolls back to the mark that a K bundle takes as it begins (R101);
of any other the bundle does not execute, and K with its other header effects does not take place (R68, R102). -/
def State.faultAt (s pre : State) (f : FaultInfo) : State :=
  if f.cause.resumePoint = .mark then pre.takeFault f else s.takeFault f

/-- One attempt of the core in focus to issue the bundle at its pc. The counts of R101 and the journal's share of R274 are tested last, after
every step of R70, with UNIT 0: the rules do not place them among its steps (DESIGN CHOICE, log 30). -/
def State.issueWith (run : Instr → State → State) (s0 : State) : State :=
  if s0.core.run ≠ .running then s0
  else if !s0.core.reload.isEmpty || !s0.core.fill.isEmpty then s0.holdIssue s0.core.fill
  else
    let s := s0.startBundle
    -- a sys that lands may have ended the task (R159)
    if s.core.run ≠ .running then s
    else
    match s.before with
    | .fault f => s.takeFault f
    | .hold => s0.holdIssue []
    | .pass =>
      let s : State := if s.core.markNext then s.takeMark else s
      let b := s.core.bundle s.core.pc
      let h := decodeHeader (headerBits b)
      let pre : State := if h.k then s.takeMark else s
      match s.checks with
      | .fault f => s.faultAt pre f
      | .hold => s0.holdIssue []
      | .pass =>
        let w := pre.runSlots run b
        match w.core.raised with
        | some f => s.faultAt pre f
        | none =>
          if w.core.held then s0.holdIssue []
          else if !w.missing.isEmpty then s0.holdIssue w.missing
          else if w.core.shadowFull h then s.takeFault { cause := .illegalBundle }
          else if w.journalFull then s.takeFault { cause := .segQuota, info := 1#64 <<< 63 }
          else (w.loadDesc w.touched).endBundle h

end Sys2Proof.Machine
end

