-- ==== Sys2Proof/Machine/HazelTurns.lean ====
section
/-! DEFINITION. The turns of the Hazel unit (R114 to R119): the end of a push, a move, a recall, a retry of the
placements that wait, an uncorrectable soft error, and a descriptor that arrives at a core's cache. -/

namespace Sys2Proof.Machine

/-- What follows once a segment has changed its state: fault records that waited for their ring, tasks that wait under
AUTO (R106, R107). -/
def State.afterHazel (s : State) (cid : Nat) : State := (s.retryRecords cid).autoWake

/-- R115: a push-out completes. -/
def execPushComplete (cid seg : Nat) (s : State) : Host.Outcome State Fault Refusal :=
  .next ((s.pushDone cid seg).afterHazel cid)

/-- R115, R119: a compaction move completes, and the compaction goes on. -/
def execSegmentMoveComplete (cid seg : Nat) (s : State) : Host.Outcome State Fault Refusal :=
  .next ((s.moveDone cid seg).afterHazel cid)

/-- R118: a recall or a zero-fill completes. -/
def execRecallComplete (cid seg : Nat) (bad : Option Nat) (s : State) : Host.Outcome State Fault Refusal :=
  .next ((s.recallDone cid seg bad).afterHazel cid)

/-- The physical clusters in whose share a placement of the context waits. -/
def State.waitShares (s : State) (cid : Nat) : List Nat :=
  let c := s.ctx cid
  ((s.waitq.filter (fun w => w.1 = cid)).map (fun w => c.group.pclu (c.seg w.2).home)).eraseDups

/-- R117: the placements that wait are tried again, and victims are chosen for them. -/
def execHazelWaitRetry (cid : Nat) (s : State) : Host.Outcome State Fault Refusal :=
  .next ((s.waitShares cid).foldl (fun s p => s.pump (s.ctx cid).tenant p) s)

/-- R115: an uncorrectable soft error in a granule of a segment. -/
def execSoftError (cid seg granule : Nat) (s : State) : Host.Outcome State Fault Refusal :=
  .next (if granule < (s.seg cid seg).size then s.poisonSeg cid seg granule else s)

/-- R114: a descriptor that the core's cache waits for arrives; the held bundle issues once none is missing. -/
def execDescriptorCacheFill (seg : Nat) (s : State) : Host.Outcome State Fault Refusal :=
  .next (if s.core.fill.contains seg then
      (s.loadDesc [seg]).upd (fun c => { c with fill := c.fill.filter (· ≠ seg) })
    else s)

end Sys2Proof.Machine
end

