-- ==== Sys2Proof/Machine/Ports.lean ====
section
/-! DEFINITION. Moves that are no trigger: into registers, input files and the non-trigger ports of a domain slot
(R53, R55), and the transfers of X0 and X1 (R57). -/

namespace Sys2Proof.Machine

/-- The all-zero move (R69). -/
def execNop (s : State) : Host.Outcome State Fault Refusal := .next s

/-- A move of a domain slot into a register of its own file, or of M into m0 to m7 (R53, R55). -/
def execMove (sl : Dom) (g : Guard) (dst : DstNum) (src : Src) (s : State) : Host.Outcome State Fault Refusal :=
  match dstOf sl.slot dst.toNat with
  | some d => .next (s.moveInto sl.slot g d src)
  | none => .next (s.raiseIn sl.slot { cause := .illegalMove })

/-- A transfer (R13, R57). -/
def execTransfer (x : XUnit) (g : Guard) (dst : DstNum) (src : Src) (s : State) : Host.Outcome State Fault Refusal :=
  match dstOf x.slot dst.toNat with
  | some d => .next (s.transferInto x.slot g d src)
  | none => .next (s.raiseIn x.slot { cause := .illegalMove })

/-- Appends to input file o0 (R17). -/
def execO0Append (d : Dom) (g : Guard) (src : Src) (s : State) : Host.Outcome State Fault Refusal :=
  .next (s.moveInto d.slot g (.input d false) src)

/-- Appends to input file o1 (R17). -/
def execO1Append (d : Dom) (g : Guard) (src : Src) (s : State) : Host.Outcome State Fault Refusal :=
  .next (s.moveInto d.slot g (.input d true) src)

/-- Writes the result target latch (R18). -/
def execRtWrite (d : Dom) (g : Guard) (src : Src) (s : State) : Host.Outcome State Fault Refusal :=
  .next (s.moveInto d.slot g (.rt d) src)

/-- Writes the mask select (R55). -/
def execMkWrite (v : VUnit) (g : Guard) (src : Src) (s : State) : Host.Outcome State Fault Refusal :=
  .next (s.moveInto v.dom.slot g (.mk v) src)

/-- Writes the descriptor index (R55). -/
def execDixWrite (u : CUnit) (g : Guard) (src : Src) (s : State) : Host.Outcome State Fault Refusal :=
  .next (s.moveInto u.dom.slot g (.dix u) src)

/-- Writes d[dix] and advances dix (R55). -/
def execDwr (u : CUnit) (g : Guard) (src : Src) (s : State) : Host.Outcome State Fault Refusal :=
  .next (s.moveInto u.dom.slot g (.dwr u) src)

/-- Writes the spill word index (R57, R165). -/
def execSpx (x : XUnit) (g : Guard) (src : Src) (s : State) : Host.Outcome State Fault Refusal :=
  .next (s.transferInto x.slot g .spx src)

/-- Writes spill word spx and advances spx (R57, R165). -/
def execSpd (x : XUnit) (g : Guard) (src : Src) (s : State) : Host.Outcome State Fault Refusal :=
  .next (s.transferInto x.slot g .spd src)

end Sys2Proof.Machine
end

