-- ==== Sys2Proof/Machine/Moves.lean ====
section
/-! DEFINITION. The moves as the issue of a bundle runs them: each by its meaning, the one that `exec` calls. -/

namespace Sys2Proof.Machine

/-- The state a meaning ends in; a move that stops leaves the state alone. -/
def nextOr (s : State) (o : Host.Outcome State Fault Refusal) : State :=
  match o with
  | .next s2 => s2
  | _ => s

/-- A move of the issuing bundle; the rows that are no move do nothing here. -/
def runMove (i : Instr) (s : State) : State :=
  match i with
  | .nop => nextOr s (execNop s)
  | .move sl g dst src => nextOr s (execMove sl g dst src s)
  | .transfer x g dst src => nextOr s (execTransfer x g dst src s)
  | .o0Append d g src => nextOr s (execO0Append d g src s)
  | .o1Append d g src => nextOr s (execO1Append d g src s)
  | .rtWrite d g src => nextOr s (execRtWrite d g src s)
  | .mkWrite v g src => nextOr s (execMkWrite v g src s)
  | .dixWrite u g src => nextOr s (execDixWrite u g src s)
  | .dwr u g src => nextOr s (execDwr u g src s)
  | .spx x g src => nextOr s (execSpx x g src s)
  | .spd x g src => nextOr s (execSpd x g src s)
  | .add g src => nextOr s (execAdd g src s)
  | .sub g src => nextOr s (execSub g src s)
  | .mul g src => nextOr s (execMul g src s)
  | .mulh g src => nextOr s (execMulh g src s)
  | .mulhu g src => nextOr s (execMulhu g src s)
  | .div g src => nextOr s (execDiv g src s)
  | .divu g src => nextOr s (execDivu g src s)
  | .rem g src => nextOr s (execRem g src s)
  | .remu g src => nextOr s (execRemu g src s)
  | .and g src => nextOr s (execAnd g src s)
  | .or g src => nextOr s (execOr g src s)
  | .xor g src => nextOr s (execXor g src s)
  | .andn g src => nextOr s (execAndn g src s)
  | .orn g src => nextOr s (execOrn g src s)
  | .shl g src => nextOr s (execShl g src s)
  | .shr g src => nextOr s (execShr g src s)
  | .sra g src => nextOr s (execSra g src s)
  | .rol g src => nextOr s (execRol g src s)
  | .clz g src => nextOr s (execClz g src s)
  | .ctz g src => nextOr s (execCtz g src s)
  | .popc g src => nextOr s (execPopc g src s)
  | .min g src => nextOr s (execMin g src s)
  | .max g src => nextOr s (execMax g src s)
  | .minu g src => nextOr s (execMinu g src s)
  | .maxu g src => nextOr s (execMaxu g src s)
  | .sext8 g src => nextOr s (execSext8 g src s)
  | .sext16 g src => nextOr s (execSext16 g src s)
  | .sext32 g src => nextOr s (execSext32 g src s)
  | .zext8 g src => nextOr s (execZext8 g src s)
  | .zext16 g src => nextOr s (execZext16 g src s)
  | .zext32 g src => nextOr s (execZext32 g src s)
  | .bfx g src => nextOr s (execBfx g src s)
  | .bfi g src => nextOr s (execBfi g src s)
  | .sel g src => nextOr s (execSel g src s)
  | .pass g src => nextOr s (execPass g src s)
  | .ceq g src => nextOr s (execCeq g src s)
  | .cne g src => nextOr s (execCne g src s)
  | .clt g src => nextOr s (execClt g src s)
  | .cltu g src => nextOr s (execCltu g src s)
  | .cle g src => nextOr s (execCle g src s)
  | .cleu g src => nextOr s (execCleu g src s)
  | .ld8 g src => nextOr s (execLd8 g src s)
  | .ld16 g src => nextOr s (execLd16 g src s)
  | .ld32 g src => nextOr s (execLd32 g src s)
  | .ld64 g src => nextOr s (execLd64 g src s)
  | .ld8s g src => nextOr s (execLd8s g src s)
  | .ld16s g src => nextOr s (execLd16s g src s)
  | .ld32s g src => nextOr s (execLd32s g src s)
  | .st8 g src => nextOr s (execSt8 g src s)
  | .st16 g src => nextOr s (execSt16 g src s)
  | .st32 g src => nextOr s (execSt32 g src s)
  | .st64 g src => nextOr s (execSt64 g src s)
  | .aadd g src => nextOr s (execAadd g src s)
  | .aand g src => nextOr s (execAand g src s)
  | .aor g src => nextOr s (execAor g src s)
  | .axor g src => nextOr s (execAxor g src s)
  | .amin g src => nextOr s (execAmin g src s)
  | .amax g src => nextOr s (execAmax g src s)
  | .aminu g src => nextOr s (execAminu g src s)
  | .amaxu g src => nextOr s (execAmaxu g src s)
  | .axchg g src => nextOr s (execAxchg g src s)
  | .acas g src => nextOr s (execAcas g src s)
  | .br g src => nextOr s (execBr g src s)
  | .bra g src => nextOr s (execBra g src s)
  | .call g src => nextOr s (execCall g src s)
  | .ret g src => nextOr s (execRet g src s)
  | .trap g src => nextOr s (execTrap g src s)
  | .sysResume g src => nextOr s (execSysResume g src s)
  | .sysAbort g src => nextOr s (execSysAbort g src s)
  | .halt g src => nextOr s (execHalt g src s)
  | .nset g src => nextOr s (execNset g src s)
  | .nstep g src => nextOr s (execNstep g src s)
  | .nbrk g src => nextOr s (execNbrk g src s)
  | .sld g src => nextOr s (execSld g src s)
  | .sst g src => nextOr s (execSst g src s)
  | .srd g src => nextOr s (execSrd g src s)
  | .swr g src => nextOr s (execSwr g src s)
  | .tick g src => nextOr s (execTick g src s)
  | .enrd g src => nextOr s (execEnrd g src s)
  | .nxt g src => nextOr s (execNxt g src s)
  | .post g src => nextOr s (execPost g src s)
  | .salloc g src => nextOr s (execSalloc g src s)
  | .sfree g src => nextOr s (execSfree g src s)
  | .sstat g src => nextOr s (execSstat g src s)
  | .vadd v f g src => nextOr s (execVadd v f g src s)
  | .vsub v f g src => nextOr s (execVsub v f g src s)
  | .vmul v f g src => nextOr s (execVmul v f g src s)
  | .vmulh v f g src => nextOr s (execVmulh v f g src s)
  | .vmulhu v f g src => nextOr s (execVmulhu v f g src s)
  | .vmad v f g src => nextOr s (execVmad v f g src s)
  | .vmin v f g src => nextOr s (execVmin v f g src s)
  | .vmax v f g src => nextOr s (execVmax v f g src s)
  | .vminu v f g src => nextOr s (execVminu v f g src s)
  | .vmaxu v f g src => nextOr s (execVmaxu v f g src s)
  | .vand v f g src => nextOr s (execVand v f g src s)
  | .vor v f g src => nextOr s (execVor v f g src s)
  | .vxor v f g src => nextOr s (execVxor v f g src s)
  | .vandn v f g src => nextOr s (execVandn v f g src s)
  | .vshl v f g src => nextOr s (execVshl v f g src s)
  | .vshr v f g src => nextOr s (execVshr v f g src s)
  | .vsra v f g src => nextOr s (execVsra v f g src s)
  | .vabs v f g src => nextOr s (execVabs v f g src s)
  | .vneg v f g src => nextOr s (execVneg v f g src s)
  | .vclz v f g src => nextOr s (execVclz v f g src s)
  | .vpopc v f g src => nextOr s (execVpopc v f g src s)
  | .fadd v f g src => nextOr s (execFadd v f g src s)
  | .fsub v f g src => nextOr s (execFsub v f g src s)
  | .fmul v f g src => nextOr s (execFmul v f g src s)
  | .ffma v f g src => nextOr s (execFfma v f g src s)
  | .fnma v f g src => nextOr s (execFnma v f g src s)
  | .fmin v f g src => nextOr s (execFmin v f g src s)
  | .fmax v f g src => nextOr s (execFmax v f g src s)
  | .fabs v f g src => nextOr s (execFabs v f g src s)
  | .fneg v f g src => nextOr s (execFneg v f g src s)
  | .frcp v f g src => nextOr s (execFrcp v f g src s)
  | .frsq v f g src => nextOr s (execFrsq v f g src s)
  | .fex2 v f g src => nextOr s (execFex2 v f g src s)
  | .flg2 v f g src => nextOr s (execFlg2 v f g src s)
  | .vceq v f g src => nextOr s (execVceq v f g src s)
  | .vcne v f g src => nextOr s (execVcne v f g src s)
  | .vclt v f g src => nextOr s (execVclt v f g src s)
  | .vcle v f g src => nextOr s (execVcle v f g src s)
  | .fceq v f g src => nextOr s (execFceq v f g src s)
  | .fclt v f g src => nextOr s (execFclt v f g src s)
  | .fcle v f g src => nextOr s (execFcle v f g src s)
  | .funord v f g src => nextOr s (execFunord v f g src s)
  | .rsum v f g src => nextOr s (execRsum v f g src s)
  | .rmax v f g src => nextOr s (execRmax v f g src s)
  | .rmin v f g src => nextOr s (execRmin v f g src s)
  | .scan v f g src => nextOr s (execScan v f g src s)
  | .vsel v g src => nextOr s (execVsel v g src s)
  | .vmerge v g src => nextOr s (execVmerge v g src s)
  | .cvt v g src => nextOr s (execCvt v g src s)
  | .qnt v g src => nextOr s (execQnt v g src s)
  | .dqt v g src => nextOr s (execDqt v g src s)
  | .vAmax v g src => nextOr s (execVAmax v g src s)
  | .pack v g src => nextOr s (execPack v g src s)
  | .unpack v g src => nextOr s (execUnpack v g src s)
  | .vrot v g src => nextOr s (execVrot v g src s)
  | .vbcast v g src => nextOr s (execVbcast v g src s)
  | .vext v g src => nextOr s (execVext v g src s)
  | .vins v g src => nextOr s (execVins v g src s)
  | .vld v g src => nextOr s (execVld v g src s)
  | .vst v g src => nextOr s (execVst v g src s)
  | .vlds v g src => nextOr s (execVlds v g src s)
  | .vsts v g src => nextOr s (execVsts v g src s)
  | .vgth v g src => nextOr s (execVgth v g src s)
  | .vsct v g src => nextOr s (execVsct v g src s)
  | .vsld v g src => nextOr s (execVsld v g src s)
  | .vsst v g src => nextOr s (execVsst v g src s)
  | .pload v g src => nextOr s (execPload v g src s)
  | .pstore v g src => nextOr s (execPstore v g src s)
  | .pcomp v g src => nextOr s (execPcomp v g src s)
  | .pinv v g src => nextOr s (execPinv v g src s)
  | .prand v g src => nextOr s (execPrand v g src s)
  | .pid v g src => nextOr s (execPid v g src s)
  | .ppow v g src => nextOr s (execPpow v g src s)
  | .papply v g src => nextOr s (execPapply v g src s)
  | .pcyc v g src => nextOr s (execPcyc v g src s)
  | .pfix v g src => nextOr s (execPfix v g src s)
  | .porder v g src => nextOr s (execPorder v g src s)
  | .mand v g src => nextOr s (execMand v g src s)
  | .mor v g src => nextOr s (execMor v g src s)
  | .mxor v g src => nextOr s (execMxor v g src s)
  | .mnot v g src => nextOr s (execMnot v g src s)
  | .mcnt v g src => nextOr s (execMcnt v g src s)
  | .mfirst v g src => nextOr s (execMfirst v g src s)
  | .radv v g src => nextOr s (execRadv v g src s)
  | .rpush v g src => nextOr s (execRpush v g src s)
  | .rbind v g src => nextOr s (execRbind v g src s)
  | .rlvl v g src => nextOr s (execRlvl v g src s)
  | .mCall g src => nextOr s (execMCall g src s)
  | .mload g src => nextOr s (execMload g src s)
  | .bload g src => nextOr s (execBload g src s)
  | .bswap g src => nextOr s (execBswap g src s)
  | .accz g src => nextOr s (execAccz g src s)
  | .accrel g src => nextOr s (execAccrel g src s)
  | .mstat g src => nextOr s (execMstat g src s)
  | .cpy u g src => nextOr s (execCpy u g src s)
  | .cpyp u g src => nextOr s (execCpyp u g src s)
  | .gth u g src => nextOr s (execGth u g src s)
  | .grd u g src => nextOr s (execGrd u g src s)
  | .sct u g src => nextOr s (execSct u g src s)
  | .mcast u g src => nextOr s (execMcast u g src s)
  | .tatom u g src => nextOr s (execTatom u g src s)
  | .topk u g src => nextOr s (execTopk u g src s)
  | .cSub u g src => nextOr s (execCSub u g src s)
  | .unsub u g src => nextOr s (execUnsub u g src s)
  | .stouch u g src => nextOr s (execStouch u g src s)
  | .spush u g src => nextOr s (execSpush u g src s)
  | .bclose u g src => nextOr s (execBclose u g src s)
  | .waitb u g src => nextOr s (execWaitb u g src s)
  | .tstat u g src => nextOr s (execTstat u g src s)
  | .rtcfg u g src => nextOr s (execRtcfg u g src s)
  | .rtgo u g src => nextOr s (execRtgo u g src s)
  | .rtstat u g src => nextOr s (execRtstat u g src s)
  | .rtinv u g src => nextOr s (execRtinv u g src s)
  | .rtfree u g src => nextOr s (execRtfree u g src s)
  | .lsend u g src => nextOr s (execLsend u g src s)
  | .lrecv u g src => nextOr s (execLrecv u g src s)
  | .lred u g src => nextOr s (execLred u g src s)
  | .coll u g src => nextOr s (execColl u g src s)
  | .pmget u g src => nextOr s (execPmget u g src s)
  | .pmret u g src => nextOr s (execPmret u g src s)
  | .arrive u g src => nextOr s (execArrive u g src s)
  | .expect u g src => nextOr s (execExpect u g src s)
  | .bwait u g src => nextOr s (execBwait u g src s)
  | .depset u g src => nextOr s (execDepset u g src s)
  | .depdec u g src => nextOr s (execDepdec u g src s)
  | .drainC u g src => nextOr s (execDrainC u g src s)
  | .drainD u g src => nextOr s (execDrainD u g src s)
  | .drainP u g src => nextOr s (execDrainP u g src s)
  | .drainF u g src => nextOr s (execDrainF u g src s)
  | .fence u g src => nextOr s (execFence u g src s)
  | .bkseg u g src => nextOr s (execBkseg u g src s)
  | .bkwin u g src => nextOr s (execBkwin u g src s)
  | .bklink u g src => nextOr s (execBklink u g src s)
  | .tsub u g src => nextOr s (execTsub u g src s)
  | .calq u g src => nextOr s (execCalq u g src s)
  | _ => s

end Sys2Proof.Machine
end

