-- ==== Sys2Proof/Machine/Issue.lean ====
section
/-! DEFINITION. The issue of a bundle with the meanings of its moves (R70). -/

namespace Sys2Proof.Machine

/-- One attempt of the core in focus to issue the bundle at its pc (R70). -/
def execBundleIssue (s : State) : Host.Outcome State Fault Refusal := .next (s.issueWith runMove)

end Sys2Proof.Machine
end

