-- ==== Sys2Proof/Machine/Loader.lean ====
section
/-! DEFINITION. The checks of efld (R272): lists and books whole; the checks along the paths of the text, each path followed bundle by
bundle through branches, calls, loops and guards as far as the text says where control goes. What the text does not say is open (log 7). -/

namespace Sys2Proof.Machine

/-! ### Lists and books (R40, R104) -/

/-- An entry of a live-state list that efld takes (R104, R272): KIND 0 to 13 inside its range, or the end entry. -/
def lslOk (e : W32) : Bool :=
  let kind := fld e 28 4
  let count := fld e 0 14
  let limit := [320, 320, 64, 16, 16, 64, 256, 8, 2, 2048, 32, 32, 8, 1].getD kind 0
  (kind = 15 && fld e 0 28 = 0) || (1 ≤ count && decide (fld e 14 14 + count ≤ limit))

/-- The book entries and pins of a task obey R40. -/
def taskBooksOk (d : TaskDecl) : Bool :=
  decide (d.books.length ≤ 16) && decide (d.pins.length ≤ 16) && (d.timed || (d.books.isEmpty && d.pins.isEmpty)) &&
  d.books.all (fun b => decide (bookRes b < 8) && decide (bookStart b + bookLen b ≤ d.window))

def listsOk (img : Image) : Bool :=
  img.lists.all (fun l => decide ((l.2.filter (fun e => fld e 28 4 ≠ 15)).length ≤ 64) && l.2.all lslOk) && img.tasks.all taskBooksOk

/-! ### What a bundle shows -/

/-- The triggers of a bundle, whatever their guards: the text allows each to be taken. -/
def triggersOf (b : BitVec 256) : List (Dom × Nat) := (liveWords b).filterMap trigOf

/-- Whether every move of a bundle that a test names is made whatever the guards hold. -/
def always (p : Dom × Nat → Bool) (b : BitVec 256) : Bool :=
  (liveWords b).any (fun w => moveG w.2 = 0 && (match trigOf w with
    | some t => p t
    | none => false))

/-- A trigger that commits the restart shadow (R101, R157, R203, R264). -/
def commitsAt (b : BitVec 256) : Bool :=
  let h := decodeHeader (headerBits b)
  h.e || h.sp || always (fun t =>
    match t.1 with
    | .m | .c0 | .c1 => true
    | .s => (52 ≤ t.2 && decide (t.2 ≤ 61)) || (78 ≤ t.2 && decide (t.2 ≤ 81))
    | _ => 204 ≤ t.2 && decide (t.2 ≤ 210)) b

/-- The registers a bundle's moves name as destinations, and the stores it triggers. -/
def registersOf (b : BitVec 256) : List Nat :=
  ((liveWords b).map (fun w => (moveDst w.2).toNat)).filter (fun d => decide (d < 704) && d ≠ 0 && d ≠ 320 && d ≠ 640)

def storesOf (b : BitVec 256) : Nat :=
  ((triggersOf b).filter (fun t =>
    match t.1 with
    | .s => 48 ≤ t.2 && decide (t.2 ≤ 51)
    | .v0 | .v1 => t.2 = 197 || t.2 = 199 || t.2 = 201
    | _ => false)).length

/-- An operation that a timed task may not hold. -/
def untimed (t : Dom × Nat) : Bool :=
  match t.1 with
  | .s => t.2 = 78 || t.2 = 80 || t.2 = 81
  | .c0 | .c1 => t.2 = 8 || t.2 = 9 || t.2 = 11
  | _ => false

/-! ### Paths -/

/-- What the paths from an entry show: every check holds, one fails, or the text leaves it open. -/
inductive Verdict where
  | holds
  | opens
  | fails (f : LoadFail)
deriving DecidableEq, Repr

/-- The first failure stands; else what is open stays open. -/
def Verdict.join (v w : Verdict) : Verdict :=
  match v, w with
  | .fails f, _ => .fails f
  | .opens, .fails f => .fails f
  | .opens, _ => .opens
  | .holds, w => w

/-- A path up to a bundle: nest levels, branches not yet taken with the bundles they still wait for, bundles since the entry or the last
safe point, registers and stores since the mark, an M trigger that no wait has followed, a copy before, whether a check has been left
open, and the bundles behind. -/
structure PathSt where
  pc     : Nat
  levels : List (Nat × NestLevel) := []
  pend   : List (Nat × Nat) := []
  since  : Nat := 0
  regs   : List Nat := []
  stores : Nat := 0
  busy   : Bool := false
  copies : Bool := false
  opened : Bool := false
  trail  : List Nat := []

/-- The close of a level (R163); none where it is not armed, which faults. -/
def closePath : Nat → List (Nat × NestLevel) → Nat → Option (List (Nat × NestLevel) × Option Nat)
  | 0, ls, _ => some (ls, none)
  | n + 1, ls, l =>
    let lv := sget {} ls l
    if !lv.arm then none
    else if decide (lv.idx + 1 < lv.t) && !lv.last then some (sset {} ls l { lv with idx := lv.idx + 1 }, some lv.body)
    else
      let ls := sset {} ls l { lv with idx := 0, last := false }
      if lv.c && decide (1 < l) && (sget {} ls (l - 1)).arm then closePath n ls (l - 1) else some (ls, none)

/-- Where the S trigger of a bundle sends control: on, to a branch target, to an end, to a level's new state, or where the text does not
say. -/
inductive Way where
  | on
  | branch (t : Nat)
  | ends
  | nest (l : Nat) (f : NestLevel → NestLevel)
  | unknown

/-- The value of a scalar source that the text holds: an immediate, or a payload that efld does not fill. -/
def textValue (img : Image) (i : Nat) (b : BitVec 256) (src : Src) : Option W64 :=
  match srcKind .s src with
  | some (.imm v) => some v
  | some .limm => if img.fixes.any (fun f => f.bundle = i) then none else some ((decodeHeader (headerBits b)).pay.signExtend 64)
  | _ => none

/-- A branch to a bundle of the store; one outside it faults (R158). -/
def wayTo (t : Int) : Way := if 0 ≤ t ∧ t < 8192 then .branch t.toNat else .ends

/-- What a control trigger does (R158, R161, R164). -/
def wayOf (op i : Nat) (v : Option W64) : Way :=
  match op, v with
  | 62, some v => wayTo (i + v.toInt)
  | 63, some v => wayTo v.toInt
  | 64, some v => wayTo v.toInt
  | 68, _ => .ends
  | 69, some v =>
    .nest (fld v 0 3) (fun lv =>
      if fld v 32 32 = 0 then { lv with arm := false }
      else { lv with arm := true, c := bit v 3, body := fld v 16 13, t := fld v 32 32, idx := 0, last := false })
  | 71, some v => .nest (fld v 0 3) (fun lv => { lv with last := true })
  | 62, none | 63, none | 64, none | 65, _ | 69, none | 71, none => .unknown
  | _, _ => .on

/-- The ways on from a bundle: a guarded trigger may be taken or not. -/
def waysOf (img : Image) (i : Nat) (b : BitVec 256) : List Way :=
  match (liveWords b).find? (fun w => w.1 = .s) with
  | none => [.on]
  | some w =>
    match trigOf w with
    | none => [.on]
    | some t =>
      let way := wayOf t.2 i (textValue img i b (moveSrc w.2))
      if moveG w.2 = 0 then [way] else [.on, way]

/-- A bwait or a waitb of a bundle. -/
def waitsIn (b : BitVec 256) : Bool := (triggersOf b).any (fun t => (t.1 = .c0 || t.1 = .c1) && (t.2 = 13 || t.2 = 28))

/-- The counts of the restart shadow at a bundle, before a commit there. -/
def PathSt.shadowAt (x : PathSt) (b : BitVec 256) : List Nat × Nat :=
  let fresh := bit (headerBits b) 62
  (((if fresh then [] else x.regs) ++ registersOf b).eraseDups, (if fresh then 0 else x.stores) + storesOf b)

/-- The check of R272, by its place in the table, that a path fails at its next bundle. -/
def PathSt.failsAt (x : PathSt) (img : Image) (task : Option TaskDecl) (b : BitVec 256) : Option Nat :=
  let h := decodeHeader (headerBits b)
  let sh := x.shadowAt b
  let named := img.fixes.filter (fun f => f.bundle = x.pc && !f.tensor)
  let large := fun (q : Nat) => named.any (fun f => decide (q < ((img.segs[f.idx]?).map (·.size)).getD 0))
  if !h.sp && !h.e && decide (16384 < x.since + 1) then some 0
  else if x.busy && h.sp then some 1
  else if 64 < sh.1.length ∨ 128 < sh.2 then some 2
  else if task.any (fun d => d.timed && ((triggersOf b).any untimed || (waitsIn b && !x.copies))) then some 3
  else if task.any (fun d => d.timed && named.any (fun f => !d.pins.contains f.idx)) || img.quota.any large then some 4
  else none

/-- What a bundle that issues adds to a path. A wait that follows an M trigger, a wait of a timed task, and a post of a timed task in a group of
several clusters leave open whether what opens the wait, or the cluster, is as the table asks. -/
def PathSt.count (x : PathSt) (img : Image) (task : Option TaskDecl) (b : BitVec 256) : PathSt :=
  let h := decodeHeader (headerBits b)
  let sh := x.shadowAt b
  let ts := triggersOf b
  let timed := task.any (·.timed)
  let posts := ts.any (fun t => t.1 = .s && t.2 = 79) && decide (1 < img.gridD * img.gridC)
  { x with since := if h.sp then 0 else x.since + 1,
           regs := if commitsAt b then [] else sh.1, stores := if commitsAt b then 0 else sh.2,
           busy := !waitsIn b && (x.busy || ts.any (fun t => t.1 = .m && t.2 ≠ 6)),
           copies := x.copies || ts.any (fun t => (t.1 = .c0 || t.1 = .c1) && decide (t.2 ≤ 5)),
           opened := x.opened || (waitsIn b && (x.busy || timed)) || (timed && posts),
           trail := x.pc :: x.trail }

/-- The path after a bundle and a way on from it: delay bundles, the level it closes, what its trigger sets from the next bundle on (R67,
R161, R163); none where the bundle faults. -/
def PathSt.goOn (x : PathSt) (le : Nat) (w : Way) : Option PathSt :=
  (if le = 0 then some (x.levels, none) else closePath 6 x.levels le).bind (fun cl =>
    let taken := (x.pend.find? (fun p => p.1 = 1)).map (·.2)
    let pend := (x.pend.filter (fun p => p.1 ≠ 1)).map (fun p => (p.1 - 1, p.2))
    let y := { x with pc := taken.getD (cl.2.getD (x.pc + 1)), levels := cl.1, pend := pend }
    match w with
    | .branch t => some { y with pend := pend ++ [(2, t)] }
    | .nest l f => if l = 0 ∨ l = 7 then none else some { y with levels := sset {} cl.1 l (f (sget {} cl.1 l)) }
    | _ => some y)

/-- A path that has ended: its checks held, or one was left open. -/
def PathSt.ends (x : PathSt) : Verdict := if x.opened then .opens else .holds

/-- Every path of up to n bundles. -/
def walk (img : Image) (task : Option TaskDecl) : Nat → PathSt → Verdict
  | 0, _ => .opens
  | n + 1, x =>
    match alook img.bundles x.pc with
    | none => x.ends
    | some b =>
      match x.failsAt img task b with
      | some check => .fails { check := check, bundle := x.pc, path := (x.pc :: x.trail).reverse }
      | none =>
        let y := x.count img task b
        let h := decodeHeader (headerBits b)
        if h.e then y.ends
        else (waysOf img x.pc b).foldl (fun v w => v.join (match w with
          | .ends => y.ends
          | .unknown => .opens
          | w => match y.goOn h.le w with
            | none => y.ends
            | some z => walk img task n z)) .holds

/-- What the paths from every entry show; no path is longer than a task can issue bundles. -/
def pathVerdict (img : Image) : Verdict :=
  ((img.entry, none) :: img.tasks.map (fun d => (d.entry, some d))).foldl
    (fun v e => v.join (walk img e.2 (2 ^ 64) { pc := e.1 })) .holds

/-! ### The first failure -/

/-- From bundle i on, the text is bundles without moves and header fields up to one that has E alone. -/
def idleFrom (code : List (Nat × BitVec 256)) : Nat → Nat → Bool
  | 0, _ => false
  | n + 1, i =>
    match alook code i with
    | some b => if b = 0 then idleFrom code n (i + 1) else b = 1#256 <<< 255
    | none => false

/-- A text whose every path only passes time: the checks of R272 along its paths hold. -/
def idleText (img : Image) : Bool := (img.entry :: img.tasks.map (·.entry)).all (idleFrom img.bundles 8192)

/-- The first failure that efld finds in an image (R272): on a path from an entry, in its lists and books, or, where the text leaves a check
open, as the loader finds it (log 7). -/
def imageFailure (img : Image) : Option LoadFail :=
  let lists : LoadFail := { check := 5, bundle := 0, path := [] }
  if idleText img then (if listsOk img then none else some lists)
  else
    match pathVerdict img with
    | .fails f => some f
    | v =>
      if !listsOk img then some lists
      else if v = .holds ∨ Config.loaderAccepts img then none
      else some { check := (Config.loaderFailure img).1 % 5, bundle := (Config.loaderFailure img).2.1, path := (Config.loaderFailure img).2.2 }

end Sys2Proof.Machine
end

