-- ==== Sys2Proof/Machine/Queue.lean ====
section
/-! DEFINITION. The queues (12_queue): package queues and their dispatcher (R257, R258, R263), the cluster dispatcher (R260 to
R262), tile dispensers (R264), and a task's retirement (R273, R274). -/

namespace Sys2Proof.Machine

/-! ### Package queues (R257, R258, R263) -/

/-- The context of a host card: the one of the tenant whose group the card names. -/
def State.hostCtx (s : State) (tenant group : Nat) : Option (Nat × Ctx) :=
  s.ctxs.find? (fun c => c.2.tenant = tenant && c.2.kgroup && c.2.group.num = group)

def State.pqueue (s : State) (tenant queue : Nat) : List (BitVec 512 × Nat) := (alook s.pqueues (tenant * 16 + queue)).getD []

/-- R257 on a host card: the context it is for, or none when it is refused. -/
def State.hostCard (s : State) (tenant : Nat) (k : Card) : Option Nat :=
  match s.hostCtx tenant k.group with
  | some c => if !c.2.group.hasClu k.tclu || c.2.cardRefused k.tclu k then none else some c.1
  | none => none

/-- QPUSH (R258, R263). -/
def execQpush (tenant queue : Nat) (card : BitVec 512) (s : State) : Host.Outcome State Fault Refusal :=
  s.commandOf (some tenant) (fun s =>
    if 16 ≤ tenant ∨ 16 ≤ queue then s.answer .refused
    else if !s.qopen.contains tenant then s.answer .full
    else
      match s.hostCard tenant (decodeCard card) with
      | none => s.answer .refused
      | some cid =>
        let l := s.pqueue tenant queue
        -- the queue of a context that is being destroyed flushes (R263)
        if 4096 ≤ l.length ∨ (s.ctx cid).state = .draining then s.answer .full
        else { s with pqueues := aput s.pqueues (tenant * 16 + queue) (l ++ [(card, cid)]) }.answer .done)

/-- Whether the head of a package queue can go on: its context is not stopped, and its level has a slot (R258, R263); a card
whose group is gone goes on to be refused. -/
def State.headMoves (s : State) (tenant queue : Nat) : Option (Nat × Card) :=
  match s.pqueue tenant queue with
  | [] => none
  | (w, cid) :: _ =>
    let k := decodeCard w
    let x := s.ctx cid
    if !x.kgroup || x.serves && !s.levelFull tenant (x.group.pclu k.tclu) (min k.prio x.pcap) then some (cid, k) else none

/-- The package dispatcher takes one card, round robin over the queues of a tenant (R258). -/
def execPackageForward (tenant : Nat) (s : State) : Host.Outcome State Fault Refusal :=
  let from_ := (alook s.pqnext tenant).getD 0
  match ((List.range 16).map (fun i => (from_ + i) % 16)).findSome? (fun q => (s.headMoves tenant q).map (fun h => (q, h))) with
  | some (q, cid, k) =>
    let s := { s with pqueues := aput s.pqueues (tenant * 16 + q) ((s.pqueue tenant q).drop 1), pqnext := aput s.pqnext tenant ((q + 1) % 16) }
    .next ((s.offer cid k.tclu k).1.settleCtx cid)
  | none => .next s

/-! ### The dependence counter of a card (R260) -/

/-- Reads DEPID of a card that has entered a cluster queue. -/
def State.depRead (s : State) (t : Task) : State :=
  match s.readTcb t with
  | .ok s k _ => (s.onTask t.same (fun x => { x with depRead := true, depCell := some k.depid })).refreshReady
  | .wait s => s
  | .bad => s.rejectCard t 0 11

/-- Of cards with one TASK, one that waits for its control block holds none of the others. -/
def execDepidRead (cid task : Nat) (s : State) : Host.Outcome State Fault Refusal :=
  .next ((s.tasks.filter (fun t => t.named cid task && t.state = .posted && !t.depRead)).foldl State.depRead s)

/-! ### The choice (R261) -/

/-- The bin of a card. -/
def Task.bin (t : Task) : Nat := (nfld t.lkey 0 4) ^^^ (nfld t.lkey 4 4) ^^^ (nfld t.lkey 8 4) ^^^ (nfld t.lkey 12 4)

def binKey (clu tenant level : Nat) : Nat := (clu * 16 + tenant) * 32 + level

/-- The current bin of a level and the dispatches it has run. -/
def State.binOf (s : State) (clu tenant level : Nat) : Nat × Nat := (alook s.bins (binKey clu tenant level)).getD (0, 0)

/-- Ready order, ties to the lowest TASK. -/
def readyBefore (a b : Task) : Bool := decide (a.readyAt < b.readyAt) || (a.readyAt = b.readyAt && decide (a.id < b.id))

/-- The ready cards of a level in the order in which the choice meets them. -/
def State.levelOrder (s : State) (clu tenant level : Nat) (ts : List Task) : List Task :=
  let l := ts.filter (fun t => t.prio = level)
  let b := s.binOf clu tenant level
  let stay := b.2 < 64 && l.any (fun t => t.bin = b.1)
  let bins := (List.range 16).map (fun i => (b.1 + (if stay then i else i + 1)) % 16)
  bins.flatMap (fun b => sortBy readyBefore (l.filter (fun t => t.bin = b)))

/-- The ready cards of a tenant in a physical cluster, level 31 first. -/
def State.cardOrder (s : State) (clu tenant : Nat) : List Task :=
  let ts := s.tasks.filter (fun t =>
    let x := s.ctx t.cid
    t.state = .ready && x.tenant = tenant && x.group.pclu t.clu = clu && s.mayRun t && !(s.reduced && t.timed))
  (List.range 32).flatMap (fun i => s.levelOrder clu tenant (31 - i) ts)

/-- A card of a bin has been chosen. -/
def State.binTake (s : State) (clu tenant : Nat) (t : Task) : State :=
  let b := s.binOf clu tenant t.prio
  let n := if t.bin = b.1 ∧ b.2 < 64 then b.2 + 1 else 1
  { s with bins := aput s.bins (binKey clu tenant t.prio) (t.bin, n) }

/-- A core that can take an elastic card of a context: no task holds it, none retires on it, nothing is booked on it, and no
other context has it (R94, R273, R278). -/
def State.freeCore (s : State) (cid k : Nat) : Bool :=
  !s.heldByOther k cid && (s.getCore k).run = .idle && s.tasks.all (fun t => !(t.core = some k && t.state = .retiring)) &&
    s.bookings.all (fun b => b.core ≠ k || decide (b.hi < s.qc))

/-- The core an elastic card goes to; one whose state is latched goes on where it is. -/
def State.coreFor (s : State) (t : Task) : Option Nat :=
  match t.resume, t.snap, t.core with
  | true, none, some k => some k
  | _, _, _ => (((s.ctx t.cid).group.allowed t.clu t.cmask t.stage).map (·.1)).find? (s.freeCore t.cid)

/-- Tasks in the pending list of a physical cluster. -/
def State.pendingIn (s : State) (clu : Nat) : Nat :=
  (s.tasks.filter (fun t => t.state = .pending && (s.ctx t.cid).group.pclu t.clu = clu)).length

/-- A chosen timed card enters the pending list (R283). -/
def State.toPending (s : State) (t : Task) (k : Tcb) : State :=
  s.onTask t.same (fun y => { y with state := .pending, tcb := k, dropped := false })

/-- Tries the cards in order until one is chosen (R261, R271). -/
def State.dispatchGo (clu tenant : Nat) : List Task → State → State
  | [], s => s
  | t :: l, s =>
    let place : Option (Option Nat) := if t.timed then (if s.pendingIn clu < 64 then some none else none) else (s.coreFor t).map some
    match place with
    | none => State.dispatchGo clu tenant l s
    | some core =>
      let go := fun (s : State) (k : Tcb) =>
        match core with
        | some c => s.runTask c { t with tcb := k }
        | none => s.toPending t k
      if t.resume then go (s.binTake clu tenant t) t.tcb
      else
        match s.readTcb t with
        | .ok s k code =>
          let s := s.binTake clu tenant t
          if code = 0 then go s k else s.rejectCard t k.entry code
        | .wait s => State.dispatchGo clu tenant l s
        | .bad => (s.binTake clu tenant t).rejectCard t 0 11

/-- A cluster that serves: in SERVICE, or in reduced service once it has passed its test (R355, R356). -/
def State.cluServes (s : State) (clu : Nat) : Bool := s.serving && (alook s.cstate clu).getD 0 = 2

/-- The dispatcher of a cluster serves a tenant once (R261). -/
def execDispatch (clu tenant : Nat) (s : State) : Host.Outcome State Fault Refusal :=
  if Config.clusters ≤ clu then .fault .noSuchUnit
  else .next (if s.cluServes clu then State.dispatchGo clu tenant (s.cardOrder clu tenant) s else s)

/-! ### Dispensers (R264) -/

/-- The answer to the next request of a dispenser, and the dispenser after it. -/
def Ctx.serveNext (c : Ctx) (disp : Nat) : W64 × Ctx :=
  match c.disp.find? (fun d => d.1 = disp) with
  | some (_, i, count, width) =>
    if i < count then
      (BitVec.ofNat 64 ((i / width) * 2 ^ 32 + i % width),
        { c with disp := c.disp.map (fun (d : Nat × Nat × Nat × Nat) => if d.1 = disp then (disp, i + 1, count, width) else d) })
    else (nullTile, c)
  | none => (nullTile, c)

/-- A dispenser answers the oldest request of the core in focus. -/
def execDispenserServe (cid disp : Nat) (s : State) : Host.Outcome State Fault Refusal :=
  if s.cid ≠ cid then .next s
  else
    match s.core.nxts.find? (fun n => n.1 = disp && n.2.2.1.isNone) with
    | some n =>
      let r := s.me.serveNext disp
      .next ((s.onCtx cid (fun _ => r.2)).upd (fun c =>
        { c with nxts := updFirst (fun (x : Nat × Nat × Option W64 × Nat) => x = n)
                   (fun (x : Nat × Nat × Option W64 × Nat) => (x.1, x.2.1, some r.1, x.2.2.2)) c.nxts }))
    | none => .next s

/-- DSPCFG. -/
def execDspcfg (cid disp count width : Nat) (s : State) : Host.Outcome State Fault Refusal :=
  s.commandOf (s.tenantOf cid) (fun s =>
    if !(s.ctx cid).kgroup || decide (16 ≤ disp) || decide (2 ^ 32 ≤ count) || width = 0 || decide (2 ^ 16 < width) then s.answer .refused
    else (s.onCtx cid (fun c => { c with disp := (disp, 0, count, width) :: c.disp.filter (fun d => d.1 ≠ disp) })).answer .done)

/-! ### Retirement (R273, R274) -/

/-- A byte of a journal goes where it was written to; of a segment freed since, nowhere (R126). -/
def State.commitByte (cid : Nat) (s : State) (e : Nat × Byte) : State :=
  let a := e.1 - 2 ^ 64
  let idx := a / 2 ^ 25 % 4096
  if e.1 < 2 ^ 64 then State.tensorWrite (e.1 / 2 ^ 48) s (e.1 % 2 ^ 48) [e.2]
  else if (s.seg cid idx).life = a / 2 ^ 37 then s.segWrite cid idx (a % 2 ^ 25) [e.2]
  else s

def CoreSt.jsigsOf (c : CoreSt) (cid id : Nat) : List Signal :=
  if c.runs cid id then c.jsigs
  else
    match c.oldj.find? (fun x => x.1 = (cid, id)) with
    | some x => x.2.2
    | none => []

/-- A deferred tsub of committed mode (R291). -/
def Cmd.deferred (x : Cmd) : Bool := x.op = 39 && x.cm

/-- The journal commits atomically, and the offers that wait for it go out. -/
def State.commitJournal (s : State) (k cid id : Nat) : State :=
  let c := s.getCore k
  let s := (c.journalOf cid id).foldl (State.commitByte cid) s
  let s := { s with signals := s.signals ++ (c.jsigsOf cid id).map (fun (x : Signal) => { x with at_ := c.issued, sent := s.turns }) }
  let free := fun (e : CEngine) => { e with cmds := e.cmds.map (fun (x : Cmd) => if x.cid = cid && x.task = id && x.deferred then { x with cm := false } else x) }
  s.onCore k (fun c =>
    let c := { c with eng0 := free c.eng0, eng1 := free c.eng1, oldj := c.oldj.filter (fun x => x.1 ≠ (cid, id)) }
    if c.runs cid id then { c with journal := [], jsigs := [] } else c)

/-- The engines' work of a task on a core: its commands, and whether it has anything else. -/
def CoreSt.workOf (c : CoreSt) (cid id : Nat) : List Cmd × Bool :=
  ((c.eng0.cmds ++ c.eng1.cmds).filter (fun x => x.cid = cid && x.task = id),
    (c.eng0.subs ++ c.eng1.subs).any (fun x => x.2.cid = cid && x.2.task = id) ||
      c.mat.queue.any (fun x => x.cid = cid && x.task = id) ||
      (match c.mat.routine with
       | some r => r.call.cid = cid && r.call.task = id
       | none => false))

/-- A task whose work is done retires: its core is free, its pins and bookings are released, its successors decremented in
SUCC order. -/
def State.retire (s : State) (k : Nat) (t : Task) : State :=
  let s := s.onCore k (fun c =>
    if c.runs t.cid t.key && c.run = .retiring then { c.freed with mat := { c.mat with warm := false } } else c)
  let s : State := if t.pinned then s.dropPins t.cid t.pinIdx else s
  let s := s.dropTask t.same
  let s := { s with lateBooks := s.lateBooks ++ (t.lateBook s.qc).map (fun b => ((s.ctx t.cid).tenant, b)) }
  let s := t.tcb.succ.foldl (fun s x => s.sendDec t.cid x.2 x.1 t.clu) s
  s.settleCtx t.cid

def State.mayRetire (s : State) (t : Task) : Bool :=
  match t.core with
  | some k => let w := (s.getCore k).workOf t.cid t.key
              !w.2 && w.1.all Cmd.deferred
  | none => false

def execTaskRetire (cid task : Nat) (s : State) : Host.Outcome State Fault Refusal :=
  match s.tasks.find? (fun t => t.named cid task && t.state = .retiring && s.mayRetire t) with
  | some t =>
    match t.core with
    | some k =>
      let w := (s.getCore k).workOf cid t.key
      let s := s.commitJournal k cid t.key
      .next (if w.1.isEmpty then s.retire k t else s)
    | none => .next s
  | none => .next s

end Sys2Proof.Machine
end

