-- ==== Sys2Proof/Machine/Kernel.lean ====
section
/-! DEFINITION. Kernels (13_kernel): the group a load binds (R275), what a load lays down (R42, R267, R268, R293, R295), launch
(R269) and unload. -/

namespace Sys2Proof.Machine

/-! ### The group (R275) -/

/-- The partition's cores in a physical cluster, ascending. -/
def Partition.coresIn (p : Partition) (pclu : Nat) : List Nat := ((List.range 4).map (· + 4 * pclu)).filter (fun k => p.cores.contains k)

/-- The clusters of a die that hold at least k cores of the partition. -/
def Partition.clustersIn (p : Partition) (die k : Nat) : List Nat :=
  ((List.range 16).map (· + 16 * die)).filter (fun c => decide (k ≤ (p.coresIn c).length))

/-- (linear logical index, physical core) of a D × C × K group, or none. -/
def Partition.bindGroup (p : Partition) (d c k : Nat) : Option (List (Nat × Nat)) :=
  let dies := ((List.range 4).filter (fun j => decide (c ≤ (p.clustersIn j k).length))).take d
  if dies.length < d then none
  else some (dies.zipIdx.flatMap (fun j => ((p.clustersIn j.1 k).take c).zipIdx.flatMap (fun l =>
    ((p.coresIn l.1).take k).zipIdx.map (fun m => (j.2 * 64 + l.2 * 4 + m.2, m.1)))))

/-- A group number no other group of the tenant has; which one is open (log 5). -/
def State.groupNum (s : State) (tenant : Nat) : Nat :=
  let used := (s.ctxs.filter (fun c => c.2.tenant = tenant && c.2.kgroup)).map (fun c => c.2.group.num)
  let h := Config.freeNat s.fresh % 65536
  if used.contains h then ((List.range 65536).find? (fun n => !used.contains n)).getD 0 else h

/-- Whether the cells of the contexts fit their shares, above every segment (R293). -/
def State.cellsFit (s : State) (tenant : Nat) (pclus : List Nat) : Bool :=
  pclus.all (fun pclu =>
    let n := (s.ctxs.filter (fun c => c.2.tenant = tenant && c.2.kgroup && c.2.group.map.any (fun m => m.2 / 4 = pclu))).length * 1024
    (match s.partOf tenant with
     | some p => (match p.shares.find? (fun x => x.1 = pclu) with
       | some x => decide (n ≤ x.2.2)
       | none => false)
     | none => false) &&
    (s.spans tenant pclu none).all (fun x => decide (x.1 + x.2 ≤ (s.share tenant pclu).2)))

/-! ### Segments, tensors, data (R41, R42) -/

/-- The kernel's segments, in order, as salloc makes them; none when one cannot be laid down. -/
def State.laySegs (cid : Nat) : List SegDecl → State → State × Bool
  | [], s => (s, true)
  | d :: l, s =>
    match s.salloc cid d.size d.home false with
    | .made s name status =>
      let s := s.onCtx cid (fun c => { c with ksegs := c.ksegs ++ [name] })
      if status = 1 ∧ (s.backing cid).isNone then (s, false) else State.laySegs cid l s
    | _ => (s, false)

/-- The descriptor a `.tensor` line asks for (R42, R132). NPAGE counts the pages of rows × pitch bytes, the padding after the last row with
them: R42 does not say whether it is part of the layout (DESIGN CHOICE, log 17). -/
def tensorOf (d : TensorDecl) (tenant : Nat) (ttbase : Nat) : TensorWrite :=
  let row := cdiv (d.dims.getLastD 0 * memBits d.fmt) 8
  let pitch := if d.pitch = 0 then row else d.pitch
  { rank := d.dims.length, fmt := d.fmt, blk := 0, tpol := if d.lp then 1 else 0, tenant := tenant, order := List.range 6, pitch := pitch,
    dims := d.dims, ttbase := ttbase, npage := cdiv ((d.dims.dropLast.foldl (· * ·) 1) * pitch) 65536 }

/-- A free tensor identifier; which one is open (log 5). -/
def State.freeTid (s : State) : Option Nat :=
  let h := Config.freeNat s.fresh % 65536
  if (s.tensor h).isNone then some h else (List.range 65536).find? (fun t => (s.tensor t).isNone)

/-- Pages 0 to n − 1 of a tensor get frames, which read as zeros; none when frames run out. AGE of their entries, which R42 does not give and
R134 has reset to 0, is the current epoch (DESIGN CHOICE, log 17). -/
def State.layPages (tid : Nat) (d : TensorDecl) : List Nat → State → State × Bool
  | [], s => (s, true)
  | p :: l, s =>
    let away := d.absent.contains p
    let lp := d.lp || away
    match s.freeFrame lp with
    | none => (s, false)
    | some f =>
      let s := { s.tickFresh with mem := s.mem.clear (frameAddr lp f) 65536 }
      let s := (s.onPage tid p (fun _ => { p := !away, w := true, lp := lp, pfn := f, age := s.epoch })).dirty lp f
      State.layPages tid d l s

def State.layTensors (cid : Nat) : List TensorDecl → State → State × Bool
  | [], s => (s, true)
  | d :: l, s =>
    match s.freeTid with
    | none => (s, false)
    | some tid =>
      -- the table takes whole frames of the HBM tier, and starts with no page mapped (R134)
      let w0 := tensorOf d (s.ctx cid).tenant 0
      match s.tickFresh.freeFrames false (cdiv (8 * w0.npage) 65536) with
      | none => (s, false)
      | some f =>
      let w := { w0 with ttbase := 65536 * f }
      if tensorRefused w then (s, false)
      else
        let t : Tensor :=
          { rank := w.rank, fmt := w.fmt, blk := w.blk, tpol := w.tpol, tenant := w.tenant, order := w.order, pitch := w.pitch,
            dims := (List.range 6).map (fun j => if j < w.rank then w.dims.getD j 0 else 0), ttbase := w.ttbase, npage := w.npage }
        let s := { s.tickFresh.tickFresh with tensors := aput s.tensors tid t, mem := s.mem.clear (frameAddr false f) (8 * w.npage),
                                              moves := s.moves.filter (fun m => !(decide (w.ttbase ≤ m.1) && decide (m.1 < w.ttbase + 8 * w.npage))) }
        let s := s.onCtx cid (fun c => { c with ktids := c.ktids ++ [tid] })
        let r := State.layPages tid d (List.range w.npage) s
        if r.2 then State.layTensors cid l r.1 else (r.1, false)

/-- The bytes that data items lay on one target, each with its offset; bits that none covers are zero. -/
def dataBytes (items : List DataItem) : List (Nat × Byte) :=
  items.foldl (fun m d =>
    let first := d.bitOff / 8
    let v := (d.val % 2 ^ d.nbits) * 2 ^ (d.bitOff % 8)
    (List.range (cdiv (d.bitOff % 8 + d.nbits) 8)).foldl (fun m i =>
      aput m (first + i) (((alook m (first + i)).getD 0) ||| BitVec.ofNat 8 (v / 256 ^ i))) m) []

/-- Data of the segments and tensors; none when a target does not exist or ends before its data. -/
def State.layData (s : State) (cid : Nat) (img : Image) : State × Bool :=
  let x := s.ctx cid
  let ok := img.data.all (fun d =>
    if d.tensor then
      match (x.ktids[d.idx]?).bind s.tensor with
      | some t => decide (d.bitOff + d.nbits ≤ t.npage * 65536 * 8)
      | none => false
    else
      match x.ksegs[d.idx]? with
      | some n => decide (d.bitOff + d.nbits ≤ (x.seg (nameIdx n)).size * 512)
      | none => false)
  if !ok then (s, false)
  else
    let s := x.ksegs.zipIdx.foldl (fun s n =>
      (dataBytes (img.data.filter (fun d => !d.tensor && d.idx = n.2))).foldl (fun s b => s.segWrite cid (nameIdx n.1) b.1 [b.2]) s) s
    (x.ktids.zipIdx.foldl (fun s n =>
      (dataBytes (img.data.filter (fun d => d.tensor && d.idx = n.2))).foldl (fun s b => State.tensorWrite n.1 s b.1 [b.2]) s) s, true)

/-! ### Control blocks (R270) -/

/-- A book entry with its logical link bound to a physical one (R276, R280). -/
def physicalLink (links : List (Nat × Nat)) (b : W64) : W64 :=
  let l := fld b 32 5
  if bookRes b = 6 then BitVec.ofNat 64 (b.toNat - l * 2 ^ 32 + ((alook links l).getD l) % 32 * 2 ^ 32) else b

/-- The TCB of a `.task`, its pins named and its successors in the home cluster of the TCB's segment. -/
def taskTcb (x : Ctx) (links : List (Nat × Nat)) (t : TaskDecl) : Nat :=
  let home := (x.seg (nameIdx (x.ksegs.getD t.tcbSeg 0))).home
  let dep := t.dep.getD (0, 0)
  pack ([(0, 13, t.entry), (16, 13, t.window), (29, 1, b2n t.timed), (30, 2, t.rpol), (40, 8, t.eacct), (48, 5, t.books.length),
         (53, 5, t.pins.length), (64, 12, dep.1), (80, 16, dep.2), (96, 4, t.succ.length)] ++
    (t.succ.take 8).zipIdx.map (fun c => (128 + 32 * c.2, 32, c.1 % 4096 + home * 4096)) ++
    (t.books.take 16).zipIdx.map (fun b => (384 + 64 * b.2, 64, (physicalLink links b.1).toNat)) ++
    (t.pins.take 16).zipIdx.map (fun p => (1408 + 16 * p.2, 16, (x.ksegs.getD p.1 0).toNat)))

def State.layTcbs (s : State) (cid : Nat) (img : Image) : State × Bool :=
  let x := s.ctx cid
  if img.tasks.all (fun t => match x.ksegs[t.tcbSeg]? with
      | some n => decide (t.tcbOff + 256 ≤ (x.seg (nameIdx n)).size * 64)
      | none => false) then
    let links := (s.partOf x.tenant).elim [] (·.linkMap)
    (img.tasks.foldl (fun s t => s.segWrite cid (nameIdx (x.ksegs.getD t.tcbSeg 0)) t.tcbOff (bytesLE 256 (taskTcb x links t))) s, true)
  else (s, false)

/-- Every cell at its reset value, then the DEPCNT of each `.task`, the later one standing (R295). -/
def Ctx.resetCells (c : Ctx) : Ctx :=
  match c.image with
  | none => { c with cells := [] }
  | some img =>
    { c with cells := img.tasks.foldl (fun m t =>
        let home := (c.seg (nameIdx (c.ksegs.getD t.tcbSeg 0))).home
        -- a task without dep has DEPID 0 and DEPCNT 0 in its control block
        let dep := t.dep.getD (0, 0)
        aput m (cellKey home dep.1) (Cell.depset false dep.2)) [] }

/-- The names a load assigns go into the payloads that ask for them (R147). -/
def fixNames (x : Ctx) (img : Image) : Image :=
  { img with bundles := img.bundles.map (fun (b : Nat × BitVec 256) =>
      img.fixes.foldl (fun (b : Nat × BitVec 256) f =>
        if f.bundle = b.1 then
          let v : Nat := if f.tensor then x.ktids.getD f.idx 0 else (x.ksegs.getD f.idx 0).toNat
          (b.1, BitVec.ofNat 256 (b.2.toNat - fld b.2 192 40 * 2 ^ 192 + (v % 2 ^ 40) * 2 ^ 192))
        else b) b) }

/-- The circuit slot table bound to the cores the group holds, each entry at its place in the revolution (R27, R276). -/
def Group.bindCirc (g : Group) (t : List (Nat × List (Nat × Nat))) : List (Nat × List (Nat × Nat)) :=
  t.map (fun e => (e.1, e.2.filterMap (fun p =>
    match alook g.map p.1, alook g.map p.2 with
    | some a, some b => some (a, b)
    | _, _ => none)))

/-! ### KLOAD, KLAUNCH, KUNLOAD (R268, R269) -/

/-- What a refused load has laid down is freed again, the segment made last first: one that still waits for room is
withdrawn (R126) before its neighbours leave any. -/
def State.undoLoad (s0 s : State) (cid : Nat) : State :=
  let x := s0.ctx cid
  let s := (s.ctx cid).ksegs.reverse.foldl (fun s n => (s.sfree cid n).1) s
  ({ s with tensors := s0.tensors } : State).onCtx cid (fun c =>
    { c with quota := x.quota, rega := x.rega, regb := x.regb, regs := x.regs, kgroup := false, ksegs := [], ktids := [], image := none,
             kstate := .none, state := x.state })

/-- The steps of a load after the group is bound. Control blocks come after all data, a later task's after an earlier one's, so where
they cover the same bytes the later stands: R40 and R41 leave that open (DESIGN CHOICE, log 29). -/
def State.layKernel (s : State) (cid : Nat) (img : Image) : State × Bool :=
  let a := State.laySegs cid img.segs s
  if !a.2 then a
  else
    let b := State.layTensors cid img.tensors a.1
    if !b.2 then b
    else
      let c := b.1.layData cid img
      if !c.2 then c
      else c.1.layTcbs cid img

/-- A refused image leaves what efld reports of it (R272). -/
def State.reportLoad (s : State) (f : LoadFail) : State := { s with loadFail := some f }

def execKload (cid : Nat) (img : Image) (s : State) : Host.Outcome State Fault Refusal :=
  s.commandOf (s.tenantOf cid) (fun s =>
    let x := s.ctx cid
    if (alook s.ctxs cid).isNone then s.answer .refused
    else if x.kstate = .launched then s.answer .busy
    else if x.kstate ≠ .none ∨ x.state ≠ .created ∨ img.bundles.any (fun b => decide (8192 ≤ b.1)) then s.answer .refused
    else if let some f := imageFailure img then (s.reportLoad f).answer .refused
    else
      match (s.partOf x.tenant).bind (fun p => p.bindGroup img.gridD img.gridC img.gridK) with
      | none => s.answer .refused
      | some m =>
        let g : Group := { num := s.groupNum x.tenant, d := img.gridD, c := img.gridC, k := img.gridK, s := img.stages, map := m }
        let s1 := s.tickFresh.onCtx cid (fun c =>
          { c with group := g, kgroup := true, rega := img.regA, regb := img.regB, regs := img.regS, ksegs := [], ktids := [], disp := [],
                   quota := match img.quota with
                     | some q => q / 64
                     | none => c.quota })
        if !s1.cellsFit x.tenant (m.map (fun e => e.2 / 4)).eraseDups then (State.undoLoad s s1 cid).answer .refused
        else
          let r := s1.layKernel cid img
          if !r.2 then (State.undoLoad s r.1 cid).answer .refused
          else
            let img := fixNames (r.1.ctx cid) img
            let circ := (s.partOf x.tenant).elim [] (·.circ)
            (r.1.onCtx cid (fun c =>
              ({ c with image := some img, circ := c.group.bindCirc circ, imgid := Config.imageId img, kstate := .loaded,
                        state := .loaded } : Ctx).resetCells)).answer .done)

/-- The launch card of a core (R269). -/
def launchCard (cid : Nat) (x : Ctx) (now serial lin : Nat) : Task :=
  { cid := cid, id := lin, serial := serial, clu := lin / 4, prio := x.pcap, timed := false, release := 0, lkey := 0, stage := x.group.stage lin,
    cmask := 2 ^ (lin % 4), tcbSeg := 0, tcbOff := 256 * lin + 1, launch := true, state := .ready, depRead := true, readyAt := now }

def execKlaunch (cid : Nat) (params : List W64) (s : State) : Host.Outcome State Fault Refusal :=
  s.commandOf (s.tenantOf cid) (fun s =>
    let x := s.ctx cid
    if x.kstate = .launched then s.answer .busy
    else if !(x.state = .loaded || (x.state = .runnable && x.kstate = .retired)) then s.answer .refused
    else if params.length ≠ (match x.image with
        | some i => i.params
        | none => 0) then s.answer .refused
    else
      let s := s.onCtx cid (fun c =>
        { (c.applyPend cid).resetCells with kstate := .launched, state := .runnable, kparams := params, ktask := [] })
      let x := s.ctx cid
      let qo := if s.qopen.contains x.tenant then s.qopen else x.tenant :: s.qopen
      { s with tasks := s.tasks ++ x.group.map.zipIdx.map (fun (m : (Nat × Nat) × Nat) => launchCard cid x s.turns (s.cards + m.2) m.1.1), qopen := qo,
               cards := s.cards + x.group.map.length }.answer .done)

def execKunload (cid : Nat) (s : State) : Host.Outcome State Fault Refusal :=
  s.commandOf (s.tenantOf cid) (fun s =>
    let x := s.ctx cid
    if x.state = .loaded ∨ (x.state = .runnable ∧ x.kstate = .retired) then
      let s := x.ksegs.reverse.foldl (fun s n => (s.sfree cid n).1) s
      (s.onCtx cid (fun c =>
        { c with rega := 0, regb := 0, regs := 0, kgroup := false, ksegs := [], ktids := [], image := none, kstate := .none, state := .created,
                 cells := [], disp := [], circ := [] })).answer .done
    else s.answer .refused)

end Sys2Proof.Machine
end

