-- ==== Sys2Proof/Machine/Save.lean ====
section
/-! DEFINITION. The end of a save (R93, R103, R104): the save area is written, and the task leaves its core. -/

namespace Sys2Proof.Machine

/-! ### Bulk writes of a tensor -/

/-- Bytes of a tensor's linear layout, page by page; a page with no frame takes none. -/
def State.tensorPut (tid : Nat) (s : State) (off : Nat) (bs : List Byte) : State :=
  (pagesOf [(off, bs.length)]).foldl (fun s pg =>
    let lo := max off (pg * 65536)
    let part := (bs.drop (lo - off)).take (min (off + bs.length) ((pg + 1) * 65536) - lo)
    let p := s.page tid pg
    if p.mapped then
      let a := p.addr + lo % 65536
      { s with mem := (s.mem.clear a part.length).lay a (entriesFrom 0 0 part) }.dirty p.lp p.pfn
    else s) s

/-! ### The end of a save (R93, R103) -/

/-- The commands, subscriptions and journal of the saved task leave the core with the snapshot. -/
def CoreSt.leave (c : CoreSt) (cid id : Nat) : CoreSt :=
  let out := fun (e : CEngine) =>
    { e with cmds := e.cmds.filter (fun (x : Cmd) => !(x.cid = cid && x.task = id)),
             subs := e.subs.filter (fun (x : Nat × SubSt) => !(x.2.cid = cid && x.2.task = id)),
             openB := 0, openN := 0, closed := [] }
  { c.freed with eng0 := out c.eng0, eng1 := out c.eng1, nxts := [], safe := none, rings := [] }

/-- The commands of the task alone. -/
def CoreSt.only (c : CoreSt) (cid id : Nat) : CoreSt :=
  let own := fun (e : CEngine) =>
    { e with cmds := e.cmds.filter (fun (x : Cmd) => x.cid = cid && x.task = id), subs := e.subs.filter (fun (x : Nat × SubSt) => x.2.cid = cid && x.2.task = id) }
  { c with eng0 := own c.eng0, eng1 := own c.eng1, oldj := [] }

/-- The matrix engine has nothing of the task left to do. -/
def Matrix.quiet (m : Matrix) : Bool := m.queue.isEmpty && m.routine.isNone

/-- The task leaves its core with what its save took. -/
def State.saved (s : State) (k cid id : Nat) (c : CoreSt) (area : Option (Nat × Nat × Nat)) : State :=
  let s := s.onTask (fun t => t.is cid id && t.core = some k) (fun t =>
    { t with state := .suspended, core := none, snap := some c, snapOn := k, saveAt := area, book := [], susp := 6 })
  (s.upd (fun c => c.leave cid id)).settleCtx cid

/-- The save of the core in focus ends: the save area is written, the task waits for a resumption, the core is free. A page of the save
area that is on its way is waited for; one that cannot be written keeps nothing (log 14). -/
def execSaveComplete (s : State) : Host.Outcome State Fault Refusal :=
  if s.core.run ≠ .saving ∨ !s.core.mat.quiet then .next s
  else
    match s.core.safe with
    | none => .next s
    | some (lsl, spb) =>
      let s := s.drain
      let k := s.cur
      let cid := s.cid
      let id := s.core.task.key
      let l := match s.me.image with
        | some i => (alook i.lists lsl).getD []
        | none => []
      let c := (s.core.only cid id).filtered l
      let bs := c.saveBytes l
      let tid := s.me.savet
      match State.touchAll cid none tid true (pagesOf [(64 * spb, bs.length)]) s with
      | (s, some f) =>
        if f.cause = .pageAbsent ∧ bit f.info 3 then .next s
        else .next (s.saved k cid id c none)
      | (s, none) => .next ((State.tensorPut tid s (64 * spb) bs).saved k cid id c (some (tid, 64 * spb, lsl)))

end Sys2Proof.Machine
end

