-- ==== Sys2Proof/Machine/Mgmt.lean ====
section
/-! DEFINITION. Management: the life of a context (R93, R94), resume and abort from the host (R108), the management window (R95, R109,
R110, R361), partitions (R97, R279), power, bring-up and security (R355, R358, R360). -/

namespace Sys2Proof.Machine

/-! ### The life of a context (R93, R94) -/

/-- A context block is allocated: every other field is at its reset value. -/
def execContextCreate (cid tenant : Nat) (s : State) : Host.Outcome State Fault Refusal :=
  s.commandOf (some tenant) (fun s =>
    let taken : Bool := match alook s.ctxs cid with
      | some c => c.state ≠ .destroyed
      | none => false
    if 1024 ≤ cid ∨ 16 ≤ tenant ∨ taken then s.answer .refused
    else ({ s with ctxs := aput s.ctxs cid { tenant := tenant } } : State).answer .done)

/-- Every core on record. -/
def State.onCores (s : State) (f : CoreSt → CoreSt) : State :=
  { s with core := f s.core, parked := s.parked.map (fun (p : Nat × CoreSt) => (p.1, f p.2)) }

/-- A context enters DRAINING: its tasks and cards are gone, its commands cancelled, its Gander slots and regions freed, its permits
returned. -/
def State.startDrain (s : State) (cid : Nat) : State :=
  let s := s.onCtx cid (fun c => { c with state := .draining, frwait := [], preempting := false })
  let s := (s.tasks.filter (fun t => t.cid = cid)).foldl (fun s t => s.abortTask t) s
  let s := { s with pqueues := s.pqueues.map (fun (q : Nat × List (BitVec 512 × Nat)) => (q.1, q.2.filter (fun (c : BitVec 512 × Nat) => c.2 ≠ cid))) }
  let s := s.freeSlots (fun g => g.cid = cid)
  let mine := fun (r : Region) => r.cid = cid
  let s := (s.regions.filter mine).foldl State.closeRegion s
  let s := s.returnPermits cid
  let s := s.onCores (fun c => if c.owner = some cid then { c with latch := [] } else c)
  let x := s.ctx cid
  let others := s.ctxs.any (fun c => c.1 ≠ cid && c.2.tenant = x.tenant && c.2.kstate ≠ .none && c.2.state ≠ .draining && c.2.state ≠ .destroyed)
  if others then s else { s with qopen := s.qopen.filter (fun t => t ≠ x.tenant) }

def execContextDestroy (cid : Nat) (s : State) : Host.Outcome State Fault Refusal :=
  s.commandOf (s.tenantOf cid) (fun s =>
    match alook s.ctxs cid with
    | none => s.answer .refused
    | some c => if c.state = .destroyed then s.answer .refused else (s.startDrain cid).answer .done)

/-- No message of the context is on its way inside the package; what travels outside it is for the surroundings to say. -/
def State.drained (s : State) (cid : Nat) : Bool :=
  s.rowIn.all (fun m => !(m.srcPkg = s.pkg && m.srcCid = cid)) && s.signals.all (fun x => x.cid ≠ cid) &&
    s.links.all (fun l => l.2.waiting.all (fun p => fld p.rw 28 10 ≠ cid)) && (s.ctx cid).asks.isEmpty

/-- The last packet has left: segments, quota, save area and CID are released. -/
def execContextDestroyed (cid : Nat) (s : State) : Host.Outcome State Fault Refusal :=
  match alook s.ctxs cid with
  | none => .next s
  | some c =>
    if c.state ≠ .draining ∨ !s.drained cid then .next s
    else
      let homes := ((c.segs.map (fun g => g.2.home)).map c.group.pclu).eraseDups
      let s := { s with waitq := s.waitq.filter (fun w => w.1 ≠ cid), ctxs := aput s.ctxs cid { tenant := c.tenant, state := .destroyed },
                        away := s.away.filter (fun (a : Nat × CoreSt) => a.1 % 1024 ≠ cid) }
      let s := s.onCores (fun k =>
        { k with seen := k.seen.filter (fun x => x ≠ cid), owner := k.owner.filter (fun x => x ≠ cid),
                 dcache := k.dcache.filter (fun e => e.cid ≠ cid) })
      .next (homes.foldl (fun s h => s.compact c.tenant h) s)

/-- Each core that runs a task of the context stops at its next safe point. -/
def execPreempt (cid : Nat) (s : State) : Host.Outcome State Fault Refusal :=
  s.commandOf (s.tenantOf cid) (fun s =>
    if (s.ctx cid).state ≠ .running then s.answer .refused
    else
      (((s.askStop cid).onCtx cid (fun c => { c with preempting := true })).settleCtx cid).answer .done)

/-! ### Resume and abort from the host (R108) -/

def execHostResume (cid : Nat) (task : Option Nat) (s : State) : Host.Outcome State Fault Refusal :=
  s.commandOf (s.tenantOf cid) (fun s =>
    let r := s.requestResume cid task
    r.1.answer (if r.2 then .done else .refused))

def execHostAbort (cid : Nat) (task : Option Nat) (s : State) : Host.Outcome State Fault Refusal :=
  s.commandOf (s.tenantOf cid) (fun s =>
    let r := s.requestAbort cid task
    r.1.answer (if r.2 then .done else .refused))

/-! ### Words of the tables that only readback shows -/

/-- A tensor descriptor (R132). -/
def Tensor.word (t : Tensor) (tid : Nat) : Nat :=
  pack ([(0, 16, tid), (16, 3, t.rank), (19, 5, t.fmt), (24, 3, t.blk), (27, 2, t.tpol), (29, 4, t.tenant), (128, 32, t.pitch),
      (352, 64, t.ttbase), (416, 32, t.npage)] ++ (List.range 6).map (fun j => (64 + 3 * j, 3, t.order.getD j j)) ++
    (List.range 6).map (fun j => (160 + 32 * j, 32, t.dims.getD j 0)))

/-- A cell (R294). -/
def Cell.word (x : Cell) : Nat :=
  pack [(0, 1, b2n x.barrier), (1, 2, x.st), (3, 1, b2n x.ph), (4, 1, b2n x.mis), (5, 1, b2n x.under), (16, 16, x.val), (32, 16, x.arr),
    (64, 32, x.expb), (96, 32, x.gotb)]

/-- A job card as a cluster queue holds it (R255); the fields that are ignored read as zero. -/
def State.cardWord (s : State) (t : Task) : Nat :=
  pack [(0, 16, t.tcbSeg.toNat), (16, 32, t.tcbOff), (48, 5, t.prio), (53, 1, b2n t.timed), (64, 64, t.release), (128, 16, t.lkey),
    (144, 4, t.stage), (148, 16, (s.ctx t.cid).group.num), (164, 4, t.cmask), (168, 6, t.clu), (192, 32, t.id)]

/-- A booking; the layout of a calendar is not stated (log 16). -/
def Booking.word (b : Booking) : Nat := pack [(0, 4, b.res), (4, 8, b.core), (32, 32, b.mask), (64, 64, b.lo), (128, 64, b.hi), (192, 1, b2n b.ramp)]

/-- A slip record (R288). -/
def SlipRec.word (r : SlipRec) : Nat := pack [(0, 64, r.frame), (64, 32, r.task), (96, 4, r.cause), (104, 6, r.clu), (128, 32, r.dur)]

/-- A permit (R351). -/
def Permit.word (p : Permit) : Nat :=
  pack [(0, 3, p.state), (3, 10, p.pkg), (13, 10, p.rctx), (23, 6, p.rten), (32, 40, p.credit), (72, 40, p.drawn), (128, 64, p.expiry)]

/-- A link's status block (R343). -/
def Link.word (k : Link) : Nat :=
  pack [(0, 3, k.state), (3, 1, b2n k.sync), (4, 8, k.ld), (12, 11, k.peer), (23, 2, k.trains), (64, 32, k.crcerr), (96, 32, k.hcorr),
    (128, 32, k.hunc), (160, 32, k.replays)]

/-- An orphan record (R345). -/
def Orphan.word (o : Orphan) : Nat := pack [(0, 64, o.frame), (64, 5, o.link), (72, 4, o.cause), (80, 16, o.seq), (128, 128, o.raw.toNat)]

/-! ### The management window (R361) -/

/-- A context block with the writes that wait (R95). -/
def Ctx.written (c : Ctx) (cid : Nat) : BitVec 512 := c.pendW.foldl (fun b w => setBits b w.1 w.2.1 w.2.2) (c.block cid)

/-- Where a suspended context's state of a core is: in a save, on the core, or kept away while another context uses it. -/
inductive CorePlace where
  | snap (cid id : Nat)
  | here
  | away
deriving DecidableEq, Repr

/-- The states of a context at a core, in their order: its tasks saved there, then what lies there or is kept away. -/
def State.placesOf (s : State) (cid k : Nat) : List (CorePlace × CoreSt) :=
  (s.tasks.filter (fun t => t.cid = cid && t.snapOn = k)).filterMap (fun t =>
    t.snap.map (fun c => (.snap cid t.key, match s.areaOf t c with
      | some (l, bs) => c.loadArea 0 0 l bs
      | none => c))) ++
  (if (s.getCore k).owner = some cid then [(.here, s.getCore k)]
   else (alook s.away (k * 1024 + cid)).toList.map (fun c => (.away, c)))

def State.placeOf (s : State) (cid k n : Nat) : Option (CorePlace × CoreSt) := (s.placesOf cid k)[n]?

def State.putPlace (s : State) (cid k : Nat) (p : CorePlace) (c : CoreSt) : State :=
  match p with
  | .snap cid id =>
    let mine := fun (t : Task) => t.is cid id && t.snapOn = k && t.snap.isSome
    let s := s.onTask mine (fun t => { t with snap := some c })
    -- the save area is what a restore reads (R104)
    match s.tasks.find? mine with
    | some t => (match t.saveAt, s.areaOf t c with
      | some a, some x => State.tensorPut a.1 s a.2.1 (c.saveBytes x.1)
      | _, _ => s)
    | none => s
  | .here => s.onCore k (fun _ => c)
  | .away => { s with away := aput s.away (k * 1024 + cid) c }

/-- An entry of a guest's own tile table (R140). -/
def State.guestWord (s : State) (tid p : Nat) : W64 := (alook s.guestT (tid * 2 ^ 32 + p)).getD 0

/-- The bytes of the fault ring of a context, as its segment holds them. -/
def State.ringBytes (s : State) (cid : Nat) : Option (List Byte) :=
  let c := s.ctx cid
  if c.frdepth = 0 ∨ c.stale c.frseg ∨ (c.seg (nameIdx c.frseg)).state ≠ .resident then none
  else some (s.segRead cid (nameIdx c.frseg) 0 (64 * c.frdepth))

/-- A word with the bits that its layout names; the others read as zero (R8). -/
def keepBits (w : Nat) (fs : List (Nat × Nat)) : Nat := pack (fs.map (fun f => (f.1, f.2, nfld w f.1 f.2)))

/-- A breakpoint entry (R110), a card (R255). -/
def breakWord (w : Nat) : Nat := keepBits w [(0, 15), (16, 8), (32, 32)]
def cardFields (w : Nat) : Nat := keepBits w [(0, 54), (64, 110), (192, 32)]

/-- A notice for the fabric owner; its layout is not stated (log 16). -/
def Notice.words : Notice → List Nat
  | .entry tid p w => [0, tid, p, w.toNat]
  | .desc tid d => [1, tid, pack [(0, 8, d.rank), (8, 8, d.fmt), (16, 8, d.blk), (24, 8, d.tpol), (32, 8, d.tenant)], d.pitch, d.ttbase, d.npage] ++
      d.order ++ d.dims
  | .clusterFailed c => [2, c]
  | .stackFailed k => [3, k]

/-- The bytes of a space; none: there is no such space, or it cannot be read now. -/
def State.spaceBytes (s : State) (sp : Space) : Option (List Byte) :=
  let ctx := fun (cid : Nat) (f : Ctx → List Byte) => (alook s.ctxs cid).map f
  match sp with
  | .ctxBlock cid => ctx cid (fun c => bytesLE 64 (c.written cid).toNat)
  | .breakpoints cid => ctx cid (fun c => wordsBytes ((List.range 8).map (fun i => breakWord ((alook c.bps i).getD 0).toNat)))
  | .core cid k r => if (s.ctx cid).state = .suspended then ((s.placeOf cid k 0).bind (fun p => p.2.image r)) else none
  | .coreAt cid k n r => if (s.ctx cid).state = .suspended then ((s.placeOf cid k n).bind (fun p => p.2.image r)) else none
  | .segDesc cid i => if i < 4096 then ctx cid (fun c => bytesLE 64 ((c.seg i).word i)) else none
  | .segTile cid i t => ctx cid (fun c => bytesLE 2 ((c.seg i).tile t).word)
  | .tileEntry tid p => (s.tensor tid).bind (fun t => if p < t.npage then some (bytesLE 8 (s.page tid p).word) else none)
  | .tensorDesc tid => (s.tensor tid).map (fun t => bytesLE 64 (t.word tid))
  | .cell cid clu n => if clu < 64 ∧ n < 4096 then ctx cid (fun c => bytesLE 16 (c.cell clu n).word) else none
  | .queueCards clu tenant =>
    if clu < 64 then
      some ((s.tasks.filter (fun t => t.queued && (s.ctx t.cid).tenant = tenant && (s.ctx t.cid).group.pclu t.clu = clu)).flatMap
        (fun t => bytesLE 64 (s.cardWord t)))
    else none
  | .packageQueue tenant q => if tenant < 16 ∧ q < 16 then some ((s.pqueue tenant q).flatMap (fun c => bytesLE 64 (cardFields c.1.toNat))) else none
  | .dispenser cid n =>
    if n < 16 then ctx cid (fun c => match c.disp.find? (fun d => d.1 = n) with
      | some d => wordsBytes [d.2.1, d.2.2.1, d.2.2.2]
      | none => wordsBytes [0, 0, 0])
    else none
  | .calendar clu tenant =>
    if clu < 64 then
      some ((s.tasks.filter (fun t => (s.ctx t.cid).tenant = tenant)).flatMap (fun t =>
        (t.book.filter (fun b => b.core / 4 = clu)).flatMap (fun b => bytesLE 32 b.word)) ++
        (s.lateBooks.filter (fun b => b.1 = tenant && b.2.core / 4 = clu)).flatMap (fun b => bytesLE 32 b.2.word))
    else none
  | .slipLog tenant i => if i < 256 then (s.partOf tenant).map (fun p => bytesLE 32 ((alook p.log i).getD {}).word) else none
  | .slipCount tenant => (s.partOf tenant).map (fun p => bytesLE 8 p.slipCnt)
  | .faultRing cid => s.ringBytes cid
  | .permit cid n => if n < 256 then ctx cid (fun c => bytesLE 32 ((alook c.permits n).getD {}).word) else none
  | .linkBlock l => if l < Config.links then some (bytesLE 32 (s.link l).word) else none
  | .linkRoute l => if l < Config.links then some (bytesLE 1 (match (s.link l).alt with
      | some a => a + 1
      | none => 0)) else none
  | .orphan n => s.orphans[n]?.map (fun o => bytesLE 32 o.word)
  | .monitors clu =>
    let m := s.mon clu
    if clu < 64 then some (bytesLE 8 (pack [(0, 16, m.temp.toNat), (16, 16, m.vcore.toNat), (32, 16, m.vsram.toNat), (48, 16, m.proc.toNat)])) else none
  | .packageState => some (bytesLE 8 s.pstate.num ++ bytesLE 8 s.pkge)
  | .dualm die => if die < 4 then some (bytesLE 8 (sget 0 s.dualm die)) else none
  | .frozenBits _ => none
  | .peering a b => if a < 63 ∧ b < 63 then some (bytesLE 1 (b2n (s.peered a b))) else none
  | .virtualised t => if t < 16 then some (bytesLE 1 (b2n (s.virt.contains t))) else none
  | .fabricTenant t => if t < 16 then some (bytesLE 1 (s.fabTenant t)) else none
  | .notice n => s.notices[n]?.map (fun x => wordsBytes x.words)
  | .guestEntry tid p => (s.tensor tid).bind (fun t => if p < t.npage then some (bytesLE 8 (s.guestWord tid p).toNat) else none)
  | .unitStates => some ((List.range 64).flatMap (fun c => bytesLE 1 ((alook s.cstate c).getD 0)) ++
      (List.range 8).flatMap (fun k => bytesLE 1 ((alook s.hbm k).getD 0 % 4)))
  | .circuit cid e => if e < 64 then ctx cid (fun c => ((alook c.circ e).getD []).flatMap (fun p => bytesLE 1 p.1 ++ bytesLE 1 p.2)) else none
  | .loadReport => s.loadFail.map (fun f => wordsBytes (f.check :: f.bundle :: f.path))
  | .timeRoot => some (bytesLE 2 (match s.timeRoot with
      | some n => n + 1
      | none => 0))

/-- The package tenant whose space it is; none: the fabric owner's alone. -/
def State.spaceTenant (s : State) (sp : Space) : Option Nat :=
  let ctx := fun (cid : Nat) => (alook s.ctxs cid).map (fun c => c.tenant)
  match sp with
  | .ctxBlock cid | .breakpoints cid | .core cid _ _ | .coreAt cid _ _ _ | .segDesc cid _ | .segTile cid _ _ | .cell cid _ _ | .dispenser cid _ | .faultRing cid
  | .permit cid _ | .circuit cid _ => ctx cid
  | .tileEntry tid _ | .tensorDesc tid => (s.tensor tid).map (fun t => t.tenant)
  | .queueCards _ t | .packageQueue t _ | .calendar _ t | .slipLog t _ | .slipCount t => some t
  | _ => none

/-- A host node reaches its own tenant's spaces, the fabric owner (network 63) every one (R340, R361). -/
def State.mayReach (s : State) (net : Nat) (sp : Space) : Bool :=
  net = 63 || (match s.spaceTenant sp with
    | some t => s.fabTenant t = net
    | none => false)

/-- Bytes of the frozen dirty bitmap of a tier, a bit a frame (R142). -/
def State.frozenBytes (s : State) (lp : Bool) (off n : Nat) : List Byte :=
  let m := if lp then s.dirtyL.2 else s.dirtyH.2
  (List.range n).map (fun i => BitVec.ofNat 8 (pack ((List.range 8).map (fun j => (j, 1, b2n (sget false m (8 * (off + i) + j)))))))

/-- A read of up to 64 B. -/
def State.windowRead (s : State) (sp : Space) (off len : Nat) : Option (List Byte) :=
  match sp with
  | .frozenBits lp => if off + len ≤ (if lp then Config.lpFrames else s.hbmFrames) / 8 then some (s.frozenBytes lp off len) else none
  | _ => (s.spaceBytes sp).bind (fun bs => if off + len ≤ bs.length then some ((bs.drop off).take len) else none)

/-- What a node on a network reads of a space: a guest of a virtualised tenant sees its own tile table (R140). -/
def State.seenBy (s : State) (net : Nat) (sp : Space) : Space :=
  match sp with
  | .tileEntry tid p => if net ≠ 63 && (s.tenantOfT tid).any (fun t => s.virt.contains t) then .guestEntry tid p else sp
  | _ => sp

/-- A node reaches a space: on the network it names, and on that of the SYS packet that brought the command. -/
def State.windowOpen (s : State) (net : Nat) (sp : Space) : Bool := s.mayReach net sp && s.mayReach s.issuerNet sp

def execMrd (net : Nat) (sp : Space) (off len : Nat) (s : State) : Host.Outcome State Fault Refusal :=
  s.command1 (fun s =>
    if len = 0 ∨ 64 < len ∨ !s.windowOpen net sp then s.answer .refused
    else
      match s.windowRead (s.seenBy net sp) off len with
      | some bs => ({ s with out := bs } : State).answer .done bs
      | none => s.answer .refused)

/-- The RW fields of the context block that wait for a dispatch: first bit and width (R95). -/
def lazyFields : List (Nat × Nat) := [(14, 1), (15, 1), (16, 5), (21, 1), (64, 64), (200, 12), (212, 1), (216, 16), (232, 16)]

/-- A write of the context block: QUOTA and the ring fields at once, the other RW fields at the next dispatch, RO fields not. -/
def Ctx.writeBlock (c : Ctx) (cid off n : Nat) (w : BitVec 512) : Ctx :=
  let touched := fun (lo width : Nat) => decide (lo < 8 * (off + n)) && decide (8 * off < lo + width)
  let pend := (lazyFields.filter (fun f => touched f.1 f.2)).map (fun f => (f.1, f.2, fld w f.1 f.2))
  let keep := c.pendW.filter (fun p => !pend.any (fun q => q.1 = p.1))
  { c with pendW := keep ++ pend, quota := if touched 128 32 then fld w 128 32 else c.quota,
           frseg := if touched 160 16 then w.extractLsb' 160 16 else c.frseg, frdepth := if touched 176 8 then fld w 176 8 else c.frdepth,
           frhead := if touched 192 8 then fld w 192 8 else c.frhead }

/-- A write to a space, given all its bytes after the write; none: refused. A write to a card in a queue changes nothing: whether R361 lets
MWR write the fields that R255 gives RW there is open (DESIGN CHOICE, log 16). -/
def State.spaceWrite (s : State) (sp : Space) (off n : Nat) (bs : List Byte) : Option State :=
  let b := natLE bs
  match sp with
  | .ctxBlock cid =>
    some ((s.onCtx cid (fun c => c.writeBlock cid off n (BitVec.ofNat 512 b))).retryRecords cid)
  | .breakpoints cid =>
    some (s.onCtx cid (fun c => { c with bps := (List.range 8).map (fun i => (i, BitVec.ofNat 64 (breakWord (nfld b (64 * i) 64)))) }))
  | .core cid k r =>
    (s.placeOf cid k 0).bind (fun p => (p.2.putImage r bs).map (fun c => s.putPlace cid k p.1 c))
  | .coreAt cid k n r =>
    (s.placeOf cid k n).bind (fun p => (p.2.putImage r bs).map (fun c => s.putPlace cid k p.1 c))
  | .linkRoute l =>
    if b = 0 then some (s.setLink l (fun k => { k with alt := none }))
    else if b ≤ Config.links then some (s.setLink l (fun k => { k with alt := some (b - 1) })) else none
  | .peering x y =>
    let rest := s.peers.filter (fun (p : Nat × Nat) => p ≠ (x, y) && p ≠ (y, x))
    some { s with peers := if b = 0 then rest else (x, y) :: rest }
  | .virtualised t =>
    let rest := s.virt.filter (fun (x : Nat) => x ≠ t)
    some { s with virt := if b = 0 then rest else t :: rest }
  | .fabricTenant t => if b < 63 then some { s with tenMap := aput s.tenMap t (b + 1) } else none
  | .guestEntry tid p => some { s with guestT := aput s.guestT (tid * 2 ^ 32 + p) (BitVec.ofNat 64 b) }
  | .timeRoot => if b ≤ 1024 then some { s with timeRoot := if b = 0 then none else some (b - 1) } else none
  -- RO throughout: the write is ignored (R7)
  | .segDesc _ _ | .segTile _ _ _ | .tileEntry _ _ | .tensorDesc _ | .cell _ _ _ | .queueCards _ _ | .packageQueue _ _ | .dispenser _ _
  | .calendar _ _ | .slipLog _ _ | .slipCount _ | .faultRing _ | .permit _ _ | .linkBlock _ | .orphan _ | .monitors _ | .packageState
  | .dualm _ | .frozenBits _ | .notice _ | .unitStates | .circuit _ _ | .loadReport => some s

/-- The bits of bytes, lowest first, as entries of a bitmap from bit i on. -/
def bitEntries (i : Nat) (bs : List Byte) : List (Nat × Bool) :=
  bs.zipIdx.flatMap (fun b => (List.range 8).map (fun j => (i + 8 * b.2 + j, b.1.getLsbD j)))

/-- A write of the frozen dirty bitmap of a tier (R142). -/
def State.putFrozen (s : State) (lp : Bool) (off : Nat) (bs : List Byte) : State :=
  let f := fun (m : List (Nat × Bool)) => (bitEntries (8 * off) bs).foldl (fun m e => sset false m e.1 e.2) m
  if lp then { s with dirtyL := (s.dirtyL.1, f s.dirtyL.2) } else { s with dirtyH := (s.dirtyH.1, f s.dirtyH.2) }

/-- A space whose bits are W1C. -/
def spaceClears : Space → Bool
  | .core _ _ .fstReg | .coreAt _ _ _ .fstReg => true
  | _ => false

/-- A write of up to 64 B; none: refused. -/
def State.windowWrite (s : State) (sp : Space) (off : Nat) (data : List Byte) : Option State :=
  match sp with
  | .frozenBits lp => (s.windowRead sp off data.length).map (fun _ => s.putFrozen lp off data)
  | _ => (s.spaceBytes sp).bind (fun old =>
      if old.length < off + data.length then none
      else
        -- of a space of W1C bits the bytes that are not written clear nothing
        let old := if spaceClears sp then List.replicate old.length 0 else old
        s.spaceWrite sp off data.length (old.take off ++ data ++ old.drop (off + data.length)))

/-- A guest's own tile table is write-protected: a write of an entry is delivered as a notice (R140). -/
def State.guestWrite (s : State) (net : Nat) (sp : Space) (off : Nat) (data : List Byte) : Option Notice :=
  match sp, s.seenBy net sp with
  | .tileEntry tid p, .guestEntry _ _ =>
    let old := bytesLE 8 (s.guestWord tid p).toNat
    some (.entry tid p (BitVec.ofNat 64 (natLE (old.take off ++ data ++ old.drop (off + data.length)))))
  | _, _ => none

def execMwr (net : Nat) (sp : Space) (off : Nat) (data : List Byte) (s : State) : Host.Outcome State Fault Refusal :=
  s.command1 (fun s =>
    if data.isEmpty ∨ 64 < data.length ∨ !s.windowOpen net sp then s.answer .refused
    else
      match s.windowWrite (s.seenBy net sp) off data, s.guestWrite net sp off data with
      | some _, some n => ({ s with notices := s.notices ++ [n] } : State).answer .deferred
      | some s, none => s.answer .done
      | none, _ => s.answer .refused)

/-- FRHEAD, FRSEG and FRDEPTH take effect at once, and waiting records are tried again (R107). -/
def execFrheadWrite (cid : Nat) (frhead frseg frdepth : Option Nat) (s : State) : Host.Outcome State Fault Refusal :=
  s.commandOf (s.tenantOf cid) (fun s =>
    match alook s.ctxs cid with
    | none => s.answer .refused
    | some _ =>
      let s := s.onCtx cid (fun c =>
        { c with frhead := (frhead.getD c.frhead) % 256, frseg := BitVec.ofNat 16 (frseg.getD c.frseg.toNat), frdepth := (frdepth.getD c.frdepth) % 256 })
      (s.retryRecords cid).answer .done)

/-! ### Partitions (R97, R259, R274, R279, R280, R317) -/

/-- Where a tenant's share of a cluster's store begins: behind those of the partitions before it. -/
def State.shareStart (s : State) (clu : Nat) : Nat :=
  (s.parts.flatMap (·.shares)).foldl (fun n x => if x.1 = clu then max n (x.2.1 + x.2.2) else n) 0

def State.partitionBad (s : State) (p : PartitionSpec) : Bool :=
  let used := s.parts.flatMap (·.cores)
  let clus := (p.cores.map (· / 4)).eraseDups
  decide (16 ≤ p.tenant) || (s.partOf p.tenant).isSome ||
    p.cores.any (fun k => decide (Config.cores ≤ k) || used.contains k || (alook s.cstate (k / 4)).getD 0 = 3) ||
    p.shares.any (fun x => !clus.contains x.1 || x.2 % 1024 ≠ 0 || decide (Config.storeGranules < s.shareStart x.1 + x.2)) ||
    (p.shares.map (·.1)).eraseDups.length ≠ p.shares.length ||
    p.qshare % 16 ≠ 0 || clus.any (fun c =>
      decide (1024 < p.qshare + ((s.parts.filter (fun x => x.cores.any (fun k => k / 4 = c))).map (·.qshare)).foldl (· + ·) 0)) ||
    p.jshare % 65536 ≠ 0 || p.links.any (fun x => !clus.contains x.1 || decide (Config.links ≤ x.2.1)) ||
    p.pipes.any (fun x => !clus.contains x.1 || decide (4 ≤ x.2)) ||
    p.linkMap.any (fun x => decide (Config.links ≤ x.2)) || p.circ.any (fun e => decide (64 ≤ e.1))

def execPartitionCreate (p : PartitionSpec) (s : State) : Host.Outcome State Fault Refusal :=
  s.commandOwner (fun s =>
    if s.partitionBad p then s.answer .refused
    else
      let x : Partition :=
        { tenant := p.tenant, cores := p.cores.eraseDups, f := s.frame, shares := p.shares.map (fun (x : Nat × Nat) => (x.1, s.shareStart x.1, x.2)),
          qshare := p.qshare, jshare := p.jshare, links := p.links, pipes := p.pipes, linkMap := p.linkMap, circ := p.circ }
      ({ s with parts := s.parts ++ [x] } : State).answer .done)

/-! ### Power and bring-up (R355) -/

/-- Whether the signature of a firmware image is valid against a key (R360; log 7). -/
def firmwareValid (key image : List Byte) : Bool := image == Config.factoryImage || Config.firmwareValid key image

/-- The signature decides between BRINGUP and FWFAIL (R355, R360); in FWFAIL the links are trained. -/
def State.authenticate (s : State) : State :=
  if firmwareValid s.vendorKey s.firmware then
    { s with pstate := .bringup, cstate := aput s.cstate 0 1, hbm := aput s.hbm 0 0 }
  else
    let s := { s with pstate := .fwfail }
    (List.range Config.links).foldl (fun s l =>
      if (s.link l).state = 0 ∨ (s.link l).state = 4 then s.setLink l (fun k => { k with state := 1, trains := 0 }) else s) s

/-- Power comes up, or a BOOT that FWLOAD began goes on: the firmware is authenticated. -/
def execPowerGood (s : State) : Host.Outcome State Fault Refusal :=
  .next (if s.pstate = .dark ∨ s.pstate = .boot then ({ s with pstate := .boot } : State).authenticate else s)

/-- The next cluster starts, 20 µs after the one before. -/
def execClusterStart (clu : Nat) (s : State) : Host.Outcome State Fault Refusal :=
  if Config.clusters ≤ clu then .fault .noSuchUnit
  else
    .next (if s.pstate = .bringup && (alook s.cstate clu).getD 0 = 0 && (clu = 0 || (alook s.cstate (clu - 1)).getD 0 ≠ 0)
      then { s with cstate := aput s.cstate clu 1 } else s)

/-- A cluster that failed is reported to the fabric owner and left out of every partition. -/
def State.clusterFails (s : State) (clu : Nat) : State :=
  { s with notices := s.notices ++ [.clusterFailed clu],
           parts := s.parts.map (fun p => { p with cores := p.cores.filter (fun k => k / 4 ≠ clu), shares := p.shares.filter (fun x => x.1 ≠ clu),
                                                   links := p.links.filter (fun x => x.1 ≠ clu), pipes := p.pipes.filter (fun x => x.1 ≠ clu) }) }

def execSelftestDone (clu : Nat) (ok : Bool) (s : State) : Host.Outcome State Fault Refusal :=
  if Config.clusters ≤ clu then .fault .noSuchUnit
  else
    .next (if s.pstate = .bringup && (alook s.cstate clu).getD 0 = 1 then
        (let t := { s with cstate := aput s.cstate clu (if ok then 2 else 3) }
         if ok then t else t.clusterFails clu)
      else s)

/-- A stack that fails training three times is failed and reported to the fabric owner; stacks train in order. -/
def execHbmTrainingDone (stack : Nat) (ok : Bool) (s : State) : Host.Outcome State Fault Refusal :=
  if 8 ≤ stack then .fault .noSuchUnit
  else
    let x := (alook s.hbm stack).getD 0
    let turn := (List.range stack).all (fun k => (alook s.hbm k).getD 0 % 4 ≠ 0)
    .next (if s.pstate = .bringup && x % 4 = 0 && turn then
        { s with hbm := aput s.hbm stack (if ok then x + 1 else if x / 4 + 1 < 3 then x + 4 else x + 4 + 2),
                 notices := if ok ∨ x / 4 + 1 < 3 then s.notices else s.notices ++ [.stackFailed stack] }
      else s)

/-- All state is lost but security storage and the firmware image of the module (R355, R360, R361). -/
def execPowerLost (s : State) : Host.Outcome State Fault Refusal :=
  .next { State.reset with firmware := s.firmware, leaf := s.leaf, serial := s.serial, vendorKey := s.vendorKey, pkgKey := s.pkgKey,
                           agenda := s.agenda, turns := s.turns, fresh := s.fresh }

/-- FWLOAD is taken in FWFAIL, from the fabric owner, for a valid image. -/
def execFwload (image : List Byte) (owner : Bool) (s : State) : Host.Outcome State Fault Refusal :=
  if s.pstate = .fwfail && owner && s.issuerNet = 63 && firmwareValid s.vendorKey image then ({ s with firmware := image, pstate := .boot } : State).answer .done
  else s.answer .refused

def execPwrcap (cap floor : Nat) (s : State) : Host.Outcome State Fault Refusal :=
  s.commandOwner (fun s =>
    if cap < 500 ∨ 2000 < cap ∨ 7 < floor then s.answer .refused
    else ({ s with throttle := { s.throttle with cap := cap, floor := floor } } : State).answer .done)

/-- What a quote holds: the nonce, the digest of the firmware image, the serial number, the package frame, the leaf index (R360). Its
layout is not stated (log 7). -/
def State.quoteBody (s : State) (nonce : BitVec 256) : List Byte :=
  bytesLE 32 nonce.toNat ++ bytesLE 32 (Config.digest s.firmware).toNat ++ bytesLE 8 s.serial.toNat ++ bytesLE 8 s.frame ++ bytesLE 4 s.leaf

/-- What the package signs, with its signature. The leaf counter is advanced and stored before the signature is made, so that a leaf
signs once (R360). -/
def State.signed (s : State) (body : List Byte) : State :=
  { s with leaf := s.leaf + 1, out := body ++ Config.sign s.pkgKey s.leaf body }

def execAttest (nonce : BitVec 256) (s : State) : Host.Outcome State Fault Refusal :=
  s.command1 (fun s =>
    if 2 ^ 20 ≤ s.leaf then s.answer .exhausted
    else
      let t := s.signed (s.quoteBody nonce)
      t.answer .done t.out)

end Sys2Proof.Machine
end

