-- ==== Sys2Proof/Machine/Dispatch.lean ====
section
/-! DEFINITION. The meaning of every instruction, one arm for each constructor of Instr. -/

namespace Sys2Proof.Machine

def exec (i : Instr) (s : State) : Host.Outcome State Fault Refusal :=
  match i with
  | .nop => Sys2Proof.Machine.execNop s
  | .move sl g dst src => Sys2Proof.Machine.execMove sl g dst src s
  | .transfer x g dst src => Sys2Proof.Machine.execTransfer x g dst src s
  | .o0Append d g src => Sys2Proof.Machine.execO0Append d g src s
  | .o1Append d g src => Sys2Proof.Machine.execO1Append d g src s
  | .rtWrite d g src => Sys2Proof.Machine.execRtWrite d g src s
  | .mkWrite v g src => Sys2Proof.Machine.execMkWrite v g src s
  | .dixWrite u g src => Sys2Proof.Machine.execDixWrite u g src s
  | .dwr u g src => Sys2Proof.Machine.execDwr u g src s
  | .spx x g src => Sys2Proof.Machine.execSpx x g src s
  | .spd x g src => Sys2Proof.Machine.execSpd x g src s
  | .add g src => Sys2Proof.Machine.execAdd g src s
  | .sub g src => Sys2Proof.Machine.execSub g src s
  | .mul g src => Sys2Proof.Machine.execMul g src s
  | .mulh g src => Sys2Proof.Machine.execMulh g src s
  | .mulhu g src => Sys2Proof.Machine.execMulhu g src s
  | .div g src => Sys2Proof.Machine.execDiv g src s
  | .divu g src => Sys2Proof.Machine.execDivu g src s
  | .rem g src => Sys2Proof.Machine.execRem g src s
  | .remu g src => Sys2Proof.Machine.execRemu g src s
  | .and g src => Sys2Proof.Machine.execAnd g src s
  | .or g src => Sys2Proof.Machine.execOr g src s
  | .xor g src => Sys2Proof.Machine.execXor g src s
  | .andn g src => Sys2Proof.Machine.execAndn g src s
  | .orn g src => Sys2Proof.Machine.execOrn g src s
  | .shl g src => Sys2Proof.Machine.execShl g src s
  | .shr g src => Sys2Proof.Machine.execShr g src s
  | .sra g src => Sys2Proof.Machine.execSra g src s
  | .rol g src => Sys2Proof.Machine.execRol g src s
  | .clz g src => Sys2Proof.Machine.execClz g src s
  | .ctz g src => Sys2Proof.Machine.execCtz g src s
  | .popc g src => Sys2Proof.Machine.execPopc g src s
  | .min g src => Sys2Proof.Machine.execMin g src s
  | .max g src => Sys2Proof.Machine.execMax g src s
  | .minu g src => Sys2Proof.Machine.execMinu g src s
  | .maxu g src => Sys2Proof.Machine.execMaxu g src s
  | .sext8 g src => Sys2Proof.Machine.execSext8 g src s
  | .sext16 g src => Sys2Proof.Machine.execSext16 g src s
  | .sext32 g src => Sys2Proof.Machine.execSext32 g src s
  | .zext8 g src => Sys2Proof.Machine.execZext8 g src s
  | .zext16 g src => Sys2Proof.Machine.execZext16 g src s
  | .zext32 g src => Sys2Proof.Machine.execZext32 g src s
  | .bfx g src => Sys2Proof.Machine.execBfx g src s
  | .bfi g src => Sys2Proof.Machine.execBfi g src s
  | .sel g src => Sys2Proof.Machine.execSel g src s
  | .pass g src => Sys2Proof.Machine.execPass g src s
  | .ceq g src => Sys2Proof.Machine.execCeq g src s
  | .cne g src => Sys2Proof.Machine.execCne g src s
  | .clt g src => Sys2Proof.Machine.execClt g src s
  | .cltu g src => Sys2Proof.Machine.execCltu g src s
  | .cle g src => Sys2Proof.Machine.execCle g src s
  | .cleu g src => Sys2Proof.Machine.execCleu g src s
  | .ld8 g src => Sys2Proof.Machine.execLd8 g src s
  | .ld16 g src => Sys2Proof.Machine.execLd16 g src s
  | .ld32 g src => Sys2Proof.Machine.execLd32 g src s
  | .ld64 g src => Sys2Proof.Machine.execLd64 g src s
  | .ld8s g src => Sys2Proof.Machine.execLd8s g src s
  | .ld16s g src => Sys2Proof.Machine.execLd16s g src s
  | .ld32s g src => Sys2Proof.Machine.execLd32s g src s
  | .st8 g src => Sys2Proof.Machine.execSt8 g src s
  | .st16 g src => Sys2Proof.Machine.execSt16 g src s
  | .st32 g src => Sys2Proof.Machine.execSt32 g src s
  | .st64 g src => Sys2Proof.Machine.execSt64 g src s
  | .aadd g src => Sys2Proof.Machine.execAadd g src s
  | .aand g src => Sys2Proof.Machine.execAand g src s
  | .aor g src => Sys2Proof.Machine.execAor g src s
  | .axor g src => Sys2Proof.Machine.execAxor g src s
  | .amin g src => Sys2Proof.Machine.execAmin g src s
  | .amax g src => Sys2Proof.Machine.execAmax g src s
  | .aminu g src => Sys2Proof.Machine.execAminu g src s
  | .amaxu g src => Sys2Proof.Machine.execAmaxu g src s
  | .axchg g src => Sys2Proof.Machine.execAxchg g src s
  | .acas g src => Sys2Proof.Machine.execAcas g src s
  | .br g src => Sys2Proof.Machine.execBr g src s
  | .bra g src => Sys2Proof.Machine.execBra g src s
  | .call g src => Sys2Proof.Machine.execCall g src s
  | .ret g src => Sys2Proof.Machine.execRet g src s
  | .trap g src => Sys2Proof.Machine.execTrap g src s
  | .sysResume g src => Sys2Proof.Machine.execSysResume g src s
  | .sysAbort g src => Sys2Proof.Machine.execSysAbort g src s
  | .halt g src => Sys2Proof.Machine.execHalt g src s
  | .nset g src => Sys2Proof.Machine.execNset g src s
  | .nstep g src => Sys2Proof.Machine.execNstep g src s
  | .nbrk g src => Sys2Proof.Machine.execNbrk g src s
  | .sld g src => Sys2Proof.Machine.execSld g src s
  | .sst g src => Sys2Proof.Machine.execSst g src s
  | .srd g src => Sys2Proof.Machine.execSrd g src s
  | .swr g src => Sys2Proof.Machine.execSwr g src s
  | .tick g src => Sys2Proof.Machine.execTick g src s
  | .enrd g src => Sys2Proof.Machine.execEnrd g src s
  | .nxt g src => Sys2Proof.Machine.execNxt g src s
  | .post g src => Sys2Proof.Machine.execPost g src s
  | .salloc g src => Sys2Proof.Machine.execSalloc g src s
  | .sfree g src => Sys2Proof.Machine.execSfree g src s
  | .sstat g src => Sys2Proof.Machine.execSstat g src s
  | .vadd v f g src => Sys2Proof.Machine.execVadd v f g src s
  | .vsub v f g src => Sys2Proof.Machine.execVsub v f g src s
  | .vmul v f g src => Sys2Proof.Machine.execVmul v f g src s
  | .vmulh v f g src => Sys2Proof.Machine.execVmulh v f g src s
  | .vmulhu v f g src => Sys2Proof.Machine.execVmulhu v f g src s
  | .vmad v f g src => Sys2Proof.Machine.execVmad v f g src s
  | .vmin v f g src => Sys2Proof.Machine.execVmin v f g src s
  | .vmax v f g src => Sys2Proof.Machine.execVmax v f g src s
  | .vminu v f g src => Sys2Proof.Machine.execVminu v f g src s
  | .vmaxu v f g src => Sys2Proof.Machine.execVmaxu v f g src s
  | .vand v f g src => Sys2Proof.Machine.execVand v f g src s
  | .vor v f g src => Sys2Proof.Machine.execVor v f g src s
  | .vxor v f g src => Sys2Proof.Machine.execVxor v f g src s
  | .vandn v f g src => Sys2Proof.Machine.execVandn v f g src s
  | .vshl v f g src => Sys2Proof.Machine.execVshl v f g src s
  | .vshr v f g src => Sys2Proof.Machine.execVshr v f g src s
  | .vsra v f g src => Sys2Proof.Machine.execVsra v f g src s
  | .vabs v f g src => Sys2Proof.Machine.execVabs v f g src s
  | .vneg v f g src => Sys2Proof.Machine.execVneg v f g src s
  | .vclz v f g src => Sys2Proof.Machine.execVclz v f g src s
  | .vpopc v f g src => Sys2Proof.Machine.execVpopc v f g src s
  | .fadd v f g src => Sys2Proof.Machine.execFadd v f g src s
  | .fsub v f g src => Sys2Proof.Machine.execFsub v f g src s
  | .fmul v f g src => Sys2Proof.Machine.execFmul v f g src s
  | .ffma v f g src => Sys2Proof.Machine.execFfma v f g src s
  | .fnma v f g src => Sys2Proof.Machine.execFnma v f g src s
  | .fmin v f g src => Sys2Proof.Machine.execFmin v f g src s
  | .fmax v f g src => Sys2Proof.Machine.execFmax v f g src s
  | .fabs v f g src => Sys2Proof.Machine.execFabs v f g src s
  | .fneg v f g src => Sys2Proof.Machine.execFneg v f g src s
  | .frcp v f g src => Sys2Proof.Machine.execFrcp v f g src s
  | .frsq v f g src => Sys2Proof.Machine.execFrsq v f g src s
  | .fex2 v f g src => Sys2Proof.Machine.execFex2 v f g src s
  | .flg2 v f g src => Sys2Proof.Machine.execFlg2 v f g src s
  | .vceq v f g src => Sys2Proof.Machine.execVceq v f g src s
  | .vcne v f g src => Sys2Proof.Machine.execVcne v f g src s
  | .vclt v f g src => Sys2Proof.Machine.execVclt v f g src s
  | .vcle v f g src => Sys2Proof.Machine.execVcle v f g src s
  | .fceq v f g src => Sys2Proof.Machine.execFceq v f g src s
  | .fclt v f g src => Sys2Proof.Machine.execFclt v f g src s
  | .fcle v f g src => Sys2Proof.Machine.execFcle v f g src s
  | .funord v f g src => Sys2Proof.Machine.execFunord v f g src s
  | .rsum v f g src => Sys2Proof.Machine.execRsum v f g src s
  | .rmax v f g src => Sys2Proof.Machine.execRmax v f g src s
  | .rmin v f g src => Sys2Proof.Machine.execRmin v f g src s
  | .scan v f g src => Sys2Proof.Machine.execScan v f g src s
  | .vsel v g src => Sys2Proof.Machine.execVsel v g src s
  | .vmerge v g src => Sys2Proof.Machine.execVmerge v g src s
  | .cvt v g src => Sys2Proof.Machine.execCvt v g src s
  | .qnt v g src => Sys2Proof.Machine.execQnt v g src s
  | .dqt v g src => Sys2Proof.Machine.execDqt v g src s
  | .vAmax v g src => Sys2Proof.Machine.execVAmax v g src s
  | .pack v g src => Sys2Proof.Machine.execPack v g src s
  | .unpack v g src => Sys2Proof.Machine.execUnpack v g src s
  | .vrot v g src => Sys2Proof.Machine.execVrot v g src s
  | .vbcast v g src => Sys2Proof.Machine.execVbcast v g src s
  | .vext v g src => Sys2Proof.Machine.execVext v g src s
  | .vins v g src => Sys2Proof.Machine.execVins v g src s
  | .vld v g src => Sys2Proof.Machine.execVld v g src s
  | .vst v g src => Sys2Proof.Machine.execVst v g src s
  | .vlds v g src => Sys2Proof.Machine.execVlds v g src s
  | .vsts v g src => Sys2Proof.Machine.execVsts v g src s
  | .vgth v g src => Sys2Proof.Machine.execVgth v g src s
  | .vsct v g src => Sys2Proof.Machine.execVsct v g src s
  | .vsld v g src => Sys2Proof.Machine.execVsld v g src s
  | .vsst v g src => Sys2Proof.Machine.execVsst v g src s
  | .pload v g src => Sys2Proof.Machine.execPload v g src s
  | .pstore v g src => Sys2Proof.Machine.execPstore v g src s
  | .pcomp v g src => Sys2Proof.Machine.execPcomp v g src s
  | .pinv v g src => Sys2Proof.Machine.execPinv v g src s
  | .prand v g src => Sys2Proof.Machine.execPrand v g src s
  | .pid v g src => Sys2Proof.Machine.execPid v g src s
  | .ppow v g src => Sys2Proof.Machine.execPpow v g src s
  | .papply v g src => Sys2Proof.Machine.execPapply v g src s
  | .pcyc v g src => Sys2Proof.Machine.execPcyc v g src s
  | .pfix v g src => Sys2Proof.Machine.execPfix v g src s
  | .porder v g src => Sys2Proof.Machine.execPorder v g src s
  | .mand v g src => Sys2Proof.Machine.execMand v g src s
  | .mor v g src => Sys2Proof.Machine.execMor v g src s
  | .mxor v g src => Sys2Proof.Machine.execMxor v g src s
  | .mnot v g src => Sys2Proof.Machine.execMnot v g src s
  | .mcnt v g src => Sys2Proof.Machine.execMcnt v g src s
  | .mfirst v g src => Sys2Proof.Machine.execMfirst v g src s
  | .radv v g src => Sys2Proof.Machine.execRadv v g src s
  | .rpush v g src => Sys2Proof.Machine.execRpush v g src s
  | .rbind v g src => Sys2Proof.Machine.execRbind v g src s
  | .rlvl v g src => Sys2Proof.Machine.execRlvl v g src s
  | .mCall g src => Sys2Proof.Machine.execMCall g src s
  | .mload g src => Sys2Proof.Machine.execMload g src s
  | .bload g src => Sys2Proof.Machine.execBload g src s
  | .bswap g src => Sys2Proof.Machine.execBswap g src s
  | .accz g src => Sys2Proof.Machine.execAccz g src s
  | .accrel g src => Sys2Proof.Machine.execAccrel g src s
  | .mstat g src => Sys2Proof.Machine.execMstat g src s
  | .cpy u g src => Sys2Proof.Machine.execCpy u g src s
  | .cpyp u g src => Sys2Proof.Machine.execCpyp u g src s
  | .gth u g src => Sys2Proof.Machine.execGth u g src s
  | .grd u g src => Sys2Proof.Machine.execGrd u g src s
  | .sct u g src => Sys2Proof.Machine.execSct u g src s
  | .mcast u g src => Sys2Proof.Machine.execMcast u g src s
  | .tatom u g src => Sys2Proof.Machine.execTatom u g src s
  | .topk u g src => Sys2Proof.Machine.execTopk u g src s
  | .cSub u g src => Sys2Proof.Machine.execCSub u g src s
  | .unsub u g src => Sys2Proof.Machine.execUnsub u g src s
  | .stouch u g src => Sys2Proof.Machine.execStouch u g src s
  | .spush u g src => Sys2Proof.Machine.execSpush u g src s
  | .bclose u g src => Sys2Proof.Machine.execBclose u g src s
  | .waitb u g src => Sys2Proof.Machine.execWaitb u g src s
  | .tstat u g src => Sys2Proof.Machine.execTstat u g src s
  | .rtcfg u g src => Sys2Proof.Machine.execRtcfg u g src s
  | .rtgo u g src => Sys2Proof.Machine.execRtgo u g src s
  | .rtstat u g src => Sys2Proof.Machine.execRtstat u g src s
  | .rtinv u g src => Sys2Proof.Machine.execRtinv u g src s
  | .rtfree u g src => Sys2Proof.Machine.execRtfree u g src s
  | .lsend u g src => Sys2Proof.Machine.execLsend u g src s
  | .lrecv u g src => Sys2Proof.Machine.execLrecv u g src s
  | .lred u g src => Sys2Proof.Machine.execLred u g src s
  | .coll u g src => Sys2Proof.Machine.execColl u g src s
  | .pmget u g src => Sys2Proof.Machine.execPmget u g src s
  | .pmret u g src => Sys2Proof.Machine.execPmret u g src s
  | .arrive u g src => Sys2Proof.Machine.execArrive u g src s
  | .expect u g src => Sys2Proof.Machine.execExpect u g src s
  | .bwait u g src => Sys2Proof.Machine.execBwait u g src s
  | .depset u g src => Sys2Proof.Machine.execDepset u g src s
  | .depdec u g src => Sys2Proof.Machine.execDepdec u g src s
  | .drainC u g src => Sys2Proof.Machine.execDrainC u g src s
  | .drainD u g src => Sys2Proof.Machine.execDrainD u g src s
  | .drainP u g src => Sys2Proof.Machine.execDrainP u g src s
  | .drainF u g src => Sys2Proof.Machine.execDrainF u g src s
  | .fence u g src => Sys2Proof.Machine.execFence u g src s
  | .bkseg u g src => Sys2Proof.Machine.execBkseg u g src s
  | .bkwin u g src => Sys2Proof.Machine.execBkwin u g src s
  | .bklink u g src => Sys2Proof.Machine.execBklink u g src s
  | .tsub u g src => Sys2Proof.Machine.execTsub u g src s
  | .calq u g src => Sys2Proof.Machine.execCalq u g src s
  | .microNop cond cl => Sys2Proof.Machine.execMicroNop cond cl s
  | .aget f1 f2 imm cond cl => Sys2Proof.Machine.execAget f1 f2 imm cond cl s
  | .waitt imm cond cl => Sys2Proof.Machine.execWaitt imm cond cl s
  | .stream f1 f2 imm cond cl => Sys2Proof.Machine.execStream f1 f2 imm cond cl s
  | .accw f1 f2 imm cond cl => Sys2Proof.Machine.execAccw f1 f2 imm cond cl s
  | .accadd f1 f2 imm cond cl => Sys2Proof.Machine.execAccadd f1 f2 imm cond cl s
  | .escale f1 f2 cond cl => Sys2Proof.Machine.execEscale f1 f2 cond cl s
  | .ebias f1 f2 cond cl => Sys2Proof.Machine.execEbias f1 f2 cond cl s
  | .eact imm cond cl => Sys2Proof.Machine.execEact imm cond cl s
  | .eqnt f1 imm cond cl => Sys2Proof.Machine.execEqnt f1 imm cond cl s
  | .estore f1 f2 imm cond cl => Sys2Proof.Machine.execEstore f1 f2 imm cond cl s
  | .sig imm cond cl => Sys2Proof.Machine.execSig imm cond cl s
  | .bflip cond cl => Sys2Proof.Machine.execBflip cond cl s
  | .mloop f1 imm cond cl => Sys2Proof.Machine.execMloop f1 imm cond cl s
  | .mjmp imm cond cl => Sys2Proof.Machine.execMjmp imm cond cl s
  | .mparm f1 f2 imm cond cl => Sys2Proof.Machine.execMparm f1 f2 imm cond cl s
  | .mend cond cl => Sys2Proof.Machine.execMend cond cl s
  | .bundleIssue => Sys2Proof.Machine.execBundleIssue s
  | .saveComplete => Sys2Proof.Machine.execSaveComplete s
  | .mloadComplete => Sys2Proof.Machine.execMloadComplete s
  | .bloadComplete => Sys2Proof.Machine.execBloadComplete s
  | .bswapExecute => Sys2Proof.Machine.execBswapExecute s
  | .acczExecute => Sys2Proof.Machine.execAcczExecute s
  | .accrelExecute => Sys2Proof.Machine.execAccrelExecute s
  | .callDispatch => Sys2Proof.Machine.execCallDispatch s
  | .agetFillDone slot => Sys2Proof.Machine.execAgetFillDone slot s
  | .routineRestart => Sys2Proof.Machine.execRoutineRestart s
  | .rampDownStep => Sys2Proof.Machine.execRampDownStep s
  | .commandStart u => Sys2Proof.Machine.execCommandStart u s
  | .copyElement u id => Sys2Proof.Machine.execCopyElement u id s
  | .commandComplete u id => Sys2Proof.Machine.execCommandComplete u id s
  | .engineResume u id => Sys2Proof.Machine.execEngineResume u id s
  | .subPush u sid => Sys2Proof.Machine.execSubPush u sid s
  | .subReturn u sid => Sys2Proof.Machine.execSubReturn u sid s
  | .signalApply cid clu n which => Sys2Proof.Machine.execSignalApply cid clu n which s
  | .depidRead cid task => Sys2Proof.Machine.execDepidRead cid task s
  | .packageForward tenant => Sys2Proof.Machine.execPackageForward tenant s
  | .dispatch clu tenant => Sys2Proof.Machine.execDispatch clu tenant s
  | .dispenserServe cid disp => Sys2Proof.Machine.execDispenserServe cid disp s
  | .taskRetire cid task => Sys2Proof.Machine.execTaskRetire cid task s
  | .quantumBoundary => Sys2Proof.Machine.execQuantumBoundary s
  | .frameBoundary fin => Sys2Proof.Machine.execFrameBoundary fin s
  | .permitExpire cid pmt => Sys2Proof.Machine.execPermitExpire cid pmt s
  | .timedClearStart cid task => Sys2Proof.Machine.execTimedClearStart cid task s
  | .timedTaskStart cid task => Sys2Proof.Machine.execTimedTaskStart cid task s
  | .windowEnd => Sys2Proof.Machine.execWindowEnd s
  | .pushComplete cid seg => Sys2Proof.Machine.execPushComplete cid seg s
  | .segmentMoveComplete cid seg => Sys2Proof.Machine.execSegmentMoveComplete cid seg s
  | .recallComplete cid seg bad => Sys2Proof.Machine.execRecallComplete cid seg bad s
  | .hazelWaitRetry cid => Sys2Proof.Machine.execHazelWaitRetry cid s
  | .softError cid seg granule => Sys2Proof.Machine.execSoftError cid seg granule s
  | .evictionComplete tid page => Sys2Proof.Machine.execEvictionComplete tid page s
  | .fetchComplete tid page ok => Sys2Proof.Machine.execFetchComplete tid page ok s
  | .poolRetry tid page => Sys2Proof.Machine.execPoolRetry tid page s
  | .tsplitDone tid lpage => Sys2Proof.Machine.execTsplitDone tid lpage s
  | .ganderElement die slot => Sys2Proof.Machine.execGanderElement die slot s
  | .rowPacketReceive die => Sys2Proof.Machine.execRowPacketReceive die s
  | .pullReceive die => Sys2Proof.Machine.execPullReceive die s
  | .retPacketReceive die => Sys2Proof.Machine.execRetPacketReceive die s
  | .freeReceive die => Sys2Proof.Machine.execFreeReceive die s
  | .freeAckReceive die => Sys2Proof.Machine.execFreeAckReceive die s
  | .permitRequestReceive p => Sys2Proof.Machine.execPermitRequestReceive p s
  | .permitAnswerReceive cid pmt granted => Sys2Proof.Machine.execPermitAnswerReceive cid pmt granted s
  | .flitReceive link f => Sys2Proof.Machine.execFlitReceive link f s
  | .replayRequest link seq => Sys2Proof.Machine.execReplayRequest link seq s
  | .timeBeacon link frame phase => Sys2Proof.Machine.execTimeBeacon link frame phase s
  | .linkTrainingDone link ok ld peer => Sys2Proof.Machine.execLinkTrainingDone link ok ld peer s
  | .schedSend u id => Sys2Proof.Machine.execSchedSend u id s
  | .schedDeadline u id => Sys2Proof.Machine.execSchedDeadline u id s
  | .schedUnclaimed link idx => Sys2Proof.Machine.execSchedUnclaimed link idx s
  | .collStep u id p => Sys2Proof.Machine.execCollStep u id p s
  | .contextCreate cid tenant => Sys2Proof.Machine.execContextCreate cid tenant s
  | .contextDestroy cid => Sys2Proof.Machine.execContextDestroy cid s
  | .contextDestroyed cid => Sys2Proof.Machine.execContextDestroyed cid s
  | .preempt cid => Sys2Proof.Machine.execPreempt cid s
  | .hostResume cid task => Sys2Proof.Machine.execHostResume cid task s
  | .hostAbort cid task => Sys2Proof.Machine.execHostAbort cid task s
  | .kload cid img => Sys2Proof.Machine.execKload cid img s
  | .klaunch cid params => Sys2Proof.Machine.execKlaunch cid params s
  | .kunload cid => Sys2Proof.Machine.execKunload cid s
  | .qpush tenant queue card => Sys2Proof.Machine.execQpush tenant queue card s
  | .dspcfg cid disp count width => Sys2Proof.Machine.execDspcfg cid disp count width s
  | .ttw tid page entry guest => Sys2Proof.Machine.execTtw tid page entry guest s
  | .tsplit tid lpage => Sys2Proof.Machine.execTsplit tid lpage s
  | .dswap lp => Sys2Proof.Machine.execDswap lp s
  | .mgmtPload tid page frame => Sys2Proof.Machine.execMgmtPload tid page frame s
  | .poolcfg size floors => Sys2Proof.Machine.execPoolcfg size floors s
  | .lenable link => Sys2Proof.Machine.execLenable link s
  | .ldisable link => Sys2Proof.Machine.execLdisable link s
  | .lclr link => Sys2Proof.Machine.execLclr link s
  | .collcfg tenant grp members => Sys2Proof.Machine.execCollcfg tenant grp members s
  | .pmcfg cid pool => Sys2Proof.Machine.execPmcfg cid pool s
  | .preset part => Sys2Proof.Machine.execPreset part s
  | .pwrcap cap floor => Sys2Proof.Machine.execPwrcap cap floor s
  | .attest nonce => Sys2Proof.Machine.execAttest nonce s
  | .fwload image owner => Sys2Proof.Machine.execFwload image owner s
  | .mrd net sp off len => Sys2Proof.Machine.execMrd net sp off len s
  | .mwr net sp off data => Sys2Proof.Machine.execMwr net sp off data s
  | .frheadWrite cid frhead frseg frdepth => Sys2Proof.Machine.execFrheadWrite cid frhead frseg frdepth s
  | .powerGood => Sys2Proof.Machine.execPowerGood s
  | .clusterStart clu => Sys2Proof.Machine.execClusterStart clu s
  | .selftestDone clu ok => Sys2Proof.Machine.execSelftestDone clu ok s
  | .hbmTrainingDone stack ok => Sys2Proof.Machine.execHbmTrainingDone stack ok s
  | .powerLost => Sys2Proof.Machine.execPowerLost s
  | .partitionCreate p => Sys2Proof.Machine.execPartitionCreate p s
  | .tensorDescriptorWrite tid d guest => Sys2Proof.Machine.execTensorDescriptorWrite tid d guest s
  | .permitReturnReceive p => Sys2Proof.Machine.execPermitReturnReceive p s
  | .remoteBwaitAnswer u id => Sys2Proof.Machine.execRemoteBwaitAnswer u id s
  | .descriptorCacheFill seg => Sys2Proof.Machine.execDescriptorCacheFill seg s
  | .overlayRegionReload region => Sys2Proof.Machine.execOverlayRegionReload region s

end Sys2Proof.Machine
end

