-- ==== Sys2Proof/Machine/Place.lean ====
section
/-! DEFINITION. How a program comes to stand at the pc from outside (log 8): what KLOAD, KLAUNCH and a dispatch would have
done, with one bundle. -/

namespace Sys2Proof.Machine

/-- A context with the full allocation (R40, R267), running, whose group is the one core (R275). -/
def placedCtx (core : Nat) : Ctx :=
  { state := .running, rega := 320, regb := 320, regs := 64, quota := Config.storeGranules, kgroup := true,
    group := { d := 1, c := 1, k := 1, map := [(0, core)] } }

/-- The core at the bundle about to be issued: its task runs, nothing holds it, and no mark is outstanding. -/
def CoreSt.placed (c : CoreSt) (b : BitVec 256) : CoreSt :=
  { c with run := .running, ended := false, task := {}, istore := sset fillBundle c.istore c.pc b, reload := [], fill := [],
           gates := [], nxts := [], latch := [], owner := some 0 }

/-- The bundle that holds the table's word in the slot it stands in, under the all-zero header (R46, log 8). -/
def wordBundle (nbits w : Nat) : BitVec 256 :=
  if nbits = 24 then bundleWith 0 (tableSlot (BitVec.ofNat 24 w)) (BitVec.ofNat 24 w) else 0

def State.placeWord (s : State) (nbits w : Nat) : State :=
  { s with core := s.core.placed (wordBundle nbits w), agenda := [], ctxs := aput s.ctxs 0 (placedCtx s.cur) }

end Sys2Proof.Machine
end

