-- ==== Sys2Proof/Machine/Step.lean ====
section
/-! DEFINITION. One step of the package: the next turn of the agenda, seen from a core; with no agenda, the core in focus
tries to issue its next bundle. The agenda says which agent moves next; the spec leaves that open (log 6). -/

namespace Sys2Proof.Machine

/-- The rows that are moves: a bundle issues them, the agenda does not (R45). -/
def isMove (i : Instr) : Bool :=
  match i with
  | .nop => true
  | _ => (moveFields i).isSome

/-- The state in which a turn of core c begins. -/
def State.turn (s : State) (c : Nat) (rest : List Turn) : State :=
  { ({ s with agenda := rest, turns := s.turns + 1 } : State).focus c with status := none, out := [] }

def step (s : State) : Host.Outcome State Fault Refusal :=
  match s.agenda with
  | [] => exec .bundleIssue { s with turns := s.turns + 1 }
  | .core c :: rest => if c < Config.cores then exec .bundleIssue (s.turn c rest) else .fault .noSuchCore
  | .event c i :: rest =>
    if c < Config.cores then (if isMove i then .next (s.turn c rest) else exec i (s.turn c rest)) else .fault .noSuchCore

/-- `s` with the move of the table's word in the slot it stands in, as the next bundle of the core in focus: nothing else
on the agenda, the core running a task of context 0 that has every register (log 8). -/
def State.withFetchWord (s : State) (nbits w : Nat) : State := s.placeWord nbits w

end Sys2Proof.Machine
end

