-- ==== Sys2Proof/WellFormed.lean ====
section
/-! DEFINITION. Which terms of Instr are instructions: a move's destination has to be one that its constructor may carry, a
micro-op's fields within R225, a turn's numbers within the widths of R10, R94, R111, R132, R259, R264, R338, R351. -/

namespace Sys2Proof

/-- The fields of the all-zero move, which is the no-op of every slot (R69). -/
def zeroMove (g : Guard) (dst : DstNum) (src : Src) : Bool := g = 0 && dst = 0 && src = 0

/-- `move` carries a register of the domain's own file, or m0 to m7 in slot M (R53, R55). -/
def wfMove (d : Dom) (g : Guard) (dst : DstNum) (src : Src) : Bool :=
  (ownFile d dst.toNat || (d = .m && decide (708 ≤ dst.toNat) && decide (dst.toNat ≤ 715))) && !zeroMove g dst src

def Instr.wf (i : Instr) : Bool :=
  match i with
  | .nop => true
  | .move sl g dst src => wfMove sl g dst src
  | .transfer _ g dst src => decide (dst.toNat < 826) && !zeroMove g dst src
  | .o0Append _ _ _ => true
  | .o1Append _ _ _ => true
  | .rtWrite _ _ _ => true
  | .mkWrite _ _ _ => true
  | .dixWrite _ _ _ => true
  | .dwr _ _ _ => true
  | .spx _ _ _ => true
  | .spd _ _ _ => true
  | .add _ _ => true
  | .sub _ _ => true
  | .mul _ _ => true
  | .mulh _ _ => true
  | .mulhu _ _ => true
  | .div _ _ => true
  | .divu _ _ => true
  | .rem _ _ => true
  | .remu _ _ => true
  | .and _ _ => true
  | .or _ _ => true
  | .xor _ _ => true
  | .andn _ _ => true
  | .orn _ _ => true
  | .shl _ _ => true
  | .shr _ _ => true
  | .sra _ _ => true
  | .rol _ _ => true
  | .clz _ _ => true
  | .ctz _ _ => true
  | .popc _ _ => true
  | .min _ _ => true
  | .max _ _ => true
  | .minu _ _ => true
  | .maxu _ _ => true
  | .sext8 _ _ => true
  | .sext16 _ _ => true
  | .sext32 _ _ => true
  | .zext8 _ _ => true
  | .zext16 _ _ => true
  | .zext32 _ _ => true
  | .bfx _ _ => true
  | .bfi _ _ => true
  | .sel _ _ => true
  | .pass _ _ => true
  | .ceq _ _ => true
  | .cne _ _ => true
  | .clt _ _ => true
  | .cltu _ _ => true
  | .cle _ _ => true
  | .cleu _ _ => true
  | .ld8 _ _ => true
  | .ld16 _ _ => true
  | .ld32 _ _ => true
  | .ld64 _ _ => true
  | .ld8s _ _ => true
  | .ld16s _ _ => true
  | .ld32s _ _ => true
  | .st8 _ _ => true
  | .st16 _ _ => true
  | .st32 _ _ => true
  | .st64 _ _ => true
  | .aadd _ _ => true
  | .aand _ _ => true
  | .aor _ _ => true
  | .axor _ _ => true
  | .amin _ _ => true
  | .amax _ _ => true
  | .aminu _ _ => true
  | .amaxu _ _ => true
  | .axchg _ _ => true
  | .acas _ _ => true
  | .br _ _ => true
  | .bra _ _ => true
  | .call _ _ => true
  | .ret _ _ => true
  | .trap _ _ => true
  | .sysResume _ src => !sysIsAbort src
  | .sysAbort _ src => sysIsAbort src
  | .halt _ _ => true
  | .nset _ _ => true
  | .nstep _ _ => true
  | .nbrk _ _ => true
  | .sld _ _ => true
  | .sst _ _ => true
  | .srd _ _ => true
  | .swr _ _ => true
  | .tick _ _ => true
  | .enrd _ _ => true
  | .nxt _ _ => true
  | .post _ _ => true
  | .salloc _ _ => true
  | .sfree _ _ => true
  | .sstat _ _ => true
  | .vadd _ _ _ _ => true
  | .vsub _ _ _ _ => true
  | .vmul _ _ _ _ => true
  | .vmulh _ _ _ _ => true
  | .vmulhu _ _ _ _ => true
  | .vmad _ _ _ _ => true
  | .vmin _ _ _ _ => true
  | .vmax _ _ _ _ => true
  | .vminu _ _ _ _ => true
  | .vmaxu _ _ _ _ => true
  | .vand _ _ _ _ => true
  | .vor _ _ _ _ => true
  | .vxor _ _ _ _ => true
  | .vandn _ _ _ _ => true
  | .vshl _ _ _ _ => true
  | .vshr _ _ _ _ => true
  | .vsra _ _ _ _ => true
  | .vabs _ _ _ _ => true
  | .vneg _ _ _ _ => true
  | .vclz _ _ _ _ => true
  | .vpopc _ _ _ _ => true
  | .fadd _ _ _ _ => true
  | .fsub _ _ _ _ => true
  | .fmul _ _ _ _ => true
  | .ffma _ _ _ _ => true
  | .fnma _ _ _ _ => true
  | .fmin _ _ _ _ => true
  | .fmax _ _ _ _ => true
  | .fabs _ _ _ _ => true
  | .fneg _ _ _ _ => true
  | .frcp _ _ _ _ => true
  | .frsq _ _ _ _ => true
  | .fex2 _ _ _ _ => true
  | .flg2 _ _ _ _ => true
  | .vceq _ _ _ _ => true
  | .vcne _ _ _ _ => true
  | .vclt _ _ _ _ => true
  | .vcle _ _ _ _ => true
  | .fceq _ _ _ _ => true
  | .fclt _ _ _ _ => true
  | .fcle _ _ _ _ => true
  | .funord _ _ _ _ => true
  | .rsum _ _ _ _ => true
  | .rmax _ _ _ _ => true
  | .rmin _ _ _ _ => true
  | .scan _ _ _ _ => true
  | .vsel _ _ _ => true
  | .vmerge _ _ _ => true
  | .cvt _ _ _ => true
  | .qnt _ _ _ => true
  | .dqt _ _ _ => true
  | .vAmax _ _ _ => true
  | .pack _ _ _ => true
  | .unpack _ _ _ => true
  | .vrot _ _ _ => true
  | .vbcast _ _ _ => true
  | .vext _ _ _ => true
  | .vins _ _ _ => true
  | .vld _ _ _ => true
  | .vst _ _ _ => true
  | .vlds _ _ _ => true
  | .vsts _ _ _ => true
  | .vgth _ _ _ => true
  | .vsct _ _ _ => true
  | .vsld _ _ _ => true
  | .vsst _ _ _ => true
  | .pload _ _ _ => true
  | .pstore _ _ _ => true
  | .pcomp _ _ _ => true
  | .pinv _ _ _ => true
  | .prand _ _ _ => true
  | .pid _ _ _ => true
  | .ppow _ _ _ => true
  | .papply _ _ _ => true
  | .pcyc _ _ _ => true
  | .pfix _ _ _ => true
  | .porder _ _ _ => true
  | .mand _ _ _ => true
  | .mor _ _ _ => true
  | .mxor _ _ _ => true
  | .mnot _ _ _ => true
  | .mcnt _ _ _ => true
  | .mfirst _ _ _ => true
  | .radv _ _ _ => true
  | .rpush _ _ _ => true
  | .rbind _ _ _ => true
  | .rlvl _ _ _ => true
  | .mCall _ _ => true
  | .mload _ _ => true
  | .bload _ _ => true
  | .bswap _ _ => true
  | .accz _ _ => true
  | .accrel _ _ => true
  | .mstat _ _ => true
  | .cpy _ _ _ => true
  | .cpyp _ _ _ => true
  | .gth _ _ _ => true
  | .grd _ _ _ => true
  | .sct _ _ _ => true
  | .mcast _ _ _ => true
  | .tatom _ _ _ => true
  | .topk _ _ _ => true
  | .cSub _ _ _ => true
  | .unsub _ _ _ => true
  | .stouch _ _ _ => true
  | .spush _ _ _ => true
  | .bclose _ _ _ => true
  | .waitb _ _ _ => true
  | .tstat _ _ _ => true
  | .rtcfg _ _ _ => true
  | .rtgo _ _ _ => true
  | .rtstat _ _ _ => true
  | .rtinv _ _ _ => true
  | .rtfree _ _ _ => true
  | .lsend _ _ _ => true
  | .lrecv _ _ _ => true
  | .lred _ _ _ => true
  | .coll _ _ _ => true
  | .pmget _ _ _ => true
  | .pmret _ _ _ => true
  | .arrive _ _ _ => true
  | .expect _ _ _ => true
  | .bwait _ _ _ => true
  | .depset _ _ _ => true
  | .depdec _ _ _ => true
  | .drainC _ _ _ => true
  | .drainD _ _ _ => true
  | .drainP _ _ _ => true
  | .drainF _ _ _ => true
  | .fence _ _ _ => true
  | .bkseg _ _ _ => true
  | .bkwin _ _ _ => true
  | .bklink _ _ _ => true
  | .tsub _ _ _ => true
  | .calq _ _ _ => true
  | .microNop cond cl => MicroWord.ok ⟨0, 0, 0, 0, cond, cl⟩
  | .aget f1 f2 imm cond cl => MicroWord.ok ⟨1, f1, f2, imm, cond, cl⟩
  | .waitt imm cond cl => MicroWord.ok ⟨2, 0, 0, imm, cond, cl⟩
  | .stream f1 f2 imm cond cl => MicroWord.ok ⟨3, f1, f2, imm, cond, cl⟩
  | .accw f1 f2 imm cond cl => MicroWord.ok ⟨4, f1, f2, imm, cond, cl⟩
  | .accadd f1 f2 imm cond cl => MicroWord.ok ⟨5, f1, f2, imm, cond, cl⟩
  | .escale f1 f2 cond cl => MicroWord.ok ⟨6, f1, f2, 0, cond, cl⟩
  | .ebias f1 f2 cond cl => MicroWord.ok ⟨7, f1, f2, 0, cond, cl⟩
  | .eact imm cond cl => MicroWord.ok ⟨8, 0, 0, imm, cond, cl⟩
  | .eqnt f1 imm cond cl => MicroWord.ok ⟨9, f1, 0, imm, cond, cl⟩
  | .estore f1 f2 imm cond cl => MicroWord.ok ⟨10, f1, f2, imm, cond, cl⟩
  | .sig imm cond cl => MicroWord.ok ⟨11, 0, 0, imm, cond, cl⟩
  | .bflip cond cl => MicroWord.ok ⟨12, 0, 0, 0, cond, cl⟩
  | .mloop f1 imm cond cl => MicroWord.ok ⟨13, f1, 0, imm, cond, cl⟩
  | .mjmp imm cond cl => MicroWord.ok ⟨14, 0, 0, imm, cond, cl⟩
  | .mparm f1 f2 imm cond cl => MicroWord.ok ⟨15, f1, f2, imm, cond, cl⟩
  | .mend cond cl => MicroWord.ok ⟨16, 0, 0, 0, cond, cl⟩
  | .bundleIssue => true
  | .saveComplete => true
  | .mloadComplete => true
  | .bloadComplete => true
  | .bswapExecute => true
  | .acczExecute => true
  | .accrelExecute => true
  | .callDispatch => true
  | .agetFillDone slot => decide (slot < 4)
  | .routineRestart => true
  | .rampDownStep => true
  | .commandStart _ => true
  | .copyElement _ _ => true
  | .commandComplete _ _ => true
  | .engineResume _ _ => true
  | .subPush _ sid => decide (sid < 8)
  | .subReturn _ sid => decide (sid < 8)
  | .signalApply cid clu n _ => decide (cid < 1024) && decide (clu < 64) && decide (n < 4096)
  | .depidRead cid task => decide (cid < 1024) && decide (task < 2 ^ 32)
  | .packageForward tenant => decide (tenant < 16)
  | .dispatch clu tenant => decide (clu < 64) && decide (tenant < 16)
  | .dispenserServe cid disp => decide (cid < 1024) && decide (disp < 16)
  | .taskRetire cid task => decide (cid < 1024) && decide (task < 2 ^ 32)
  | .quantumBoundary => true
  | .frameBoundary _ => true
  | .permitExpire cid pmt => decide (cid < 1024) && decide (pmt < 256)
  | .timedClearStart cid task => decide (cid < 1024) && decide (task < 2 ^ 32)
  | .timedTaskStart cid task => decide (cid < 1024) && decide (task < 2 ^ 32)
  | .windowEnd => true
  | .pushComplete cid seg => decide (cid < 1024) && decide (seg < 4096)
  | .segmentMoveComplete cid seg => decide (cid < 1024) && decide (seg < 4096)
  | .recallComplete cid seg bad => decide (cid < 1024) && decide (seg < 4096) && bad.all (fun g => decide (g < 393216))
  | .hazelWaitRetry cid => decide (cid < 1024)
  | .softError cid seg granule => decide (cid < 1024) && decide (seg < 4096) && decide (granule < 393216)
  | .evictionComplete tid page => decide (tid < 65536) && decide (page < 2 ^ 32)
  | .fetchComplete tid page _ => decide (tid < 65536) && decide (page < 2 ^ 32)
  | .poolRetry tid page => decide (tid < 65536) && decide (page < 2 ^ 32)
  | .tsplitDone tid _ => decide (tid < 65536)
  | .ganderElement die slot => decide (die < 4) && decide (slot < 16)
  | .rowPacketReceive die => decide (die < 4)
  | .pullReceive die => decide (die < 4)
  | .retPacketReceive die => decide (die < 4)
  | .freeReceive die => decide (die < 4)
  | .freeAckReceive die => decide (die < 4)
  | .permitRequestReceive _ => true
  | .permitAnswerReceive cid pmt _ => decide (cid < 1024) && decide (pmt < 2 ^ 24)
  | .flitReceive link _ => decide (link < 24)
  | .replayRequest link _ => decide (link < 24)
  | .timeBeacon link _ _ => decide (link < 24)
  | .linkTrainingDone link _ _ _ => decide (link < 24)
  | .schedSend _ _ => true
  | .schedDeadline _ _ => true
  | .schedUnclaimed link _ => decide (link < 24)
  | .collStep _ _ _ => true
  | .contextCreate cid tenant => decide (cid < 1024) && decide (tenant < 16)
  | .contextDestroy cid => decide (cid < 1024)
  | .contextDestroyed cid => decide (cid < 1024)
  | .preempt cid => decide (cid < 1024)
  | .hostResume cid _ => decide (cid < 1024)
  | .hostAbort cid _ => decide (cid < 1024)
  | .kload cid _ => decide (cid < 1024)
  | .klaunch cid _ => decide (cid < 1024)
  | .kunload cid => decide (cid < 1024)
  | .qpush tenant queue _ => decide (tenant < 16) && decide (queue < 16)
  | .dspcfg cid disp _ _ => decide (cid < 1024) && decide (disp < 16)
  | .ttw tid page _ _ => decide (tid < 65536) && decide (page < 2 ^ 32)
  | .tsplit tid _ => decide (tid < 65536)
  | .dswap _ => true
  | .mgmtPload tid page _ => decide (tid < 65536) && decide (page < 2 ^ 32)
  | .poolcfg _ _ => true
  | .lenable link => decide (link < 24)
  | .ldisable link => decide (link < 24)
  | .lclr link => decide (link < 24)
  | .collcfg tenant grp _ => decide (tenant < 16) && decide (grp < 64)
  | .pmcfg cid _ => decide (cid < 1024)
  | .preset _ => true
  | .pwrcap _ _ => true
  | .attest _ => true
  | .fwload _ _ => true
  | .mrd _ _ _ _ => true
  | .mwr _ _ _ _ => true
  | .frheadWrite cid _ _ _ => decide (cid < 1024)
  | .powerGood => true
  | .clusterStart clu => decide (clu < 64)
  | .selftestDone clu _ => decide (clu < 64)
  | .hbmTrainingDone stack _ => decide (stack < 8)
  | .powerLost => true
  | .partitionCreate _ => true
  | .tensorDescriptorWrite tid _ _ => decide (tid < 65536)
  | .permitReturnReceive _ => true
  | .remoteBwaitAnswer _ _ => true
  | .descriptorCacheFill seg => decide (seg < 4096)
  | .overlayRegionReload region => decide (region < 16)

end Sys2Proof
end

