-- ==== Sys2Proof/Safety.lean ====
section
/-! DEFINITION. What counts as a safe run, and the words the claims use: when a move reads its source, when a trigger may run,
the canonical form that every step keeps. -/

namespace Sys2Proof.Machine

/-! ### Safe runs -/

/-- A turn that names a core the package has (R2, R10) and a well-formed instruction. -/
def Turn.ok : Turn → Bool
  | .core c => decide (c < Config.cores)
  | .event c i => decide (c < Config.cores) && i.wf

/-- The next turn is one the package can take. -/
def State.safe (s : State) : Bool :=
  match s.agenda with
  | [] => true
  | t :: _ => t.ok

/-- The invariant of every step: memory in its canonical form (log 2). -/
def State.Inv (s : State) : Prop := s.mem.wf = true

/-! ### Moves -/

/-- The head of an input file (R17). -/
def State.o0 (s : State) (d : Dom) : Val := (s.core.input d false).head s.core.issued

def State.o1 (s : State) (d : Dom) : Val := (s.core.input d true).head s.core.issued

/-- The guard of the move is true and its source reads as `v`, touching the segments `t` (R52 to R59). -/
def State.Reads (s : State) (sl : Slot) (g : Guard) (src : Src) (vector : Bool) (v : Val) (t : List Nat) : Prop :=
  s.core.guard g.toNat = true ∧ ∃ k, srcKind sl src = some k ∧ s.readSrc k vector = .val v t

/-- A trigger of domain `d` may run (R18, R19, R22): its source reads as `v`, and, where it delivers after `lat` bundles, no other
result of the domain lands in that bundle and the target that rt names can be reached. -/
def State.Ready (s : State) (d : Dom) (g : Guard) (src : Src) (lat : Option Nat) (v : Val) (t : List Nat) : Prop :=
  match lat with
  | none => s.Reads d.slot g src d.vu?.isSome v t
  | some l =>
    s.core.collides d (s.core.issued + l) = false ∧
      ∃ w t1 t2, s.Reads d.slot g src d.vu?.isSome v t1 ∧ s.checkTarget (s.core.rtOf d) = .val w t2 ∧ t = t1 ++ t2

/-- The state with more staged effects, and nothing else changed. -/
def State.plus (s : State) (es : List Eff) : State := { s with core := { s.core with staged := s.core.staged ++ es } }

/-- The move took a fault or has to wait: its bundle does not execute. -/
def State.stopped (s : State) : Bool := s.core.raised.isSome || s.core.held

/-- What a run of moves makes of a bundle: slot 0 upward, each by `exec`, until one raises or holds (R70). -/
def State.execSlots (b : BitVec 256) (s : State) : State :=
  s.runSlots (fun i s =>
    match exec i s with
    | .next t => t
    | _ => s) b

/-! ### What a move that runs stages (R13, R16 to R18, R206) -/

/-- A result bound for a tail port reserves the entry it will land in (R206). -/
def State.reserve (s : State) (rt : W16) : List Eff :=
  if rtKind rt = 4 then
    match s.core.tailRing (rtIdx rt) with
    | some (q, _) => [Eff.ringInfl q]
    | none => []
  else []

/-- What an operation delivers: res, res2, flags, what it does at its result bundle, and what else it stages. -/
structure Out where
  val  : Val
  val2 : Option Val := none
  fl   : BitVec 11 := 0
  mask : Option Mask := none
  mem  : Bool := false
  act  : LandAct := .none
  more : List Eff := []

/-- A scalar on res and at rt. -/
def Out.sc (x : W64) : Out := { val := .sc x }

/-- A scalar that a condition gives: 1 or 0 (R151). -/
def Out.flag (c : Prop) [Decidable c] : Out := { val := .sc (if c then 1 else 0) }

/-- A vector on res and at rt. -/
def Out.vec (v : Vec) (fl : BitVec 11 := 0) : Out := { val := .vec v, fl := fl }

/-- The effects of a trigger that delivers: the heads it read become read, its result is on its way to rt. -/
def State.land (s : State) (tr : Trig) (lat : Nat) (o : Out) : List Eff :=
  tr.took ++
    [Eff.result { due := tr.now + lat, trig := tr.now, dom := tr.dom, val := o.val, val2 := o.val2, rt := tr.rt,
                  mask := o.mask.getD tr.mask, flags := o.fl, mem := o.mem, act := o.act }] ++
    s.reserve tr.rt ++ o.more

/-- `mk` completes: with a true guard and a readable source, where no result of its domain lands in the same bundle and rt's
target can be reached, it delivers `o` after `lat` bundles and changes nothing else. -/
def Delivers (d : Dom) (mk : Guard → Src → Instr) (reads lat : Nat) (o : State → Trig → Out) : Prop :=
  ∀ (s : State) (g : Guard) (src : Src) (v : Val) (t : List Nat), s.Ready d g src (some lat) v t →
    exec (mk g src) s = .next (s.plus (s.land (s.trigAt d v t reads) lat (o s (s.trigAt d v t reads))))

/-- The same where a condition on what was sampled holds. -/
def DeliversIf (d : Dom) (mk : Guard → Src → Instr) (reads lat : Nat) (p : State → Trig → Prop) (o : State → Trig → Out) : Prop :=
  ∀ (s : State) (g : Guard) (src : Src) (v : Val) (t : List Nat), s.Ready d g src (some lat) v t →
    p s (s.trigAt d v t reads) →
    exec (mk g src) s = .next (s.plus (s.land (s.trigAt d v t reads) lat (o s (s.trigAt d v t reads))))

/-- A trigger that delivers nothing: where the condition holds it stages `es` and changes nothing else. -/
def Stages (d : Dom) (mk : Guard → Src → Instr) (reads : Nat) (p : State → Trig → Prop) (es : State → Trig → List Eff) : Prop :=
  ∀ (s : State) (g : Guard) (src : Src) (v : Val) (t : List Nat), s.Ready d g src none v t →
    p s (s.trigAt d v t reads) →
    exec (mk g src) s = .next (s.plus ((s.trigAt d v t reads).took ++ es s (s.trigAt d v t reads)))

/-- Where the condition holds the move takes a fault, and its bundle does not execute (R68). -/
def Raises (d : Dom) (mk : Guard → Src → Instr) (reads : Nat) (lat : Option Nat) (p : State → Trig → Prop)
    (f : State → Trig → FaultInfo) : Prop :=
  ∀ (s : State) (g : Guard) (src : Src) (v : Val) (t : List Nat), s.Ready d g src lat v t →
    p s (s.trigAt d v t reads) →
    exec (mk g src) s = .next (s.raise { f s (s.trigAt d v t reads) with unit := d.slot.num })

/-- Where the condition holds the bundle waits, or a timed task takes TIMED_STALL (R24, R155). -/
def Waits (d : Dom) (mk : Guard → Src → Instr) (reads : Nat) (p : State → Trig → Prop) : Prop :=
  ∀ (s : State) (g : Guard) (src : Src) (v : Val) (t : List Nat), s.Ready d g src none v t →
    p s (s.trigAt d v t reads) → exec (mk g src) s = .next (s.holdMove d.slot.num)

/-- A trigger with the segments that its access touched besides (R120). -/
def Trig.touching (tr : Trig) (l : List Nat) : Trig := { tr with touch := tr.touch ++ l }

/-- Sixty-four bits, bit 0 first. -/
def bitsOf (f : Nat → Bool) : W64 := BitVec.ofNat 64 (((List.range 64).map (fun i => if f i then 2 ^ i else 0)).sum)

/-! ### Accesses of S to a segment (R152, R153, R156) -/

/-- A load of n bytes: `ext` of the bytes at the address word is delivered; an unaligned offset and a rejected access raise. -/
def LoadsOf (mk : Guard → Src → Instr) (n : Nat) (ext : W64 → W64) : Prop :=
  ∀ (s : State) (g : Guard) (src : Src) (v : Val) (t : List Nat), s.Ready .s g src (some 7) v t →
    let r := s.trigAt .s v t 0
    let name := addrName r.t.scalar
    let off := addrOff r.t.scalar
    (off % n ≠ 0 → exec (mk g src) s = .next (s.raise (s.unaligned name off))) ∧
    (off % n = 0 →
      match s.slotAccess [⟨name, off, n⟩] false with
      | .val _ t2 => exec (mk g src) s = .next (s.plus (s.land (r.touching t2) 7
          { val := .sc (ext (BitVec.ofNat 64 (natLE (s.slotRead (nameIdx name) off n)))), mem := true }))
      | .fault f => exec (mk g src) s = .next (s.raise { f with unit := 0 })
      | .hold => exec (mk g src) s = .next (s.holdMove 0))

/-- A store of the low n bytes of a. -/
def StoresOf (mk : Guard → Src → Instr) (n : Nat) : Prop :=
  ∀ (s : State) (g : Guard) (src : Src) (v : Val) (t : List Nat), s.Ready .s g src none v t →
    let r := s.trigAt .s v t 1
    let name := addrName r.t.scalar
    let off := addrOff r.t.scalar
    (off % n ≠ 0 → exec (mk g src) s = .next (s.raise (s.unaligned name off))) ∧
    (off % n = 0 →
      match s.slotAccess [⟨name, off, n⟩] true with
      | .val _ t2 => exec (mk g src) s = .next (s.plus ((r.touching t2).took ++
          [.store { trig := s.core.issued, perf := s.core.issued + 7, dom := .s, seg := nameIdx name,
                    pieces := [(off, (List.range n).map (fun k => r.a.scalar.extractLsb' (8 * k) 8))] }]))
      | .fault f => exec (mk g src) s = .next (s.raise { f with unit := 0 })
      | .hold => exec (mk g src) s = .next (s.holdMove 0))

/-- An atomic on the eight bytes at the address word: `f` of the old word, a and b is written, the old word delivered. -/
def AtomicOf (mk : Guard → Src → Instr) (reads : Nat) (f : W64 → W64 → W64 → W64) : Prop :=
  ∀ (s : State) (g : Guard) (src : Src) (v : Val) (t : List Nat), s.Ready .s g src (some 7) v t →
    let r := s.trigAt .s v t reads
    let name := addrName r.t.scalar
    let off := addrOff r.t.scalar
    let old : W64 := BitVec.ofNat 64 (natLE (s.slotRead (nameIdx name) off 8))
    (off % 8 ≠ 0 → exec (mk g src) s = .next (s.raise (s.unaligned name off))) ∧
    (off % 8 = 0 →
      match s.slotAccess [⟨name, off, 8⟩] true with
      | .val _ t2 => exec (mk g src) s = .next (s.plus (s.land (r.touching t2) 7
          { val := .sc old, mem := true,
            more := [.atomic (nameIdx name) off (bytesLE 8 (f old r.a.scalar r.b.scalar).toNat), .commit] }))
      | .fault f => exec (mk g src) s = .next (s.raise { f with unit := 0 })
      | .hold => exec (mk g src) s = .next (s.holdMove 0))

/-- Where a close of nest level `l` sends fetch: back to the body of the first level of the cascade that has trips left (R163). -/
def CoreSt.loopTo (c : CoreSt) : Nat → Option Nat
  | 0 => none
  | l + 1 =>
    let x := c.level (l + 1)
    if x.idx + 1 < x.t ∧ x.last = false then some x.body
    else if x.c = true ∧ 0 < l ∧ (c.level l).arm = true then c.loopTo l else none

/-! ### Vectors -/

/-- A register's worth of lanes (R15). -/
def Vec.full (v : Vec) : Prop := v.length = 256

/-- Element e of a vector of w-bit elements (R173); one of 64 bits stands in a lane pair. -/
def elem (w : Nat) (v : Vec) (e : Nat) : Nat :=
  if w = 64 then (lane v (2 * e)).toNat + 2 ^ 32 * (lane v (2 * e + 1)).toNat else fld (lane v (e * w / 32)) (e * w % 32) w

/-- Whether the mask enables element e (R174). -/
def elemOn (w : Nat) (m : Mask) (e : Nat) : Bool := bit m (if w = 64 then 2 * e else e * w / 32)

/-- `r` is `op` of the elements of a, b and t where the mask enables them, cut to w bits, and 0 elsewhere; `fl` holds the flags of the
enabled elements (R173, R174). -/
def Elementwise (w : Nat) (op : Nat → Nat → Nat → Nat × BitVec 11) (m : Mask) (a b t r : Vec) (fl : BitVec 11) : Prop :=
  Vec.full r ∧
  (∀ e, e < 8192 / w → elem w r e = if elemOn w m e then (op (elem w a e) (elem w b e) (elem w t e)).1 % 2 ^ w else 0) ∧
  ∀ j, fl.getLsbD j =
    (List.range (8192 / w)).any (fun e => elemOn w m e && (op (elem w a e) (elem w b e) (elem w t e)).2.getLsbD j)

/-- The mask whose lane pairs are enabled by the even lane (R174). -/
def pairMask (m : Mask) : Mask := maskOf (fun i => bit m (i / 2 * 2))

/-- A masked operation on elements whose width its suffix says. -/
def LanesOf {σ : Type} (w : σ → Nat) (mk : VUnit → σ → Guard → Src → Instr) (reads lat : Nat)
    (op : σ → RM → Nat → Nat → Nat → Nat × BitVec 11) : Prop :=
  ∀ (v : VUnit) (f : σ) (s : State) (g : Guard) (src : Src) (x : Val) (t : List Nat), s.Ready v.dom g src (some lat) x t →
    let r := s.trigAt v.dom x t reads
    ∃ (out : Vec) (fl : BitVec 11), Elementwise (w f) (op f r.rm) r.mask r.a.vector r.b.vector r.t.vector out fl ∧
      exec (mk v f g src) s = .next (s.plus (s.land r lat
        { val := .vec out, fl := fl, mask := if w f = 64 then some (pairMask r.mask) else none }))

/-- An integer operation: no flag (R177). -/
def IntLanes (mk : VUnit → ISfx → Guard → Src → Instr) (reads : Nat) (op : Nat → Nat → Nat → Nat → Nat) : Prop :=
  LanesOf isfxWidth mk reads 2 (fun f _ a b t => (op (isfxWidth f) a b t, 0))

/-- A float operation with its flags (R178). -/
def FloatLanes (mk : VUnit → FSfx → Guard → Src → Instr) (reads lat : Nat)
    (op : FP → RM → Nat → Nat → Nat → Nat × BitVec 11) : Prop :=
  LanesOf fsfxWidth mk reads lat (fun f rm a b t => op (sfxFP f.num) rm a b t)

/-- A comparison of elements: all ones where it holds (R181). -/
def allOnesIf (w : Nat) (c : Prop) [Decidable c] : Nat := if c then 2 ^ w - 1 else 0

/-- The signed integer that w bits stand for. -/
def signedOf (w x : Nat) : Int := (BitVec.ofNat w x).toInt

/-- The low w bits of an exact integer. -/
def lowBits (w : Nat) (x : Int) : Nat := (BitVec.ofInt w x).toNat

/-- A vector load of one word for each enabled lane at `off` of the lane; a vector store of the same words in ascending order (R193). -/
def VLoadOf (mk : VUnit → Guard → Src → Instr) (lat : Nat) (off : Trig → Nat → Nat) : Prop :=
  ∀ (v : VUnit) (s : State) (g : Guard) (src : Src) (x : Val) (t : List Nat), s.Ready v.dom g src (some lat) x t →
    let r := s.trigAt v.dom x t 1
    let name : W16 := (lane r.t.vector 0).setWidth 16
    match s.vAccess name (laneOffs r.mask (off r)) false with
    | .val _ t2 => exec (mk v g src) s = .next (s.plus (s.land (r.touching t2) lat
        { val := .vec (vecOf (fun i => if bit r.mask i then BitVec.ofNat 32 (natLE (s.slotRead (nameIdx name) (off r i) 4)) else 0)),
          mem := true }))
    | .fault f => exec (mk v g src) s = .next (s.raise { f with unit := v.dom.slot.num })
    | .hold => exec (mk v g src) s = .next (s.holdMove v.dom.slot.num)

def VStoreOf (mk : VUnit → Guard → Src → Instr) (perf : Nat) (off : Trig → Nat → Nat) : Prop :=
  ∀ (v : VUnit) (s : State) (g : Guard) (src : Src) (x : Val) (t : List Nat), s.Ready v.dom g src none x t →
    let r := s.trigAt v.dom x t 2
    let name : W16 := (lane r.t.vector 0).setWidth 16
    match s.vAccess name (laneOffs r.mask (off r)) true with
    | .val _ t2 => exec (mk v g src) s = .next (s.plus ((r.touching t2).took ++
        [.store { trig := s.core.issued, perf := s.core.issued + perf, dom := v.dom, seg := nameIdx name,
                  pieces := (laneOffs r.mask (off r)).map (fun o => (o.2, bytesLE 4 (lane r.a.vector o.1).toNat)) }]))
    | .fault f => exec (mk v g src) s = .next (s.raise { f with unit := v.dom.slot.num })
    | .hold => exec (mk v g src) s = .next (s.holdMove v.dom.slot.num)

/-- A permutation operation that writes PD := `p` after `lat` bundles and commits the shadow (R200, R203). -/
def PermOf (mk : VUnit → Guard → Src → Instr) (lat : Nat) (solve : Bool) (p : State → BitVec 32 → List Nat → Prop) : Prop :=
  ∀ (v : VUnit) (s : State) (g : Guard) (src : Src) (x : Val) (t : List Nat), s.Ready v.dom g src none x t →
    let r := s.trigAt v.dom x t 0
    let c := lane r.t.vector 0
    ∃ q, p s c q ∧ exec (mk v g src) s = .next (s.plus (r.took ++
      [.permWr { due := s.core.issued + lat, trig := s.core.issued, v := v, pd := c.toNat % 16, val := q, solve := solve }, .commit]))

/-- An index form: a bijection of the 256 rows (R197). -/
def Bijection (p : List Nat) : Prop := p.length = 256 ∧ (∀ i, i ∈ p → i < 256) ∧ p.Nodup

/-! ### The matrix engine -/

/-- The command that an M trigger queues: its operands, the m registers, the format register and whose it is (R88, R215). -/
def State.mCmd (s : State) (r : Trig) (kind : MKind) : MCmd :=
  { kind := kind, seq := 0, o0 := r.a.scalar, o1 := r.b.scalar, word := r.t.scalar,
    wps := [s.core.mreg 0, s.core.mreg 1, s.core.mreg 2, s.core.mreg 3, s.core.mreg 4, s.core.mreg 5, s.core.mreg 6, s.core.mreg 7],
    fmt := s.core.fmt, bidx := s.core.pc, cid := s.core.task.cid, task := s.core.task.key, timed := s.core.task.timed,
    cm := s.core.task.cm, pins := s.core.task.pins }

/-- The routine stands at this micro-op, its COND holds, and no replay skips it (R223, R229). -/
def State.AtMicro (s : State) (w : MicroWord) (r : Routine) : Prop :=
  s.core.mat.microAt w = some r ∧ r.cond w.cond = true ∧ (skippable w = true → r.skip = 0)

/-- The routine goes on from a micro-op that has taken effect; a skippable one is counted (R224, R229). -/
def State.microNext (s : State) (w : MicroWord) (r : Routine) (next : Nat) : State :=
  s.microAdvance (if skippable w then { r with done := r.done + 1 } else r) w.cl next

/-- Rows of n bytes at a pitch from an address word of a member of the routine's set, in bounds, and no tile that a row covers holds the
access (R123, R222), nor does a tile command (R315; log 13). -/
def State.MicroReadable (s : State) (r : Routine) (w : W64) (rows pitch n : Nat) : Prop :=
  r.member w = true ∧ epOff w + (rows - 1) * pitch + n ≤ (s.seg r.call.cid (nameIdx (epName w))).size * 64 ∧
    ∀ i, i < rows → ∀ t ∈ tileSpan (epOff w + i * pitch) n, r.tiles.contains (nameIdx (epName w), t) = true ∨
      (((s.seg r.call.cid (nameIdx (epName w))).tile t).slotOk false = true ∧ s.tileHeld r.call.cid (nameIdx (epName w)) t = false)

/-! ### The copy engines -/

/-- An endpoint of a kind that the operation accepts (R236). -/
def okEnd (ep : W64) (seg ten : Bool) : Prop := (epT ep = true → ten = true) ∧ (epT ep = false → seg = true)

/-- What R236 asks of every command that reads the words that `use` names: rows and bytes of a row, a cluster of the group and an SRCM
that exists, endpoints of its kinds; committed mode turns away the operations of R274, R335, R352. -/
def State.Legal (s : State) (use : CmdUse) (c : Cmd) : Prop :=
  (s.core.task.cm = true → c.op ∉ uncommitted) ∧ (use.shape = true → 0 < c.rows ∧ 0 < c.rowb) ∧
  (use.sig = true → sigSrcm c.sigw ≠ 3 ∧ s.me.group.hasClu (sigCcl c.sigw) = true) ∧
  (use.src = true → okEnd c.srcw use.srcSeg use.srcTen) ∧ (use.dst = true → okEnd c.dstw use.dstSeg use.dstTen)

/-- Commands of an engine that wait to start; 32 fill its queue (R239). -/
def State.waitingCmds (s : State) (u : CUnit) : Nat := ((s.core.eng u).cmds.filter (fun x => x.st = .queued)).length

/-- A C trigger that queues the command of its word, group and coordinate blocks and commits the shadow (R101, R233, R239): with every
condition met it stages the command; a condition of R236 or of the operation raises ILLEGAL_MOVE, one that a timed task cannot wait for
TIMED_STALL; a full queue makes it wait. -/
def Queues (op : Nat) (mk : CUnit → Guard → Src → Instr) (use : CmdUse) (legal : State → CUnit → Cmd → Prop)
    (fill : State → CUnit → Cmd → Cmd := fun _ _ c => c) (more : CUnit → Cmd → List Eff := fun _ _ => [])
    (stalls : State → Cmd → Prop := fun _ _ => False) (reads : Nat := 0) : Prop :=
  ∀ (u : CUnit) (s : State) (g : Guard) (src : Src) (v : Val) (t : List Nat), s.Ready u.dom g src none v t →
    let r := s.trigAt u.dom v t reads
    let c0 := s.sample u op r.t.scalar
    let c := fill s u { c0 with local_ := s.isLocal use c0 }
    let ok := s.Legal use c ∧ legal s u c
    let stall := s.core.task.timed = true ∧ stalls s c
    (ok → ¬ stall → s.waitingCmds u < 32 →
      exec (mk u g src) s = .next (s.plus (r.took ++ ([Eff.cmd u c use.joins, .commit] ++ more u c)))) ∧
    (¬ ok → exec (mk u g src) s = .next (s.raise { cause := .illegalMove, unit := u.dom.slot.num })) ∧
    (ok → stall → exec (mk u g src) s = .next (s.raise { cause := .timedStall, unit := u.dom.slot.num })) ∧
    (ok → ¬ stall → 32 ≤ s.waitingCmds u → exec (mk u g src) s = .next (s.holdMove u.dom.slot.num))

/-- An element's access to n bytes of a segment passes (R123, R315): in bounds, and every tile is one that the command set, or lets the
access through, and no command issued before it on the other engine stands in the way. -/
def State.Passes (s : State) (u : CUnit) (c : Cmd) (name : W16) (off n : Nat) (write : Bool) : Prop :=
  let i := nameIdx name
  off + n ≤ (s.seg c.cid i).size * 64 ∧ ∀ t ∈ tileSpan off n,
    ((i, t) ∈ c.wtiles ∨ (i, t) ∈ c.stiles ∨ ((s.seg c.cid i).tile t).st = .ready ∨
      (((s.seg c.cid i).tile t).st = .draining ∧ write = false)) ∧
    s.lockedByOther u c i t = false ∧ (write = true → s.readByOther u c i t = false)

/-- The signal that a command of engine u sends from the core in focus (R296). -/
def State.sigOf (s : State) (u : CUnit) (c : Cmd) (clu n : Nat) (k : SigKind) : Signal :=
  { cid := c.cid, clu := clu, n := n, kind := k, src := s.linIn c.cid / 4, core := s.linIn c.cid, eng := u.num,
    at_ := s.core.issued, sent := s.turns }

/-- A packet of the packet network leaves: it is sent, or it waits, on one link (R336, R342; which link its route takes is open, log 5). -/
def State.SendsOut (s v : State) (p : Packet → Prop) : Prop :=
  ∃ l pkt, l < Config.links ∧ p pkt ∧ v.links = (s.sendOn l pkt).links ∧ v.sent = (s.sendOn l pkt).sent

/-- A byte of an entry of some tensor's tile table, which stands in the HBM tier (R132, R134). -/
def State.tableByte (s : State) (a : Nat) : Prop :=
  ∃ tid t page e, s.tensor tid = some t ∧ s.entryAt t page = some e ∧ frameAddr false 0 + e ≤ a ∧ a < frameAddr false 0 + e + 8

/-- Memory is that of `t`, the entries of tile tables apart. -/
def State.MemBut (s t u : State) : Prop := ∀ a, ¬ s.tableByte a → u.mem.get a = t.mem.get a

/-- The entries of two pages stand apart in memory. -/
def State.Apart (s : State) (tid page tid' page' : Nat) : Prop :=
  ∀ t t' a b, s.tensor tid = some t → s.tensor tid' = some t' → s.entryAt t page = some a → s.entryAt t' page' = some b → a + 8 ≤ b ∨ b + 8 ≤ a

/-- The turn of another agent has its effect: it answers a next state, of which `p` holds. -/
def Turns (i : Instr) (s : State) (p : State → Prop) : Prop := ∃ t, exec i s = .next t ∧ p t

end Sys2Proof.Machine
end

