-- ==== Sys2Proof/Certificates/Slice0/Obligations.lean ====
section
/-! DEFINITION. The statements for the provers. Each says what the spec's rules make of the machine, for every state and operands that
meet its hypotheses. -/

open Sys2Proof Sys2Proof.Machine

/-! ### The state after reset -/

/-- What the spec gives for reset: the latches of R14, R17, R18, the format register of R49, the identity permutations of R14, the package
dark (R355). That registers without a reset value read 0 is the model's choice (log 1), and so is the fill of the instruction store (log
1) and that unwritten memory reads 0 (log 2). -/
def Obligations.ResetState : Prop :=
  State.reset.pstate = .dark ∧ State.reset.core.fmt = fmtReset ∧ State.reset.core.fst = 0 ∧
  (∀ d, State.reset.core.rtOf d = 0) ∧ (∀ i, State.reset.core.guard i = (i == 0)) ∧ State.reset.core.mask 0 = allLanes ∧
  (∀ i, State.reset.core.perm i = List.range 256) ∧
  (∀ d second now, (State.reset.core.input d second).head now = zeroVal d ∧ (State.reset.core.input d second).q = []) ∧
  (∀ i, State.reset.core.sreg i = 0) ∧ (∀ i, State.reset.core.vreg i = zeroVec) ∧ (∀ d, State.reset.core.resOf d = zeroVal d) ∧
  (∀ l, (State.reset.core.level l).arm = false) ∧ (∀ q, (State.reset.core.ring q).hen = false ∧ (State.reset.core.ring q).ten = false) ∧
  State.reset.mem = [] ∧ State.reset.ctxs = [] ∧ State.reset.tasks = [] ∧ State.reset.parts = []

/-- The invariant of every step holds right after reset. -/
def Obligations.ResetKeepsForm : Prop := State.reset.Inv

/-! ### Encodings -/

/-- Words that the spec writes out, and words built from its maps: R51 with R62 to R65, in the slot they stand in. -/
def Obligations.DecodeWords : Prop :=
  decodeMove .s 0x168284#24 = .ok (.add 0 644) ∧ decodeMove .s 0x190284#24 = .ok (.salloc 0 644) ∧
  decodeMove .s 0x18FA86#24 = .ok (.post 0 646) ∧ decodeMove .s 0x18F402#24 = .ok (.nxt 0 1026) ∧
  decodeMove .c0 0x16DC03#24 = .ok (.spush .c0 0 1027) ∧ decodeMove .s 0x181282#24 = .ok (.st32 0 642) ∧
  decodeMove .s 0x18AAC3#24 = .ok (.nset 0 707) ∧ decodeMove .c0 0x175AC3#24 = .ok (.expect .c0 0 707) ∧
  decodeMove .v0 0x1CB002#24 = .ok (.vlds .v0 0 2) ∧ decodeMove .v0 0x1CBAC3#24 = .ok (.vsts .v0 0 707) ∧
  decodeMove .c0 0x176420#24 = .ok (.bwait .c0 0 1056) ∧ decodeMove .c0 0x1742C3#24 = .ok (.pmget .c0 0 707) ∧
  decodeMove .c0 0x170540#24 = .ok (.rtgo .c0 0 1344) ∧ decodeMove .c0 0x170C05#24 = .ok (.rtstat .c0 0 1029) ∧
  decodeMove .m 0x000000#24 = .ok .nop ∧ decodeMove .x0 0xE00000#24 = .ok (.transfer .x0 7 0 0) ∧
  decodeMove .m 0x168283#24 = .ok (.mCall 0 643) ∧
  decodeMove .m 0x000802#24 = .error .otherFile ∧ decodeMove .s 0x1FFC00#24 = .error .unassignedTrigger

/-- The move of a well-formed instruction decodes to it, in its slot (R51, R55, R57, R61 to R65). -/
def Obligations.DecodeEncode : Prop :=
  ∀ (i : Instr) (sl : Slot) (w : BitVec 24), i.wf = true → encode i = some (sl, w) → decodeMove sl w = .ok i

/-- A word that decodes is the word of what it decodes to, and that is well formed: no two words of a slot say one instruction, but for
the all-zero move (R69). -/
def Obligations.EncodeDecode : Prop :=
  ∀ (i : Instr) (sl : Slot) (w : BitVec 24), decodeMove sl w = .ok i → i ≠ .nop → encode i = some (sl, w) ∧ i.wf = true

/-- A micro-word within the limits of R225 is read back from its 96 bits, and no word with a reserved bit or a field out of its limits is
read (R223, R225). -/
def Obligations.MicroWords : Prop :=
  (∀ m : MicroWord, m.ok = true → decodeMicro (encodeMicro m) = some m) ∧
  (∀ w m, decodeMicro w = some m → m.ok = true ∧ encodeMicro m = w)

/-! ### Steps -/

/-- What the issue makes of a bundle whose checks pass: its moves run slot by slot by their meanings, and the bundle ends, with a mark
first where the header asks for one; the three rejections after the moves are those of R114, R101 and R274. The turn of another agent runs
its row on the core it is seen from. That turns come from an agenda is the model's choice (log 4, log 6). -/
def Obligations.StepRunsTurns : Prop :=
  ((∀ s : State, s.agenda = [] → step s = exec .bundleIssue { s with turns := s.turns + 1 }) ∧
   (∀ (s : State) (c : Nat) (rest : List Turn), s.agenda = .core c :: rest → c < 256 → step s = exec .bundleIssue (s.turn c rest)) ∧
   ∀ s : State, s.core.run = .running → s.core.reload = [] → s.core.fill = [] → s.startBundle.before = .pass →
     let u := if s.startBundle.core.markNext then s.startBundle.takeMark else s.startBundle
     u.checks = .pass →
     let b := u.core.bundle u.core.pc
     let h := decodeHeader (headerBits b)
     let w := State.execSlots b (if h.k then u.takeMark else u)
     w.stopped = false → w.missing = [] → w.core.shadowFull h = false → w.journalFull = false →
     exec .bundleIssue s = .next ((w.loadDesc w.touched).endBundle h)) ∧
  (∀ (s : State) (c : Nat) (i : Instr) (rest : List Turn), s.agenda = .event c i :: rest → c < 256 → isMove i = false →
     step s = exec i (s.turn c rest))

/-- A bundle that holds one instruction, the other slots all zero, runs exactly that instruction (R45, R69). -/
def Obligations.OneMoveBundle : Prop :=
  ∀ (h : W64) (i : Instr) (sl : Slot) (w : BitVec 24) (s t : State), i.wf = true → encode i = some (sl, w) →
    s.stopped = false → exec i s = .next t → State.execSlots (bundleWith h sl w) s = t

/-- No turn that names hardware the part has ends in a fault or a refusal (R2). That the agenda may name hardware the part lacks is the
model's own (log 4). -/
def Obligations.StepsGoOn : Prop := ∀ s : State, s.safe = true → ∃ t, step s = .next t

/-- A move whose guard is false does nothing (R52). -/
def Obligations.FalseGuard : Prop :=
  ∀ (i : Instr) (sl : Slot) (g : Guard) (n : Nat) (src : Src) (s : State), i.wf = true → moveFields i = some (sl, g, n, src) →
    s.core.guard g.toNat = false → exec i s = .next s

/-- What a move that neither raises nor waits changes: it stages effects, and a draw of its own moves stream 0 of the generator (R82), a
tick the cycle that ticks have seen (R167), or both the counter of free choices (log 4); every register, latch, flag, byte of memory and
word of the package stays (R45). -/
def Obligations.MovesStage : Prop :=
  ∀ (i : Instr) (s t : State), isMove i = true → i.wf = true → s.stopped = false → exec i s = .next t → t.stopped = false →
    ∃ (es : List Eff) (gen : List (Nat × W64)) (n m : Nat),
      t = { s with core := { s.core with staged := s.core.staged ++ es, gen := gen }, fresh := n, sub := m } ∧
      (∀ j, j ≠ 0 → sget (seedStream 0 0 j) gen j = s.core.stream j)

/-- A byte read back is the byte written, and no other byte moves; memory of one content has one form (log 2). -/
def Obligations.MemoryLaws : Prop :=
  (∀ (m : Memory) (a n k : Nat) (bs : List Byte),
    (m.wf = true → (m.write a bs).wf = true) ∧ (bs.length = n → (m.write a bs).read a n = bs) ∧
    (k < a ∨ a + bs.length ≤ k → (m.write a bs).get k = m.get k)) ∧
  (∀ (m : Memory) (src dst n k : Nat), m.wf = true →
    (m.copy src dst n).wf = true ∧ (m.copy src dst n).get k = if dst ≤ k ∧ k < dst + n then m.get (src + (k - dst)) else m.get k) ∧
  (∀ (m : Memory) (a n k : Nat),
    (m.wf = true → (m.clear a n).wf = true) ∧ (m.clear a n).get k = if a ≤ k ∧ k < a + n then 0 else m.get k) ∧
  (∀ m m' : Memory, m.wf = true → m'.wf = true → (∀ a, m.get a = m'.get a) → m = m')

/-! ### Moves into registers and ports -/

/-- A move of a domain slot into a register or a port, and the all-zero move (R45, R55, R69): what it stages; a full input file (R17) and
a bad rt value (R18) are rejected. -/
def Obligations.RegisterMoves : Prop :=
  ((∀ s : State, exec .nop s = .next s) ∧
   (∀ (d : Dom) (g : Guard) (dst : DstNum) (src : Src) (s : State) (r : Dst) (v : Val) (t : List Nat), wfMove d g dst src = true →
     dstOf d.slot dst.toNat = some r → s.Reads d.slot g src (s.dstVector r) v t →
     exec (.move d g dst src) s = .next (s.plus (touches t ++ [.write r v]))) ∧
   (∀ (d : Dom) (second : Bool) (g : Guard) (src : Src) (s : State) (v : Val) (t : List Nat),
     s.Reads d.slot g src (s.dstVector (.input d second)) v t → (s.core.input d second).q.length < 4 →
     exec (if second then .o1Append d g src else .o0Append d g src) s =
       .next (s.plus (touches t ++ [.append d second (v.forDom d) (s.core.issued + 1)]))) ∧
   (∀ (d : Dom) (g : Guard) (src : Src) (s : State) (v : Val) (t : List Nat) (w : W16), s.Reads d.slot g src false v t →
     decodeRt (s.me.ownRegs d) v.scalar = some w → exec (.rtWrite d g src) s = .next (s.plus (touches t ++ [.write (.rt d) v]))) ∧
   (∀ (u : VUnit) (g : Guard) (src : Src) (s : State) (v : Val) (t : List Nat), s.Reads u.dom.slot g src false v t →
     exec (.mkWrite u g src) s = .next (s.plus (touches t ++ [.write (.mk u) v]))) ∧
   (∀ (u : CUnit) (g : Guard) (src : Src) (s : State) (v : Val) (t : List Nat), s.Reads u.dom.slot g src false v t →
     exec (.dixWrite u g src) s = .next (s.plus (touches t ++ [.write (.dix u) v])) ∧
     exec (.dwr u g src) s = .next (s.plus (touches t ++ [.write (.dwr u) v])))) ∧
  ((∀ (d : Dom) (second : Bool) (g : Guard) (src : Src) (s : State) (v : Val) (t : List Nat),
     s.Reads d.slot g src (s.dstVector (.input d second)) v t → 4 ≤ (s.core.input d second).q.length →
     exec (if second then .o1Append d g src else .o0Append d g src) s = .next (s.raise { cause := .illegalMove, unit := d.slot.num })) ∧
   (∀ (d : Dom) (g : Guard) (src : Src) (s : State) (v : Val) (t : List Nat), s.Reads d.slot g src false v t →
     decodeRt (s.me.ownRegs d) v.scalar = none → exec (.rtWrite d g src) s = .next (s.raise { cause := .illegalMove, unit := d.slot.num })))

/-- A transfer is under way to the bundle after its own within a domain and to the second one across domains (R13); an append through X0
or X1 becomes readable in that bundle (R17). -/
def Obligations.Transfers : Prop :=
  ∀ (x : XUnit) (g : Guard) (src : Src) (s : State) (v : Val) (t : List Nat) (k : SrcKind) (r : Dst),
    srcKind x.slot src = some k → s.Reads x.slot g src (s.dstVector r) v t →
    let due := s.core.issued + if s.core.srcDom k = r.dom then 1 else 2
    let out := s.plus (touches t ++ [.xfer { due := due, trig := s.core.issued, dst := r, val := v }])
    (∀ dst : DstNum, dstOf x.slot dst.toNat = some r → dst.toNat < 826 → zeroMove g dst src = false →
      (match r with
       | .input d second => (s.core.input d second).q.length < 4 →
           exec (.transfer x g dst src) s = .next (s.plus (touches t ++ [.append d second (v.forDom d) due]))
       | .tail i => ∀ t2, s.checkDst (.tail i) v = .val v t2 →
           exec (.transfer x g dst src) s =
             .next (s.plus (touches (t ++ t2) ++ [.xfer { due := due, trig := s.core.issued, dst := r, val := v }]))
       | .rt d => (decodeRt (s.me.ownRegs d) v.scalar).isSome = true → exec (.transfer x g dst src) s = .next out
       | _ => exec (.transfer x g dst src) s = .next out)) ∧
    (r = .spx → exec (.spx x g src) s = .next out) ∧ (r = .spd → exec (.spd x g src) s = .next out)

/-! ### Integer operations of S -/

/-- The integer operations of R149 deliver their result and change nothing else; a = o0, b = o1, t = trigger. Of the divisions (R150): the
quotient truncated toward zero, the remainder with the sign of a, −2^63 / −1 is −2^63; a divisor of 0 raises DIV_ZERO with INFO = a. -/
def Obligations.ScalarArithmetic : Prop :=
  (let a := fun (r : Trig) => r.a.scalar
   let b := fun (r : Trig) => r.b.scalar
   let t := fun (r : Trig) => r.t.scalar
   let k := fun (r : Trig) => r.t.scalar.toNat % 64
   let w := fun (r : Trig) => min (r.t.scalar.toNat / 256 % 128) 64
   Delivers .s .add 1 1 (fun _ r => .sc (BitVec.ofInt 64 ((a r).toInt + (t r).toInt))) ∧
   Delivers .s .sub 1 1 (fun _ r => .sc (BitVec.ofInt 64 ((a r).toInt - (t r).toInt))) ∧
   Delivers .s .mul 1 3 (fun _ r => .sc (BitVec.ofInt 64 ((a r).toInt * (t r).toInt))) ∧
   Delivers .s .mulh 1 3 (fun _ r => .sc (((a r).signExtend 128 * (t r).signExtend 128).extractLsb' 64 64)) ∧
   Delivers .s .mulhu 1 3 (fun _ r => .sc (((a r).setWidth 128 * (t r).setWidth 128).extractLsb' 64 64)) ∧
   Delivers .s .and 1 1 (fun _ r => .sc (bitsOf (fun i => bit (a r) i && bit (t r) i))) ∧
   Delivers .s .or 1 1 (fun _ r => .sc (bitsOf (fun i => bit (a r) i || bit (t r) i))) ∧
   Delivers .s .xor 1 1 (fun _ r => .sc (bitsOf (fun i => bit (a r) i != bit (t r) i))) ∧
   Delivers .s .andn 1 1 (fun _ r => .sc (bitsOf (fun i => bit (a r) i && !bit (t r) i))) ∧
   Delivers .s .orn 1 1 (fun _ r => .sc (bitsOf (fun i => bit (a r) i || !bit (t r) i))) ∧
   Delivers .s .shl 1 1 (fun _ r => .sc (bitsOf (fun i => decide (k r ≤ i) && bit (a r) (i - k r)))) ∧
   Delivers .s .shr 1 1 (fun _ r => .sc (bitsOf (fun i => bit (a r) (i + k r)))) ∧
   Delivers .s .sra 1 1 (fun _ r => .sc (bitsOf (fun i => bit (a r) (min (i + k r) 63)))) ∧
   Delivers .s .rol 1 1 (fun _ r => .sc (bitsOf (fun i => bit (a r) ((i + 64 - k r) % 64)))) ∧
   Delivers .s .clz 0 1 (fun _ r => .sc (BitVec.ofNat 64 ((List.range 64).takeWhile (fun i => !bit (t r) (63 - i))).length)) ∧
   Delivers .s .ctz 0 1 (fun _ r => .sc (BitVec.ofNat 64 ((List.range 64).takeWhile (fun i => !bit (t r) i)).length)) ∧
   Delivers .s .popc 0 1 (fun _ r => .sc (BitVec.ofNat 64 ((List.range 64).filter (fun i => bit (t r) i)).length)) ∧
   Delivers .s .min 1 1 (fun _ r => .sc (if (t r).toInt ≤ (a r).toInt then t r else a r)) ∧
   Delivers .s .max 1 1 (fun _ r => .sc (if (t r).toInt ≤ (a r).toInt then a r else t r)) ∧
   Delivers .s .minu 1 1 (fun _ r => .sc (if (t r).toNat ≤ (a r).toNat then t r else a r)) ∧
   Delivers .s .maxu 1 1 (fun _ r => .sc (if (t r).toNat ≤ (a r).toNat then a r else t r)) ∧
   Delivers .s .sext8 0 1 (fun _ r => .sc (bitsOf (fun i => bit (t r) (min i 7)))) ∧
   Delivers .s .sext16 0 1 (fun _ r => .sc (bitsOf (fun i => bit (t r) (min i 15)))) ∧
   Delivers .s .sext32 0 1 (fun _ r => .sc (bitsOf (fun i => bit (t r) (min i 31)))) ∧
   Delivers .s .zext8 0 1 (fun _ r => .sc (bitsOf (fun i => decide (i < 8) && bit (t r) i))) ∧
   Delivers .s .zext16 0 1 (fun _ r => .sc (bitsOf (fun i => decide (i < 16) && bit (t r) i))) ∧
   Delivers .s .zext32 0 1 (fun _ r => .sc (bitsOf (fun i => decide (i < 32) && bit (t r) i))) ∧
   Delivers .s .bfx 1 1 (fun _ r => .sc (bitsOf (fun i => decide (i < w r) && bit (a r) (i + k r)))) ∧
   Delivers .s .bfi 2 1 (fun _ r => .sc (bitsOf (fun i => if k r ≤ i ∧ i < k r + w r then bit (b r) (i - k r) else bit (a r) i))) ∧
   Delivers .s .sel 2 1 (fun _ r => .sc (if t r ≠ 0 then a r else b r)) ∧
   Delivers .s .pass 0 1 (fun _ r => .sc (t r))) ∧
  (let nz := fun (_ : State) (r : Trig) => r.t.scalar ≠ 0
   let z := fun (_ : State) (r : Trig) => r.t.scalar = 0
   let f := fun (_ : State) (r : Trig) => ({ cause := .divZero, info := r.a.scalar } : FaultInfo)
   DeliversIf .s .div 1 18 nz (fun _ r => .sc (BitVec.ofInt 64 (r.a.scalar.toInt.tdiv r.t.scalar.toInt))) ∧
   DeliversIf .s .divu 1 18 nz (fun _ r => .sc (BitVec.ofNat 64 (r.a.scalar.toNat / r.t.scalar.toNat))) ∧
   DeliversIf .s .rem 1 18 nz (fun _ r => .sc (BitVec.ofInt 64 (r.a.scalar.toInt.tmod r.t.scalar.toInt))) ∧
   DeliversIf .s .remu 1 18 nz (fun _ r => .sc (BitVec.ofNat 64 (r.a.scalar.toNat % r.t.scalar.toNat))) ∧
   Raises .s .div 1 (some 18) z f ∧ Raises .s .divu 1 (some 18) z f ∧ Raises .s .rem 1 (some 18) z f ∧ Raises .s .remu 1 (some 18) z f)

/-- The compares deliver 1 if the relation holds and 0 otherwise (R151). -/
def Obligations.ScalarCompares : Prop :=
  Delivers .s .ceq 1 1 (fun _ r => .flag (r.a.scalar = r.t.scalar)) ∧
  Delivers .s .cne 1 1 (fun _ r => .flag (r.a.scalar ≠ r.t.scalar)) ∧
  Delivers .s .clt 1 1 (fun _ r => .flag (r.a.scalar.toInt < r.t.scalar.toInt)) ∧
  Delivers .s .cltu 1 1 (fun _ r => .flag (r.a.scalar.toNat < r.t.scalar.toNat)) ∧
  Delivers .s .cle 1 1 (fun _ r => .flag (r.a.scalar.toInt ≤ r.t.scalar.toInt)) ∧
  Delivers .s .cleu 1 1 (fun _ r => .flag (r.a.scalar.toNat ≤ r.t.scalar.toNat))

/-! ### Segment access of S -/

/-- An access of a slot to n bytes of one segment passes and touches it where R121 and R123 find nothing to reject; the first of the
conditions that fails decides what comes instead. -/
def Obligations.SlotAccess : Prop :=
  ∀ (s : State) (name : W16) (off n : Nat) (write : Bool), 0 < n →
    let i := nameIdx name
    let g := s.me.seg i
    let r := s.slotAccess [⟨name, off, n⟩] write
    let w := segWhere name off
    if g.state = .free ∨ g.gen ≠ nameGen name then r = .fault { cause := .segStale, info := BitVec.ofNat 64 (g.gen % 16), wher := w }
    else if g.size * 64 < off + n then r = .fault { cause := .segBounds, info := BitVec.ofNat 64 (g.size * 64 % 2 ^ 32), wher := w }
    else if s.core.task.timed = true ∧ i ∉ s.core.task.pins then r = .fault { cause := .segUndeclared, wher := w }
    else if g.home ≠ s.lclu then r = .fault { cause := .segBounds, info := BitVec.ofNat 64 (g.size * 64 % 2 ^ 32 + 2 ^ 32), wher := w }
    else if s.me.quota < g.size then r = .fault { cause := .segQuota, info := BitVec.ofNat 64 (g.size % 2 ^ 32), wher := w }
    else if g.state = .poisoned then r = .fault { cause := .tilePoison, info := BitVec.ofNat 64 g.poison, wher := w }
    else if g.state = .away ∨ g.state = .recalling ∨ g.state = .pushing then
      r = .fault { cause := .segAbsent, info := BitVec.ofNat 64 (g.state.num + 256), wher := w, recalls := [i] }
    else if g.state = .moving then r = .hold
    else
      let free := ∀ t, off / 16384 ≤ t → t ≤ (off + n - 1) / 16384 →
        ((g.tile t).st = .ready ∨ ((g.tile t).st = .draining ∧ write = false)) ∧
        (s.me.atom = true ∨ (s.core.eng0.locks s.cid i t = false ∧ s.core.eng1.locks s.cid i t = false))
      (free → r = .val (.sc 0) [i]) ∧ (¬ free → r = .hold)

/-- The loads of R153: n bytes at the address word, lowest first, extended with zeros or with the sign; the stores: the low n bytes of a,
performed seven bundles later; the atomics of R156 deliver the old word and write the new one, and the shadow commits (R157). An offset
that is no multiple of n raises SEG_BOUNDS with INFO[33] = 1. What they make of memory (R101, R154, R274): a store or an atomic writes its
bytes and no other; under a mark a store is gated and memory takes it with the commit, in committed mode the journal has it. The slots
read the newest gated byte, then the journal's, then memory's. Of a segment freed since the check a store writes at most the storage it
had (R126; log 27). -/
def Obligations.ScalarMemory : Prop :=
  (LoadsOf .ld8 1 (fun x => x) ∧ LoadsOf .ld16 2 (fun x => x) ∧ LoadsOf .ld32 4 (fun x => x) ∧ LoadsOf .ld64 8 (fun x => x) ∧
   LoadsOf .ld8s 1 (fun x => bitsOf (fun i => bit x (min i 7))) ∧ LoadsOf .ld16s 2 (fun x => bitsOf (fun i => bit x (min i 15))) ∧
   LoadsOf .ld32s 4 (fun x => bitsOf (fun i => bit x (min i 31)))) ∧
  (StoresOf .st8 1 ∧ StoresOf .st16 2 ∧ StoresOf .st32 4 ∧ StoresOf .st64 8) ∧
  (AtomicOf .aadd 1 (fun old a _ => BitVec.ofNat 64 (old.toNat + a.toNat)) ∧ AtomicOf .aand 1 (fun old a _ => old &&& a) ∧
   AtomicOf .aor 1 (fun old a _ => old ||| a) ∧ AtomicOf .axor 1 (fun old a _ => old ^^^ a) ∧
   AtomicOf .amin 1 (fun old a _ => if a.toInt ≤ old.toInt then a else old) ∧
   AtomicOf .amax 1 (fun old a _ => if a.toInt ≤ old.toInt then old else a) ∧
   AtomicOf .aminu 1 (fun old a _ => if a.toNat ≤ old.toNat then a else old) ∧
   AtomicOf .amaxu 1 (fun old a _ => if a.toNat ≤ old.toNat then old else a) ∧
   AtomicOf .axchg 1 (fun _ a _ => a) ∧ AtomicOf .acas 2 (fun old a b => if old = a then b else old)) ∧
  (∀ (s : State) (seg off : Nat) (bs : List Byte), (s.seg s.cid seg).placed = true →
     let a := s.segAddr s.cid seg off
     let lands := fun (u : State) => u.mem.read a bs.length = bs ∧ ∀ k, k < a ∨ a + bs.length ≤ k → u.mem.get k = s.mem.get k
     let noted := fun (u : State) => u.mem = s.mem ∧ ∀ k, k < bs.length → alook u.core.journal (s.jKey s.cid seg (off + k)) = bs[k]?
     (let u := s.applyStores [.atomic seg off bs]
      (s.core.task.cm = false → lands u) ∧ (s.core.task.cm = true → noted u)) ∧
     (∀ g : GStore, g.seg = seg → g.pieces = [(off, bs)] →
        let u := s.applyStores [.store g]
        (s.core.mark = none → s.core.gated = [] → u.slotRead seg off bs.length = bs) ∧
        (s.core.mark = none → s.core.task.cm = false → lands u) ∧ (s.core.mark = none → s.core.task.cm = true → noted u) ∧
        (∀ m, s.core.mark = some m → m.issue ≤ g.trig →
           u.mem = s.mem ∧ u.core.journal = s.core.journal ∧ u.slotRead seg off bs.length = bs ∧
           (s.core.gated = [] → (s.core.task.cm = false → lands u.commit) ∧ (s.core.task.cm = true → noted u.commit))))) ∧
  (∀ (s : State) (g : GStore), (s.seg s.cid g.seg).life ≠ g.life → ∀ k,
     (s.core.task.cm = true ∨ s.storeOwned k 1 = true ∨ ∀ p ∈ g.pieces, k < g.addr + p.1 ∨ g.addr + p.1 + p.2.length ≤ k) →
     (s.performLive g).mem.get k = s.mem.get k) ∧
  (∀ (s : State) (seg off n k : Nat), k < n →
     let o := off + k
     let shown := (s.slotRead seg off n)[k]?
     let noted := alook s.core.journal (s.jKey s.cid seg o)
     let off := fun (p : Nat × List Byte) => o < p.1 ∨ p.1 + p.2.length ≤ o
     let mine := fun (g : GStore) => g.seg = seg ∧ g.life = (s.seg s.cid seg).life
     (∀ older g newer ps p qs, s.core.gated = older ++ g :: newer → mine g → g.pieces = ps ++ p :: qs → ¬ off p →
        (∀ q ∈ qs, off q) → (∀ h ∈ newer, mine h → ∀ q ∈ h.pieces, off q) → shown = p.2[o - p.1]?) ∧
     ((∀ h ∈ s.core.gated, mine h → ∀ q ∈ h.pieces, off q) →
        (∀ b, s.core.task.cm = true → noted = some b → shown = some b) ∧
        (s.core.task.cm = false ∨ noted = none → shown = some (s.mem.get (s.segAddr s.cid seg o)))))

/-! ### Control, nest, spill, system and queue operations of S -/

/-- The control operations of R158 and sys (R159): where they send fetch, and what else they ask for at the end of the bundle. A target
outside 0 to 8,191 raises ILLEGAL_MOVE, and so does a call in a context without s63. At its result bundle sys has its effect and delivers
its status (R108, R159): RESUME of a suspended task whose records are all answered makes it a ready card, with FSTOP = 1 every task of the
context; ABORT ends the task, or with FSTOP = 1 every one that has left its queue; any other request is REFUSED and changes nothing. -/
def Obligations.Control : Prop :=
  let t := fun (r : Trig) => r.t.scalar.toInt
  let n := fun (s : State) => (s.core.pc : Int)
  let ok := fun (x : Int) => 0 ≤ x ∧ x < 8192
  let bad := fun (_ : State) (_ : Trig) => ({ cause := .illegalMove } : FaultInfo)
  Stages .s .br 0 (fun s r => ok (n s + t r)) (fun s r => [.branch (n s + t r).toNat]) ∧
  Stages .s .bra 0 (fun _ r => ok (t r)) (fun _ r => [.branch (t r).toNat]) ∧
  Stages .s .call 0 (fun s r => ok (t r) ∧ 63 < s.me.regs) (fun s r => [.branch (t r).toNat, .link (BitVec.ofNat 64 (s.core.pc + 3))]) ∧
  Stages .s .ret 0 (fun s _ => ok (s.core.sreg 63).toInt) (fun s _ => [.branch (s.core.sreg 63).toInt.toNat]) ∧
  Stages .s .trap 0 (fun _ _ => True) (fun _ r => [.trap r.t.scalar]) ∧
  Stages .s .halt 0 (fun _ _ => True) (fun _ _ => [.halt]) ∧
  Raises .s .br 0 none (fun s r => ¬ ok (n s + t r)) bad ∧ Raises .s .bra 0 none (fun _ r => ¬ ok (t r)) bad ∧
  Raises .s .call 0 none (fun s r => ¬ ok (t r) ∨ s.me.regs ≤ 63) bad ∧ Raises .s .ret 0 none (fun s _ => ¬ ok (s.core.sreg 63).toInt) bad ∧
  Delivers .s .sysResume 1 7 (fun _ r => { val := .sc 1, act := .sys (r.t.scalar.toNat % 256) r.a.scalar }) ∧
  Delivers .s .sysAbort 1 7 (fun _ r => { val := .sc 1, act := .sys (r.t.scalar.toNat % 256) r.a.scalar }) ∧
  (∀ (s : State) (r : Result) (func : Nat) (arg : W64), r.act = .sys func arg →
     let task := arg.toNat % 2 ^ 32
     let all := 2 ^ 32 - 1
     let ts := s.suspendedTasks s.cid
     let answers := fun (u : State) (status : W64) => s.landResult r = u.landResult { r with act := .none, val := .sc status }
     let first := fun (x : Task) => ∃ l r, ts = l ++ x :: r ∧ x.id = task ∧ ∀ y ∈ l, y.id ≠ task
     (func = 1 → task ≠ all → ∀ x, first x → (∀ b ∈ x.rstb, b = true) → ∃ u : State, answers u 0 ∧ u.mem = s.mem ∧
        ∃ l y m, s.tasks = l ++ y :: m ∧ x.same y = true ∧ (∀ z ∈ l, x.same z = false) ∧
          u.tasks = l ++ { y with state := .ready, resume := true, readyAt := s.turns, rstb := [], autow := false, waitSeg := [],
                                  waitPg := none, susp := 0 } :: m) ∧
     (func = 1 → task ≠ all → ∀ x, first x → (∃ b ∈ x.rstb, b = false) → answers s 1) ∧
     (func = 1 → task = all → s.me.fstop = true → ts ≠ [] → (∀ x ∈ ts, ∀ b ∈ x.rstb, b = true) →
        ∃ u : State, answers u 0 ∧ u.mem = s.mem ∧ u.tasks.length = s.tasks.length ∧
          ((∀ y ∈ s.tasks, y.cid = s.cid → y.state = .faulted → y.autoWaits = false) →
            ∀ y ∈ u.tasks, y.cid = s.cid → y.state ≠ .faulted ∧ y.state ≠ .suspended)) ∧
     (func = 2 → task ≠ all → ∀ x, first x → answers (s.abortTask x) 0) ∧
     (func = 2 → task = all → s.me.fstop = true →
        answers ((s.tasks.filter (fun t => decide (t.cid = s.cid) && t.abortable)).foldl State.abortTask s) 0) ∧
     ((func ≠ 1 ∧ func ≠ 2) ∨ (task = all ∧ s.me.fstop = false) ∨ (task ≠ all ∧ ∀ x ∈ ts, x.id ≠ task) → answers s 1)) ∧
  (∀ (s : State) (t : Task), let u := s.abortTask t
     (∀ l y m, s.tasks = l ++ y :: m → t.same y = true → y.core = t.core → (∀ z ∈ l, t.same z = false ∨ z.core ≠ t.core) → u.tasks = l ++ m) ∧
     ∀ k, t.core = some k → t.state = .faulted → (s.getCore k).task.cid = t.cid → (s.getCore k).task.key = t.key → (s.getCore k).run ≠ .idle →
       (u.getCore k).run = .idle ∧ (u.getCore k).gated = [] ∧ (u.getCore k).journal = [])

/-- nset, nstep and nbrk (R161, R162, R164): the level, entry, kind, index, stride, body and trip count of the control word. -/
def Obligations.NestOperations : Prop :=
  let t := fun (r : Trig) => r.t.scalar.toNat
  let l := fun (r : Trig) => r.t.scalar.toNat % 8
  let kind := fun (r : Trig) => r.t.scalar.toNat / 64 % 4
  let i := fun (r : Trig) => r.t.scalar.toNat / 256 % 64
  let bad := fun (_ : State) (_ : Trig) => ({ cause := .illegalMove } : FaultInfo)
  Stages .s .nset 0 (fun _ r => l r ≠ 0 ∧ l r ≠ 7)
    (fun _ r => [.nset (l r) (bit r.t.scalar 3) (t r / 2 ^ 16 % 2 ^ 13) (t r / 2 ^ 32)]) ∧
  Raises .s .nset 0 none (fun _ r => l r = 0 ∨ l r = 7) bad ∧
  Stages .s .nstep 0 (fun s r => l r ≠ 0 ∧ l r ≠ 7 ∧ (kind r = 1 → i r < s.me.regs) ∧ (2 ≤ kind r → i r < 32))
    (fun _ r => [.nstep (l r) (t r / 8 % 8) (if kind r = 0 then {} else ⟨kind r, i r, bitsOf (fun j => bit r.t.scalar (min (j + 16) 63))⟩)]) ∧
  Raises .s .nstep 0 none (fun s r => l r = 0 ∨ l r = 7 ∨ (kind r = 1 ∧ s.me.regs ≤ i r) ∨ (2 ≤ kind r ∧ 32 ≤ i r)) bad ∧
  Stages .s .nbrk 0 (fun s r => l r ≠ 0 ∧ l r ≠ 7 ∧ (s.core.level (l r)).arm = true) (fun _ r => [.nbrk (l r)]) ∧
  Raises .s .nbrk 0 none (fun s r => l r = 0 ∨ l r = 7 ∨ (s.core.level (l r)).arm = false) bad

/-- sld, sst, srd, swr, tick, enrd (R165 to R168): the word, the register or the count that the low bits of t select. That the low four
bits of tick's second result are free above what ticks of the quantum have seen is the model's choice (log 5). PPWR, TMAX and the monitors
before a first sample are the model's (log 1). -/
def Obligations.SystemRegisters : Prop :=
  let n := fun (r : Trig) => r.t.scalar.toNat % 256
  let e := fun (r : Trig) => r.t.scalar.toNat % 512
  let bad := fun (_ : State) (_ : Trig) => ({ cause := .illegalMove } : FaultInfo)
  Delivers .s .sld 0 1 (fun s r => .sc (s.core.word (n r))) ∧
  Stages .s .sst 1 (fun _ _ => True) (fun _ r => [.spillWord (n r) r.a.scalar]) ∧
  DeliversIf .s .srd 0 1 (fun _ r => n r = 0) (fun s _ => .sc (s.core.coord.setWidth 64)) ∧
  DeliversIf .s .srd 0 1 (fun _ r => n r = 1) (fun s _ => .sc (s.core.fst.setWidth 64)) ∧
  DeliversIf .s .srd 0 1 (fun _ r => n r = 2) (fun s _ => .sc (s.core.fmt.setWidth 64)) ∧
  DeliversIf .s .srd 0 1 (fun _ r => n r = 3) (fun s _ => .sc s.mts) ∧
  DeliversIf .s .srd 0 1 (fun _ r => n r = 4) (fun s _ => .sc (BitVec.ofNat 64 (s.poolWaiting s.me.tenant))) ∧
  DeliversIf .s .srd 0 1 (fun _ r => n r = 5) (fun s _ => .sc (BitVec.ofNat 64 s.core.task.id)) ∧
  DeliversIf .s .srd 0 1 (fun _ r => n r = 6) (fun s _ => .sc (s.core.stream 0)) ∧
  DeliversIf .s .srd 0 1 (fun _ r => 8 ≤ n r ∧ n r ≤ 15) (fun s r => .sc ((s.me.block s.cid).extractLsb' (64 * (n r - 8)) 64)) ∧
  DeliversIf .s .srd 0 1 (fun _ r => 17 ≤ n r ∧ n r ≤ 22) (fun s r => .sc (s.core.level (n r - 16)).word) ∧
  DeliversIf .s .srd 0 1 (fun _ r => n r = 32) (fun s _ => .sc ((s.mon (s.cur / 4)).temp.setWidth 64)) ∧
  DeliversIf .s .srd 0 1 (fun _ r => n r = 33) (fun s _ => .sc ((s.mon (s.cur / 4)).vcore.setWidth 64)) ∧
  DeliversIf .s .srd 0 1 (fun _ r => n r = 34) (fun s _ => .sc ((s.mon (s.cur / 4)).vsram.setWidth 64)) ∧
  DeliversIf .s .srd 0 1 (fun _ r => n r = 35) (fun s _ => .sc ((s.mon (s.cur / 4)).proc.setWidth 64)) ∧
  DeliversIf .s .srd 0 1 (fun _ r => n r = 36) (fun s _ => .sc (BitVec.ofNat 64 (s.tmax % 65536).toNat)) ∧
  DeliversIf .s .srd 0 1 (fun _ r => n r = 37) (fun s _ => .sc (BitVec.ofNat 64 (s.ppwr % 65536))) ∧
  DeliversIf .s .srd 0 1 (fun _ r => n r = 38)
    (fun s _ => .sc (BitVec.ofNat 64 (s.throttle.cap % 65536 + 65536 * (s.throttle.floor % 8)))) ∧
  DeliversIf .s .srd 0 1 (fun _ r => n r = 39) (fun s _ => .sc (BitVec.ofNat 64 (s.pstate.num % 8 + 8 * b2n s.reduced))) ∧
  DeliversIf .s .srd 0 1 (fun _ r => 40 ≤ n r ∧ n r ≤ 63) (fun _ _ => .sc 0) ∧
  Raises .s .srd 0 (some 1) (fun _ r => n r = 7 ∨ n r = 16 ∨ (23 ≤ n r ∧ n r ≤ 31) ∨ 64 ≤ n r) bad ∧
  Stages .s .swr 1 (fun _ r => n r = 1) (fun _ r => [.swrFst r.a.scalar]) ∧
  Stages .s .swr 1 (fun _ r => n r = 6) (fun _ r => [.swrGen r.a.scalar]) ∧
  Raises .s .swr 1 none (fun _ r => n r ≠ 1 ∧ n r ≠ 6) bad ∧
  (∀ (s : State) (g : Guard) (src : Src) (v : Val) (t : List Nat), s.Ready .s g src (some 1) v t →
     ∃ n, s.sub % 16 ≤ n ∧ n < 16 ∧
       exec (.tick g src) s = .next (({ s with fresh := s.fresh + 1, sub := n } : State).plus (s.land (s.trigAt .s v t 0) 1
         { val := .sc (BitVec.ofNat 64 (s.frameOf s.me.tenant)), val2 := some (.sc (BitVec.ofNat 64 (s.qc % 64 * 16 + n))) }))) ∧
  DeliversIf .s .enrd 0 1 (fun _ r => e r ≤ 255) (fun s r => .sc (BitVec.ofNat 64 (sget 0 s.me.ktask (e r) / 1000))) ∧
  DeliversIf .s .enrd 0 1 (fun _ r => e r = 256) (fun s _ => .sc (BitVec.ofNat 64 (s.me.energy / 1000))) ∧
  DeliversIf .s .enrd 0 1 (fun _ r => e r = 257) (fun s _ => .sc (BitVec.ofNat 64 (sget 0 s.me.ktask 256 / 1000))) ∧
  Raises .s .enrd 0 (some 1) (fun _ r => 258 ≤ e r) bad

/-- nxt claims the next-tile register NTP and commits; post reads the 64 bytes of its card, commits, and offers it at its result bundle
(R101, R169, R170, R260); a card that is unaligned or that its access rejects raises; salloc, sfree and sstat deliver the created name
with its status, the status of the free at the result bundle, the descriptor's words (R125 to R127, R130). In a timed task all but sstat
raise TIMED_STALL, post for another cluster alone. What salloc makes of the segment table (R125, R115 to R117): bounds and quota fault, no
FREE index is status 2, no backing place status 3; else the lowest FREE index gets its home, size and tiles. Where a first fit exists in
the home store, as it stands or after a compaction, it is RESIDENT with zeroed storage and status 0; else it is RECALLING with ZERO and
status 1, last of those that wait, and the placements that wait are served. Which backing place is taken is free (log 5); the compaction
runs to its end in salloc (log 27). That unwritten storage reads 0 is the model's choice (log 2). -/
def Obligations.QueueAndSegmentOperations : Prop :=
  ((Stages .s .nxt 0 (fun s _ => s.core.task.timed = false ∧ s.core.nxts.length < 4)
      (fun s r => [.nxt (r.t.scalar.toNat % 16) s.core.ntp, .commit]) ∧
    Raises .s .nxt 0 none (fun s _ => s.core.task.timed = false ∧ 4 ≤ s.core.nxts.length) (fun _ _ => { cause := .illegalMove }) ∧
    Raises .s .nxt 0 none (fun s _ => s.core.task.timed = true) (fun _ _ => { cause := .timedStall }) ∧
    (∀ (s : State) (g : Guard) (src : Src) (v : Val) (t : List Nat), s.Ready .s g src (some 7) v t →
      let r := s.trigAt .s v t 1
      let name := addrName r.t.scalar
      let off := addrOff r.t.scalar
      (s.core.task.timed = true → r.a.scalar.toNat % 64 = s.lclu) →
      (off % 64 ≠ 0 → exec (.post g src) s = .next (s.raise (s.unaligned name off))) ∧
      (off % 64 = 0 →
        match s.slotAccess [⟨name, off, 64⟩] false with
        | .val _ t2 => exec (.post g src) s = .next (s.plus (s.land (r.touching t2) 7
            { val := .sc 0, mem := true, more := [.commit],
              act := .post (r.a.scalar.toNat % 64) (BitVec.ofNat 512 (natLE (s.slotRead (nameIdx name) off 64))) }))
        | .fault f => exec (.post g src) s = .next (s.raise { f with unit := 0 })
        | .hold => exec (.post g src) s = .next (s.holdMove 0))) ∧
    Raises .s .post 1 (some 7) (fun s r => s.core.task.timed = true ∧ r.a.scalar.toNat % 64 ≠ s.lclu) (fun _ _ => { cause := .timedStall })) ∧
   (let home := fun (r : Trig) => r.a.scalar.toNat % 64
    let stall := fun (_ : State) (_ : Trig) => ({ cause := .timedStall } : FaultInfo)
    (∀ (s : State) (g : Guard) (src : Src) (v : Val) (t : List Nat), s.Ready .s g src (some 7) v t → s.core.task.timed = false →
      let r := s.trigAt .s v t 1
      let bytes := r.t.scalar.toNat
      let empty := bit r.a.scalar 6
      match s.salloc s.cid bytes (home r) empty with
      | .made _ name st => exec (.salloc g src) s = .next (s.plus (s.land r 7
          { val := .sc (name.setWidth 64), val2 := some (.sc (BitVec.ofNat 64 st)), more := [.salloc bytes (home r) empty] }))
      | .none st => exec (.salloc g src) s = .next (s.plus (s.land r 7
          { val := .sc (BitVec.allOnes 64), val2 := some (.sc (BitVec.ofNat 64 st)) }))
      | .fault f => exec (.salloc g src) s = .next (s.raise { f with unit := 0 })) ∧
    Raises .s .salloc 1 (some 7) (fun s _ => s.core.task.timed = true) stall ∧
    DeliversIf .s .sfree 0 7 (fun s r => s.core.task.timed = false ∧ s.me.stale (addrName r.t.scalar) = false)
      (fun _ r => { val := .sc 0, val2 := some (.sc 0), act := .sfree (addrName r.t.scalar) }) ∧
    Raises .s .sfree 0 (some 7) (fun s r => s.core.task.timed = false ∧ s.me.stale (addrName r.t.scalar) = true)
      (fun s r => { cause := .segStale, info := BitVec.ofNat 64 (s.me.seg (nameIdx (addrName r.t.scalar))).gen, wher := segWhere (addrName r.t.scalar) 0 }) ∧
    Raises .s .sfree 0 (some 7) (fun s _ => s.core.task.timed = true) stall ∧
    DeliversIf .s .sstat 0 7 (fun s r => s.me.stale (addrName r.t.scalar) = true)
      (fun s r => { val := .sc (bitsOf (fun i => i == 63)),
                    val2 := some (.sc (BitVec.ofNat 64 (s.me.seg (nameIdx (addrName r.t.scalar))).age)) }) ∧
    DeliversIf .s .sstat 0 7 (fun s r => s.me.stale (addrName r.t.scalar) = false)
      (fun s r =>
        let g := s.me.seg (nameIdx (addrName r.t.scalar))
        { val := .sc (BitVec.ofNat 64 (g.state.num + 8 * b2n g.zero + 16 * b2n g.freep + 2 ^ 5 * (g.home % 64) + 2 ^ 11 * (g.pin % 256) +
            2 ^ 19 * (g.inb % 256) + 2 ^ 27 * (g.size % 2 ^ 19))), val2 := some (.sc (BitVec.ofNat 64 g.age)) })) ∧
   -- what those of them that act later do: nxt and salloc as the bundle ends, post and sfree with the result, on the value they deliver
   (∀ (s : State) (d slot : Nat), s.applyEff (.nxt d slot) =
      s.upd (fun c => { c with nxts := c.nxts ++ [(d, slot, none, c.issued + 24)], ntp := (c.ntp + 1) % 4 })) ∧
   (∀ (s u : State) (bytes home : Nat) (empty : Bool) (name : W16) (st : Nat), s.salloc s.cid bytes home empty = .made u name st →
      s.applyEff (.salloc bytes home empty) = u) ∧
   (∀ (s : State) (r : Result) (clu : Nat) (card : BitVec 512), r.act = .post clu card →
      let o := s.offer s.cid clu (decodeCard card)
      s.landResult r = o.1.landResult { r with act := .none, val := .sc (BitVec.ofNat 64 o.2) }) ∧
   (∀ (s : State) (r : Result) (name : W16), r.act = .sfree name →
      let f := s.sfree s.cid name
      let g := s.me.seg (nameIdx name)
      let bumped := s.onSeg s.cid (nameIdx name) (fun y => { y with gen := (y.gen + 1) % 16 })
      s.landResult r = f.1.autoWake.landResult { r with act := .none, val := .sc (BitVec.ofNat 64 f.2) } ∧
      (s.me.stale name = true → f = (s, 0)) ∧
      (s.me.stale name = false → g.pin ≠ 0 ∨ g.inb ≠ 0 ∨ g.busy = true →
        f = (bumped.onSeg s.cid (nameIdx name) (fun y => { y with freep := true }), 1)) ∧
      (s.me.stale name = false → g.pin = 0 → g.inb = 0 → g.busy = false → ∃ u : State,
        f = (u.compact s.me.tenant (s.me.group.pclu g.home), 0) ∧ (u.seg s.cid (nameIdx name)).state = .free ∧
        (u.seg s.cid (nameIdx name)).gen = (g.gen + 1) % 16 ∧ u.mem = s.mem ∧ u.waitq = s.waitq.filter (· ≠ (s.cid, nameIdx name))))) ∧
  (∀ (s : State) (cid bytes home : Nat) (empty : Bool), (alook s.ctxs cid).isSome = true →
     let c := s.ctx cid
     let n := (bytes + 63) / 64
     let v : State := { s with fresh := s.fresh + 1 }
     let legal := 0 < bytes ∧ n ≤ 393216 ∧ home < 64 ∧ c.group.hasClu home = true
     (¬ legal → s.salloc cid bytes home empty = .fault { cause := .segBounds, info := BitVec.ofNat 64 (n * 64 % 2 ^ 32) }) ∧
     (legal → c.quota < n → s.salloc cid bytes home empty = .fault { cause := .segQuota, info := BitVec.ofNat 64 (n % 2 ^ 32) }) ∧
     (legal → n ≤ c.quota → (∀ i, i < 4096 → (c.seg i).state ≠ .free) → s.salloc cid bytes home empty = .none 2) ∧
     ∀ x, legal → n ≤ c.quota → (∀ i, i < x → (c.seg i).state ≠ .free) → x < 4096 → (c.seg x).state = .free →
       (s.backPlace cid n = none → s.salloc cid bytes home empty = .none 3) ∧
       (s.backPlace cid n ≠ none →
         (∀ b, v.room cid home n none = some b ∨
             (v.room cid home n none = none ∧ (v.afterCompaction cid home).room cid home n none = some b) →
           ∃ u, s.salloc cid bytes home empty = .made u (segName x (c.seg x).gen) 0 ∧
             (u.seg cid x).state = .resident ∧ (u.seg cid x).base = b ∧ (u.seg cid x).size = n ∧ (u.seg cid x).home = home ∧
             (u.seg cid x).age = s.frameCtx cid ∧ s.backPlace cid n = some (u.seg cid x).bkoff ∧
             (∀ t, t < (u.seg cid x).ntiles → ((u.seg cid x).tile t).st = if empty then .empty else .ready) ∧
             (empty = false → ∀ k, k < n * 64 → u.mem.get (u.segAddr cid x k) = 0)) ∧
         (v.room cid home n none = none → (v.afterCompaction cid home).room cid home n none = none →
           ∃ w : State, s.salloc cid bytes home empty =
               .made (({ w with waitq := s.waitq ++ [(cid, x)] } : State).pumpFor cid x) (segName x (c.seg x).gen) 1 ∧
             (w.seg cid x).state = .recalling ∧ (w.seg cid x).zero = true ∧ (w.seg cid x).size = n ∧ (w.seg cid x).home = home ∧
             (∀ i, i ≠ x → w.seg cid i = s.seg cid i))))

/-! ### Lanes of V0 and V1 -/

/-- The integer operations and compares on the elements of R173, masked by R174 (R177, R181); the float compares take their relation, with
its flag, from the elements' numbers. -/
def Obligations.VectorIntegers : Prop :=
  (IntLanes .vadd 1 (fun _ a _ t => a + t) ∧
   IntLanes .vsub 1 (fun w a _ t => lowBits w ((a : Int) - t)) ∧
   IntLanes .vmul 1 (fun _ a _ t => a * t) ∧
   IntLanes .vmulh 1 (fun w a _ t => lowBits w (signedOf w a * signedOf w t / 2 ^ w)) ∧
   IntLanes .vmulhu 1 (fun w a _ t => a * t / 2 ^ w) ∧
   IntLanes .vmad 2 (fun _ a b t => a * b + t) ∧
   IntLanes .vmin 1 (fun w a _ t => if signedOf w t ≤ signedOf w a then t else a) ∧
   IntLanes .vmax 1 (fun w a _ t => if signedOf w t ≤ signedOf w a then a else t) ∧
   IntLanes .vminu 1 (fun _ a _ t => if t ≤ a then t else a) ∧
   IntLanes .vmaxu 1 (fun _ a _ t => if t ≤ a then a else t) ∧
   IntLanes .vand 1 (fun _ a _ t => a &&& t) ∧
   IntLanes .vor 1 (fun _ a _ t => a ||| t) ∧
   IntLanes .vxor 1 (fun _ a _ t => a ^^^ t) ∧
   IntLanes .vandn 1 (fun w a _ t => (BitVec.ofNat w a &&& ~~~BitVec.ofNat w t).toNat) ∧
   IntLanes .vshl 1 (fun w a _ t => a * 2 ^ (t % w)) ∧
   IntLanes .vshr 1 (fun w a _ t => a / 2 ^ (t % w)) ∧
   IntLanes .vsra 1 (fun w a _ t => lowBits w (signedOf w a / 2 ^ (t % w))) ∧
   IntLanes .vabs 0 (fun w _ _ t => (signedOf w t).natAbs) ∧
   IntLanes .vneg 0 (fun w _ _ t => lowBits w (-(t : Int))) ∧
   IntLanes .vclz 0 (fun w _ _ t => ((List.range w).takeWhile (fun i => t / 2 ^ (w - 1 - i) % 2 == 0)).length) ∧
   IntLanes .vpopc 0 (fun w _ _ t => ((List.range w).filter (fun i => t / 2 ^ i % 2 == 1)).length)) ∧
  (IntLanes .vceq 1 (fun w a _ t => allOnesIf w (a = t)) ∧
   IntLanes .vcne 1 (fun w a _ t => allOnesIf w (a ≠ t)) ∧
   IntLanes .vclt 1 (fun w a _ t => allOnesIf w (signedOf w a < signedOf w t)) ∧
   IntLanes .vcle 1 (fun w a _ t => allOnesIf w (signedOf w a ≤ signedOf w t)) ∧
   LanesOf fsfxWidth .fceq 1 2 (fun f _ a _ t => (allOnesIf (fsfxWidth f) ((fceqE (sfxFP f.num) a t).1 = true), (fceqE (sfxFP f.num) a t).2)) ∧
   LanesOf fsfxWidth .fclt 1 2 (fun f _ a _ t => (allOnesIf (fsfxWidth f) ((fcltE (sfxFP f.num) a t).1 = true), (fcltE (sfxFP f.num) a t).2)) ∧
   LanesOf fsfxWidth .fcle 1 2 (fun f _ a _ t => (allOnesIf (fsfxWidth f) ((fcleE (sfxFP f.num) a t).1 = true), (fcleE (sfxFP f.num) a t).2)) ∧
   LanesOf fsfxWidth .funord 1 2 (fun f _ a _ t => (allOnesIf (fsfxWidth f) ((funordE (sfxFP f.num) a t).1 = true), (funordE (sfxFP f.num) a t).2)))

/-- The float operations (R178): each enabled element is the operation of R178 to R180 on the elements, rounded by RM with STOCH read as
RNE, and the flags are those of the enabled elements. A finite value of a binary format of R74 rounds to its own code in every mode, with
no flag: no conversion, sum or copy moves a number that the format holds. The codes of signalling NaNs and the precision behind the
functions are the model's (log 9). -/
def Obligations.VectorFloats : Prop :=
  (FloatLanes .fadd 1 4 (fun p rm a _ t => faddE p rm a t) ∧ FloatLanes .fsub 1 4 (fun p rm a _ t => fsubE p rm a t) ∧
   FloatLanes .fmul 1 4 (fun p rm a _ t => fmulE p rm a t) ∧ FloatLanes .ffma 2 4 (fun p rm a b t => ffmaE p rm a b t) ∧
   FloatLanes .fnma 2 4 (fun p rm a b t => fnmaE p rm a b t) ∧ FloatLanes .fmin 1 4 (fun p _ a _ t => fminmaxE p false a t) ∧
   FloatLanes .fmax 1 4 (fun p _ a _ t => fminmaxE p true a t) ∧ FloatLanes .fabs 0 4 (fun p _ _ _ t => fabsE p t) ∧
   FloatLanes .fneg 0 4 (fun p _ _ _ t => fnegE p t) ∧ FloatLanes .frcp 0 8 (fun p rm _ _ t => fnE frcpN p rm t) ∧
   FloatLanes .frsq 0 8 (fun p rm _ _ t => fnE frsqN p rm t) ∧ FloatLanes .fex2 0 8 (fun p rm _ _ t => fnE fex2N p rm t) ∧
   FloatLanes .flg2 0 8 (fun p rm _ _ t => fnE flg2N p rm t)) ∧
  (∀ p ∈ [fp4, fp6a, fp6b, fp8a, fp8b, fp16, bf16, fp19, fp32, fp64], ∀ (rm : RM) (sat : Bool) (x : Nat) (neg : Bool) (n d : Nat),
     x < 2 ^ (1 + p.eb + p.m) → decodeFP p x = .fin neg n d → roundFP p rm sat (decodeFP p x) = (x, 0))

/-- Reductions and scan (R190, R191): for .i32 what the enabled lanes add up to, modulo 2^32, and their signed extremes, in every lane,
and the running sums; for the float suffixes the tree, the order of R179 and the running sums of the model's own functions. The lane
movements of R192. -/
def Obligations.ReductionsAndLaneMoves : Prop :=
  (∀ (v : VUnit) (f : QSfx) (s : State) (g : Guard) (src : Src) (x : Val) (t : List Nat),
     (s.Ready v.dom g src (some 6) x t →
       let r := s.trigAt v.dom x t 0
       let y := r.t.vector
       let on := (List.range 256).filter (fun i => bit r.mask i)
       let mask := if f = .f64 then some (pairMask r.mask) else none
       (exec (.rsum v f g src) s = .next (s.plus (s.land r 6
         { val := .vec (spread f (rsumOf f r.rm r.mask y).1), fl := (rsumOf f r.rm r.mask y).2, mask := mask }))) ∧
       (exec (.rmax v f g src) s = .next (s.plus (s.land r 6
         { val := .vec (spread f (rextremeOf f true r.mask y).1), fl := (rextremeOf f true r.mask y).2, mask := mask }))) ∧
       (exec (.rmin v f g src) s = .next (s.plus (s.land r 6
         { val := .vec (spread f (rextremeOf f false r.mask y).1), fl := (rextremeOf f false r.mask y).2, mask := mask }))) ∧
       (f = .i32 →
         rsumOf f r.rm r.mask y = ((on.map (fun i => (lane y i).toNat)).sum % 2 ^ 32, 0) ∧
         signedOf 32 (rextremeOf f true r.mask y).1 = (on.map (fun i => (lane y i).toInt)).foldl max (-2 ^ 31) ∧
         signedOf 32 (rextremeOf f false r.mask y).1 = (on.map (fun i => (lane y i).toInt)).foldl min (2 ^ 31 - 1))) ∧
     (s.Ready v.dom g src (some 8) x t →
       let r := s.trigAt v.dom x t 0
       let y := r.t.vector
       (exec (.scan v f g src) s = .next (s.plus (s.land r 8
         { val := .vec (scanOf f r.rm r.mask y).1, fl := (scanOf f r.rm r.mask y).2,
           mask := if f = .f64 then some (pairMask r.mask) else none }))) ∧
       (f = .i32 → ∀ i, i < 256 → lane (scanOf f r.rm r.mask y).1 i =
         BitVec.ofNat 32 (((List.range (i + 1)).filter (fun j => bit r.mask j)).map (fun j => (lane y j).toNat)).sum))) ∧
  (∀ (v : VUnit) (s : State) (g : Guard) (src : Src) (x : Val) (t : List Nat), s.Ready v.dom g src (some 3) x t →
     let r := s.trigAt v.dom x t 1
     let r2 := s.trigAt v.dom x t 2
     let a := r.a.vector
     let c := (lane r.t.vector 0).toNat % 256
     exec (.vrot v g src) s = .next (s.plus (s.land r 3 (.vec (vecOf (fun i => lane a ((i + 256 - c) % 256)))))) ∧
     exec (.vbcast v g src) s = .next (s.plus (s.land r 3 (.vec (vecOf (fun _ => lane a c))))) ∧
     exec (.vext v g src) s = .next (s.plus (s.land r 3 (.vec (vecOf (fun i => if i = 0 then lane a c else 0))))) ∧
     exec (.vins v g src) s = .next (s.plus (s.land r2 3 (.vec (vecOf (fun i => if i = c then lane r.b.vector 0 else lane a i))))))

/-- vsel takes the lane of a where that of t is not 0 and the lane of b elsewhere, under the mask (R182); vmerge takes the lane of a where
the mask is 1 and the lane of t elsewhere, into every lane (R183). -/
def Obligations.Merges : Prop :=
  ∀ (v : VUnit) (s : State) (g : Guard) (src : Src) (x : Val) (t : List Nat), s.Ready v.dom g src (some 2) x t →
    (let r := s.trigAt v.dom x t 2
     exec (.vsel v g src) s = .next (s.plus (s.land r 2
       (.vec (vecOf (fun i =>
         if bit r.mask i then (if lane r.t.vector i ≠ 0 then lane r.a.vector i else lane r.b.vector i) else 0)))))) ∧
    (let r := s.trigAt v.dom x t 1
     exec (.vmerge v g src) s = .next (s.plus (s.land r 2
       { val := .vec (vecOf (fun i => if bit r.mask i then lane r.a.vector i else lane r.t.vector i)), mask := some allLanes })))

/-- The format operations (R184 to R189): what each delivers, the generator stream that cvt and qnt draw from (R81, R82), and the codes
that raise FORMAT_UNSUPPORTED. -/
def Obligations.FormatOperations : Prop :=
  (∀ (v : VUnit) (s : State) (g : Guard) (src : Src) (x : Val) (t : List Nat), s.Ready v.dom g src (some 4) x t →
    let r0 := s.trigAt v.dom x t 0
    let r := s.trigAt v.dom x t 1
    let fa := s.core.fmt.toNat / 2 ^ 35
    let fo := s.core.fmt.toNat / 2 ^ 20 % 32
    let rm := s.core.fmt.toNat / 2 ^ 17 % 8
    let no := Host.Outcome.next (s.raise { cause := .formatUnsupported, unit := v.dom.slot.num })
    (if (17 ≤ fa ∧ fa ≤ 23) ∨ (17 ≤ fo ∧ fo ≤ 23) then exec (.cvt v g src) s = no
     else
      let c := cvtVec fa fo rm r0.sat r0.mask (s.core.stream 0) r0.t.vector
      exec (.cvt v g src) s = .next ((s.drew c.2.2).plus (s.land r0 4
        { val := .vec c.1, fl := c.2.1, mask := if fieldBits fa = 64 ∨ fieldBits fo = 64 then some (pairMask r0.mask) else none }))) ∧
    (if (fa = 15 ∨ fa = 13) ∧ 17 ≤ fo ∧ fo ≤ 23 ∧ r.scp ≤ 2 then
      let q := drawLanes (fun gen a t => ((BitVec.ofNat 32 (mxQuant fo (convRm rm fo gen).1 (a.toNat % 256) (mxSrc fa t)).1,
          (mxQuant fo (convRm rm fo gen).1 (a.toNat % 256) (mxSrc fa t)).2, (convRm rm fo gen).2))) r.mask.toNat (s.core.stream 0) r.a.vector r.t.vector
      exec (.qnt v g src) s = .next ((s.drew q.2.2).plus (s.land r 4 { val := .vec q.1, fl := q.2.1 }))
     else exec (.qnt v g src) s = no) ∧
    ((17 ≤ fa ∧ fa ≤ 23) ∨ fa = 10 →
      ∃ out fl, Elementwise 32 (fun a _ t => roundNum 15 r.rm false
          (if fa = 10 then operandNum 10 (t % 256) else mxNum fa (a % 256) (t % 2 ^ fieldBits fa))) r.mask r.a.vector r.b.vector r.t.vector out fl ∧
        exec (.dqt v g src) s = .next (s.plus (s.land r 4 { val := .vec out, fl := fl }))) ∧
    (¬ ((17 ≤ fa ∧ fa ≤ 23) ∨ fa = 10) → exec (.dqt v g src) s = no) ∧
    (let w := fieldBits fo
     if w = 2 ∨ w = 4 ∨ w = 8 ∨ w = 16 then
       (∃ out, Elementwise 32 (fun a _ t =>
           (((List.range (16 / w)).map (fun j => a / 2 ^ (2 * w * j) % 2 ^ w * 2 ^ (w * j) + t / 2 ^ (2 * w * j) % 2 ^ w * 2 ^ (w * j + 16))).sum, 0))
           r.mask r.a.vector r.b.vector r.t.vector out 0 ∧
         exec (.pack v g src) s = .next (s.plus (s.land r 4 (.vec out)))) ∧
       exec (.unpack v g src) s = .next (s.plus (s.land r0 4
         { val := .vec (r0.t.vector.map (unpackLane w (decide (fo = 0 ∨ fo = 4 ∨ fo = 11)) false)),
           val2 := some (.vec (r0.t.vector.map (unpackLane w (decide (fo = 0 ∨ fo = 4 ∨ fo = 11)) true))) }))
     else exec (.pack v g src) s = no ∧ exec (.unpack v g src) s = no)) ∧
  (∀ (v : VUnit) (s : State) (g : Guard) (src : Src) (x : Val) (t : List Nat), s.Ready v.dom g src (some 6) x t →
    let r := s.trigAt v.dom x t 0
    if (r.fa = 15 ∨ r.fa = 13) ∧ 17 ≤ r.fo ∧ r.fo ≤ 23 ∧ r.scp ≤ 2 then
      let code := fun (b : Nat) => (amaxCodes r.fa r.fo r.scp r.rm r.mask r.t.vector).getD b (0, 0)
      let bytes := fun (b : Nat) => (code b).1 + 2 ^ 8 * (code (b + 1)).1 + 2 ^ 16 * (code (b + 2)).1 + 2 ^ 24 * (code (b + 3)).1
      exec (.vAmax v g src) s = .next (s.plus (s.land r 6
        { val := .vec (vecOf (fun i => BitVec.ofNat 32 (code (i / 32)).1)),
          val2 := some (.vec (vecOf (fun i => BitVec.ofNat 32 (if i = 0 then bytes 0 else if i = 1 then bytes 4 else 0)))),
          fl := (List.range 8).foldl (fun f b => f ||| (code b).2) 0 }))
    else exec (.vAmax v g src) s = .next (s.raise { cause := .formatUnsupported, unit := v.dom.slot.num }))

/-- The vector accesses of R193 to one word for each enabled lane, at the offset of their row, and the spill lines (R196). What an access
asks of its offsets (R193, R194): a multiple of 4 for every enabled lane, the acquisition of R121 over them, and in a timed task at most
eight cycles of a bank. A store writes the words of its lanes in order, so the later of two that overlap stands, and no other byte (R101,
R193); under a mark memory waits for the commit. -/
def Obligations.VectorMemory : Prop :=
  (let c := fun (x : Val) => (lane x.vector 0).toNat
   let stride := fun (r : Trig) => 4 * (c r.t / 2 ^ 16)
   VLoadOf .vld 8 (fun r i => c r.a + 64 * i) ∧ VLoadOf .vlds 8 (fun r i => c r.a + stride r * i) ∧
   VLoadOf .vgth 12 (fun r i => (lane r.a.vector i).toNat) ∧
   VStoreOf .vst 8 (fun r i => c r.b + 64 * i) ∧ VStoreOf .vsts 8 (fun r i => c r.b + stride r * i) ∧
   VStoreOf .vsct 12 (fun r i => (lane r.b.vector i).toNat) ∧
   (∀ v : VUnit, Delivers v.dom (.vsld v) 0 1 (fun s r => .vec (s.core.line (c r.t % 64)))) ∧
   (∀ v : VUnit, Stages v.dom (.vsst v) 1 (fun _ _ => True) (fun _ r => [.spillLine (c r.t % 64) r.a.vector r.mask]))) ∧
  (∀ (s : State) (name : W16) (m : Mask) (off : Nat → Nat) (write : Bool),
     let offs := laneOffs m off
     ((∃ i, i < 256 ∧ bit m i = true ∧ off i % 4 ≠ 0) → ∃ i, bit m i = true ∧ off i % 4 ≠ 0 ∧
       (∀ j, j < i → bit m j = true → off j % 4 = 0) ∧ s.vAccess name offs write = .fault (s.unaligned name (off i))) ∧
     ((∀ i, i < 256 → bit m i = true → off i % 4 = 0) →
       (offs ≠ [] → ∀ (v : Val) (t : List Nat), s.slotAccess (offs.map (fun o => ⟨name, o.2, 4⟩)) write = .val v t →
         (s.core.task.timed = false ∨ portCount offs ≤ 8 → s.vAccess name offs write = .val v t) ∧
         (s.core.task.timed = true ∧ 8 < portCount offs → s.vAccess name offs write = .hold)) ∧
       (offs = [] → ∀ r, s.slotAccess [⟨name, 0, 0⟩] write = r → s.core.task.timed = false → s.vAccess name offs write = r))) ∧
  (∀ (s : State) (g : GStore), (s.seg s.cid g.seg).placed = true →
     let u := s.applyStores [.store g]
     let at_ := s.segAddr s.cid g.seg
     let off := fun (o : Nat) (p : Nat × List Byte) => o < p.1 ∨ p.1 + p.2.length ≤ o
     (∀ k, (∀ p ∈ g.pieces, k < at_ p.1 ∨ at_ p.1 + p.2.length ≤ k) → u.mem.get k = s.mem.get k) ∧
     ∀ ps p qs o, g.pieces = ps ++ p :: qs → ¬ off o p → (∀ q ∈ qs, off o q) →
       (s.core.mark = none → s.core.task.cm = false → u.mem.get (at_ o) = p.2.getD (o - p.1) 0) ∧
       (∀ m, s.core.mark = some m → m.issue ≤ g.trig → u.mem = s.mem ∧ u.slotRead g.seg o 1 = [p.2.getD (o - p.1) 0] ∧
          (s.core.gated = [] → s.core.task.cm = false → u.commit.mem.get (at_ o) = p.2.getD (o - p.1) 0)))

/-! ### Permutations, masks, rings -/

/-- The permutation operations that write PD (R200 to R203): what the register will hold, a bijection for prand whatever its stream draws,
and that pload of no bijection raises PERM_INVALID with the values of R201; those that deliver (R200): index form, application, cycle
count, fixed points, order. -/
def Obligations.Permutations : Prop :=
  (let pa := fun (s : State) (c : BitVec 32) => s.core.perm (c.toNat / 16 % 16)
   let pb := fun (s : State) (c : BitVec 32) => s.core.perm (c.toNat / 256 % 16)
   PermOf .pcomp 14 true (fun s c q => Bijection (pa s c) → q.length = 256 ∧ ∀ i, i < 256 → q.getD i 0 = (pb s c).getD ((pa s c).getD i 0) 0) ∧
   PermOf .pinv 14 true (fun s c q => Bijection (pa s c) → Bijection q ∧ ∀ i, i < 256 → q.getD ((pa s c).getD i 0) 0 = i) ∧
   PermOf .pid 1 false (fun _ _ q => q = List.range 256) ∧
   PermOf .ppow 14 true (fun s c q => Bijection (pa s c) → Bijection q ∧
     ∀ i, i < 256 →
       if c.toNat / 2 ^ 16 < 2 ^ 15 then q.getD i 0 = Nat.repeat (fun j => (pa s c).getD j 0) (c.toNat / 2 ^ 16) i
       else Nat.repeat (fun j => (pa s c).getD j 0) (2 ^ 16 - c.toNat / 2 ^ 16) (q.getD i 0) = i) ∧
   (∀ (v : VUnit) (s : State) (g : Guard) (src : Src) (x : Val) (t : List Nat), s.Ready v.dom g src none x t →
     let r := s.trigAt v.dom x t 0
     let d := shuffle 255 (s.core.stream 0) (List.range 256)
     exec (.prand v g src) s = .next ((s.drew d.2).plus (r.took ++
       [.permWr { due := s.core.issued + 14, trig := s.core.issued, v := v, pd := (lane r.t.vector 0).toNat % 16, val := d.1, solve := true },
        .commit]))) ∧
   (∀ (v : VUnit) (s : State) (g : Guard) (src : Src) (x : Val) (t : List Nat), s.Ready v.dom g src none x t →
     let r := s.trigAt v.dom x t 1
     let l := r.t.vector.map (fun (y : BitVec 32) => y.toNat % 256)
     (Bijection l → exec (.pload v g src) s = .next (s.plus (r.took ++
       [.permWr { due := s.core.issued + 14, trig := s.core.issued, v := v, pd := (lane r.a.vector 0).toNat % 16, val := l, solve := true },
        .commit]))) ∧
     (¬ Bijection l → ∃ k m, k < 256 ∧ l.getD k 0 ∈ l.take k ∧ (l.take k).Nodup ∧ m ∉ l ∧ (∀ y, y < m → y ∈ l) ∧
       exec (.pload v g src) s =
         .next (s.raise { cause := .permInvalid, info := BitVec.ofNat 64 (l.getD k 0 + 256 * m), unit := v.dom.slot.num })))) ∧
  (∀ gen : W64, Bijection (shuffle 255 gen (List.range 256)).1) ∧
  (let pa := fun (s : State) (r : Trig) => s.core.perm ((lane r.t.vector 0).toNat / 16 % 16)
   (∀ (v : VUnit) (s : State) (g : Guard) (src : Src) (x : Val) (t : List Nat), s.Ready v.dom g src (some 3) x t →
     ∀ r0 r, r0 = s.trigAt v.dom x t 0 → r = s.trigAt v.dom x t 1 → (pa s r).length = 256 →
     exec (.pstore v g src) s = .next (s.plus (s.land r0 3
       { val := .vec (vecOf (fun i => BitVec.ofNat 32 ((pa s r0).getD i 0))), mask := some allLanes })) ∧
     exec (.papply v g src) s = .next (s.plus (s.land r 3 (.vec (vecOf (fun i => lane r.a.vector ((pa s r).getD i 0))))))) ∧
   (∀ (v : VUnit) (s : State) (g : Guard) (src : Src) (x : Val) (t : List Nat), s.Ready v.dom g src (some 10) x t →
     let r := s.trigAt v.dom x t 0
     let p := pa s r
     let step := fun i => p.getD i 0
     let all := fun (n : Nat) => Val.vec (splat (BitVec.ofNat 32 n))
     Bijection p →
     (∃ lens : List Nat,
       (∀ n, n ∈ lens → 0 < n) ∧ lens.sum = 256 ∧
       (∀ n, 0 < n → ((lens.filter (fun k => k = n)).length * n =
         ((List.range 256).filter (fun i => Nat.repeat step n i = i && (List.range n).all (fun m => m = 0 || Nat.repeat step m i ≠ i))).length)) ∧
       exec (.pcyc v g src) s = .next (s.plus (s.land r 10 { val := all lens.length, mask := some allLanes })) ∧
       exec (.porder v g src) s = .next (s.plus (s.land r 10
         { val := all (lens.foldl Nat.lcm 1), val2 := some (all (lens.foldl Nat.lcm 1 / 2 ^ 32)), mask := some allLanes }))) ∧
     exec (.pfix v g src) s = .next (s.plus (s.land r 10
       { val := .vec (vecOf (fun i => if step i = i then BitVec.allOnes 32 else 0)),
         val2 := some (all ((List.range 256).filter (fun i => step i = i)).length), mask := some allLanes }))))

/-- The mask operations of R204: what KD will hold in the next bundle, the count and the first set index. The ring operations (R206 to
R208): the ring that rbind binds, empty, from the fields of a, b and t, and its rejections; the advances of radv and rpush; the levels of
rlvl. -/
def Obligations.MasksAndRings : Prop :=
  (let kd := fun (r : Trig) => (lane r.t.vector 0).toNat % 16
   let ka := fun (s : State) (r : Trig) => s.core.mask ((lane r.t.vector 0).toNat / 16 % 16)
   let kb := fun (s : State) (r : Trig) => s.core.mask ((lane r.t.vector 0).toNat / 256 % 16)
   let all := fun (n : Nat) => ({ val := .vec (vecOf (fun _ => BitVec.ofNat 32 n)), mask := some allLanes } : Out)
   ∀ v : VUnit,
     let wr := fun (s : State) (r : Trig) (m : Mask) =>
       [Eff.maskWr { due := s.core.issued + 1, trig := s.core.issued, v := v, kd := kd r, val := m }]
     Stages v.dom (.mand v) 0 (fun _ _ => True) (fun s r => wr s r (ka s r &&& kb s r)) ∧
     Stages v.dom (.mor v) 0 (fun _ _ => True) (fun s r => wr s r (ka s r ||| kb s r)) ∧
     Stages v.dom (.mxor v) 0 (fun _ _ => True) (fun s r => wr s r (ka s r ^^^ kb s r)) ∧
     Stages v.dom (.mnot v) 0 (fun _ _ => True) (fun s r => wr s r (~~~(ka s r))) ∧
     Delivers v.dom (.mcnt v) 0 1 (fun s r => all ((List.range 256).filter (fun i => bit (ka s r) i)).length) ∧
     Delivers v.dom (.mfirst v) 0 1 (fun s r => all ((List.range 256).takeWhile (fun i => !bit (ka s r) i)).length)) ∧
  (let w := fun (x : Val) => (lane x.vector 0).toNat
   let bad := fun (_ : State) (_ : Trig) => ({ cause := .illegalMove } : FaultInfo)
   let ringOf := fun (r : Trig) =>
     ({ store := w r.a / 2 ^ 16 % 4, base := w r.a % 2 ^ 16, line := if w r.a / 2 ^ 16 % 4 = 3 then w r.b % 2 ^ 19 else 0,
        depM1 := w r.a / 2 ^ 18 % 64, head := 0, tail := 0, filled := 0, infl := 0, hl := w r.t / 16 % 8,
        hen := decide (w r.t / 128 % 2 = 1), fm1 := w r.t / 2 ^ 8 % 64, tp := w r.t / 2 ^ 14 % 8, ten := decide (w r.t / 2 ^ 17 % 2 = 1),
        em1 := w r.t / 2 ^ 18 % 64 } : Ring)
   let refused := fun (v : VUnit) (s : State) (r : Trig) =>
     let x := ringOf r
     let q := s.core.ring (w r.t % 16)
     let size := fun (i : Nat) => if i = 0 then s.me.rega else s.me.regb
     x.depM1 < x.fm1 ∨ x.depM1 < x.em1 ∨ x.store = 2 ∨
     (x.store < 2 ∧ (x.base = 0 ∨ size x.store < x.base + (x.depM1 + 1) ∨ x.store ≠ v.num)) ∨
     ∃ y ∈ s.core.inflight, rtKind y.rt = 4 ∧ ((x.ten = true ∧ rtIdx y.rt = x.tp) ∨ (q.ten = true ∧ rtIdx y.rt = q.tp))
   ∀ v : VUnit,
     Stages v.dom (.radv v) 0 (fun s r => w r.t / 8 % 128 ≤ 64 ∧ (s.core.headRing (w r.t % 8)).isSome = true)
       (fun _ r => [.radv (w r.t % 8) (w r.t / 8 % 128)]) ∧
     Raises v.dom (.radv v) 0 none (fun s r => 64 < w r.t / 8 % 128 ∨ s.core.headRing (w r.t % 8) = none) bad ∧
     Stages v.dom (.rpush v) 0 (fun s r => w r.t / 8 % 128 ≤ 64 ∧ (s.core.tailRing (w r.t % 8)).isSome = true)
       (fun _ r => [.rpush (w r.t % 8) (w r.t / 8 % 128)]) ∧
     Raises v.dom (.rpush v) 0 none (fun s r => 64 < w r.t / 8 % 128 ∨ s.core.tailRing (w r.t % 8) = none) bad ∧
     Stages v.dom (.rbind v) 2 (fun s r => ¬ refused v s r) (fun _ r => [.rbind (w r.t % 16) (ringOf r)]) ∧
     Raises v.dom (.rbind v) 2 none (fun s r => refused v s r) bad ∧
     Delivers v.dom (.rlvl v) 0 1 (fun s r =>
       let x := s.core.ring (w r.t % 16)
       { val := .vec (vecOf (fun _ => BitVec.ofNat 32 (x.filled % 2 ^ 7 + 2 ^ 7 * (x.infl % 2 ^ 7) + 2 ^ 14 * (x.head % 2 ^ 6) +
           2 ^ 20 * (x.tail % 2 ^ 6) + 2 ^ 26 * b2n x.hen + 2 ^ 27 * b2n x.ten))), mask := some allLanes }))

/-! ### The matrix engine -/

/-- The M triggers that join the queue (R214, R215, R217, R218, R222): what they queue, the fields that raise at the trigger, and the wait
of a ninth command. -/
def Obligations.MatrixTriggers : Prop :=
  let w := fun (r : Trig) => r.t.scalar.toNat
  let segm := fun (r : Trig) => w r / 2 ^ 12 % 256
  let stm := fun (r : Trig) => w r / 2 ^ 20 % 256
  let fa := fun (s : State) => s.core.fmt.toNat / 2 ^ 35
  let fb := fun (s : State) => s.core.fmt.toNat / 2 ^ 30 % 32
  let room := fun (s : State) => s.core.mat.waiting < 8
  let callOk := fun (s : State) (r : Trig) => stm r &&& segm r = stm r ∧ (s.mCmd r .call).badFormat = false
  let loadOk := fun (r : Trig) => 1 ≤ w r / 2 ^ 12 % 2 ^ 11 ∧ w r % 2 ^ 11 + w r / 2 ^ 12 % 2 ^ 11 ≤ 2048
  let bOk := fun (s : State) (r : Trig) => fa s < 24 ∧ fb s < 24 ∧ 1 ≤ w r % 512 ∧ w r % 512 ≤ 256 ∧ w r / 512 % 512 ≤ 255 ∧
    w r / 512 % 512 + w r % 512 ≤ clsBlocks (s.mCmd r .bload).cls
  let queued := fun (kind : MKind) (s : State) (r : Trig) => [Eff.mcmd (s.mCmd r kind), Eff.commit]
  Stages .m .mCall 0 (fun s r => callOk s r ∧ room s) (queued .call) ∧
  Stages .m .mload 1 (fun s r => loadOk r ∧ room s) (queued .mload) ∧
  Stages .m .bload 2 (fun s r => bOk s r ∧ room s) (queued .bload) ∧
  Stages .m .bswap 0 (fun s _ => room s) (queued .bswap) ∧ Stages .m .accz 0 (fun s _ => room s) (queued .accz) ∧
  Stages .m .accrel 0 (fun s _ => room s) (queued .accrel) ∧
  Raises .m .mCall 0 none (fun _ r => stm r &&& segm r ≠ stm r) (fun _ _ => { cause := .illegalMove }) ∧
  Raises .m .mCall 0 none (fun s r => stm r &&& segm r = stm r ∧ (s.mCmd r .call).badFormat = true) (fun _ _ => { cause := .formatUnsupported }) ∧
  Raises .m .mload 1 none (fun _ r => ¬ loadOk r) (fun _ _ => { cause := .illegalMove }) ∧
  Raises .m .bload 2 none (fun s _ => 24 ≤ fa s ∨ 24 ≤ fb s) (fun _ _ => { cause := .formatUnsupported }) ∧
  Raises .m .bload 2 none (fun s r => fa s < 24 ∧ fb s < 24 ∧ ¬ bOk s r) (fun _ _ => { cause := .illegalMove }) ∧
  Waits .m .mCall 0 (fun s r => callOk s r ∧ 8 ≤ s.core.mat.waiting) ∧ Waits .m .mload 1 (fun s r => loadOk r ∧ 8 ≤ s.core.mat.waiting) ∧
  Waits .m .bload 2 (fun s r => bOk s r ∧ 8 ≤ s.core.mat.waiting) ∧ Waits .m .bswap 0 (fun s _ => 8 ≤ s.core.mat.waiting) ∧
  Waits .m .accz 0 (fun s _ => 8 ≤ s.core.mat.waiting) ∧ Waits .m .accrel 0 (fun s _ => 8 ≤ s.core.mat.waiting)

/-- mstat delivers the status word, MTS, the active or the idle half record, by the selector, and commits the shadow (R101, R221); the
half record's layout; any other selector raises ILLEGAL_MOVE. -/
def Obligations.MatrixStatus : Prop :=
  let n := fun (r : Trig) => r.t.scalar.toNat % 8
  let out := fun (x : W64) => ({ val := .sc x, more := [.commit] } : Out)
  let record := fun (h : Half) => BitVec.ofNat 64 (h.cls % 8 + 8 * (h.fb % 32) + 2 ^ 8 * (h.kbv % 512))
  DeliversIf .m .mstat 0 1 (fun _ r => n r = 0) (fun s _ => out s.core.mat.status) ∧
  DeliversIf .m .mstat 0 1 (fun _ r => n r = 1) (fun s _ => out s.mts) ∧
  DeliversIf .m .mstat 0 1 (fun _ r => n r = 2) (fun s _ => out (record (if s.core.mat.active then s.core.mat.halves.2 else s.core.mat.halves.1))) ∧
  DeliversIf .m .mstat 0 1 (fun _ r => n r = 3) (fun s _ => out (record (if s.core.mat.active then s.core.mat.halves.1 else s.core.mat.halves.2))) ∧
  Raises .m .mstat 0 (some 1) (fun _ r => 4 ≤ n r) (fun _ _ => { cause := .illegalMove })

/-- The turns of the two lanes (R215, R217 to R220), where no lock of a tile command holds their reads (R315): mload writes its words and
no other, bload the K-blocks and the record of the idle half, bswap exchanges the halves, accz and accrel set tags. -/
def Obligations.MatrixLanes : Prop :=
  (∀ (s : State) (k : MCmd) (segs : List Nat), s.mHead .mload = some k →
    let n := k.word.toNat / 2 ^ 12 % 2 ^ 11
    let first := k.word.toNat % 2 ^ 11
    let e : Ext := ⟨epName k.o0, epOff k.o0, 16 * n⟩
    let word := fun (i : Nat) => BitVec.ofNat 96 (natLE (((s.mRead k e.name e.off (16 * n)).drop (16 * i)).take 12))
    (if k.held = [] then (s.ctx k.cid).acquire k.pinsFor none true [e] else .ok k.held) = .ok segs →
    (s.seg k.cid (nameIdx e.name)).tilesOk e.off (16 * n) false = true → s.lockedIn k.cid (nameIdx e.name) e.off (16 * n) = false →
    (∀ i, i < n → (decodeMicro (word i)).isSome = true) →
    ∃ t, exec .mloadComplete s = .next t ∧ (∀ i, i < n → sget 0 t.core.mat.micro (first + i) = word i) ∧
      (∀ j, j < first ∨ first + n ≤ j → sget 0 t.core.mat.micro j = sget 0 s.core.mat.micro j) ∧
      t.core.mat.queue = s.core.mat.queue.filter (fun x => x.seq ≠ k.seq) ∧ t.mem = s.mem ∧ t.core.sregs = s.core.sregs ∧
      t.core.mat.accs = s.core.mat.accs ∧ t.core.mat.halves = s.core.mat.halves) ∧
  (∀ (s : State) (k : MCmd) (segs : List Nat), s.core.mat.loadHead = some k → s.mReady k = true → isMX k.fb = false →
    let m := s.core.mat
    let h := if m.active then m.halves.1 else m.halves.2
    let nkb := k.word.toNat % 512
    let kb0 := k.word.toNat / 512 % 512
    let e : Ext := ⟨epName k.o0, epOff k.o0, nkb * 16 * bRowBytes k⟩
    (kb0 = 0 ∨ (h.cls = k.cls ∧ h.fb = k.fb ∧ kb0 ≤ h.kbv)) →
    (if k.held = [] then (s.ctx k.cid).acquire k.pinsFor none true [e] else .ok k.held) = .ok segs →
    (s.seg k.cid (nameIdx e.name)).tilesOk e.off e.len false = true → s.lockedIn k.cid (nameIdx e.name) e.off e.len = false →
    ∃ t, exec .bloadComplete s = .next t ∧
      (let h' := if m.active then t.core.mat.halves.1 else t.core.mat.halves.2
       h'.cls = k.cls ∧ h'.fb = k.fb ∧ h'.kbv = (if kb0 = 0 then nkb else max h.kbv (kb0 + nkb)) ∧
       ∀ b j, b < nkb → j < 64 → sget {} h'.cols (64 * (kb0 + b) + j) =
         if j < clsCols k.cls then
           alignBlock (clsWidth k.cls) ((List.range 16).map (fun i =>
             operandNum k.fb ((bRow k.fb (clsCols k.cls)
               (((s.mRead k e.name e.off e.len).drop ((16 * b + i) * bRowBytes k)).take (bRowBytes k))).getD j 0)))
         else {}) ∧
      (if m.active then t.core.mat.halves.2 else t.core.mat.halves.1) = (if m.active then m.halves.2 else m.halves.1) ∧
      t.core.mat.active = m.active ∧ t.core.mat.queue = m.queue.filter (fun x => x.seq ≠ k.seq) ∧ t.mem = s.mem ∧
      t.core.mat.accs = m.accs) ∧
  (∀ (s : State) (k : MCmd), s.mHead .bswap = some k → (∀ x ∈ s.core.mat.queue, x.kind = .bload → k.seq ≤ x.seq) →
    exec .bswapExecute s = .next (s.onMat (fun m => { (m.popCmd k) with active := !m.active }))) ∧
  (∀ (s : State) (k : MCmd), s.mHead .accz = some k →
    exec .acczExecute s = .next (s.onMat (fun m =>
      { (m.popCmd k) with zeroTag := m.zeroTag ||| BitVec.ofNat 8 (k.word.toNat % 256) }))) ∧
  (∀ (s : State) (k : MCmd), s.mHead .accrel = some k →
    exec .accrelExecute s = .next (s.onMat (fun m =>
      if k.marked then m.popCmd k else { (m.popCmd k) with zeroTag := m.zeroTag ||| BitVec.ofNat 8 (k.word.toNat % 256) })))

/-- A call dispatches with its set acquired and its ranges READY or EMPTY (R222): counts taken, the tiles of the ranges FILLING for UNIT
8, a fresh routine at ENTRY with the sampled registers. -/
def Obligations.CallDispatch : Prop :=
  ∀ (s : State) (k : MCmd) (segs : List Nat), s.mHead .call = some k →
    let names := ((List.range 8).filter (fun j => k.word.toNat / 2 ^ (12 + j) % 2 = 1)).map (fun j => k.wps.getD j 0)
    let stores := ((List.range 8).filter (fun j => k.word.toNat / 2 ^ (20 + j) % 2 = 1)).map (fun j => k.wps.getD j 0)
    let ranges := stores.map (fun w =>
      let size := (s.seg k.cid (nameIdx (epName w))).size * 64
      (nameIdx (epName w), epOff w, max (epOff w) (min size (epOff w + 65536))))
    let r : Routine := { call := k, mpc := k.word.toNat % 2 ^ 11, wp := k.wps, held := segs, ranges := ranges, gen1 := s.core.stream 1 }
    (s.ctx k.cid).acquire k.pinsFor none true (names.map (fun w => ⟨epName w, epOff w, 0⟩)) = .ok segs →
    (∀ p ∈ r.tiles, ((s.seg k.cid p.1).tile p.2).st = .ready ∨ ((s.seg k.cid p.1).tile p.2).st = .empty) →
    ∃ t, exec .callDispatch s = .next t ∧ t.core.mat.routine = some r ∧ t.core.mat.queue = s.core.mat.queue.filter (fun x => x.seq ≠ k.seq) ∧
      t.core.mat.accs = s.core.mat.accs ∧ t.mem = s.mem ∧ t.core.sregs = s.core.sregs ∧
      t = (((s.holdSet k.cid segs).setTiles k.cid r.tiles { st := .filling, unit := 8, core := s.linIn k.cid }).onMat
        (fun m => { (m.popCmd k) with routine := some r }))

/-- A micro-op whose COND is false acts as nop, and a replay skips the skippable ones; in either case the close of CL still acts (R224,
R229). close(L) of R224, and where a word without CL leads; past word 2,047 and a close of an unarmed level raise ILLEGAL_MOVE. The
innermost loop of a routine is the model's reading (log 13). -/
def Obligations.MicroFlow : Prop :=
  (∀ (i : Instr) (w : MicroWord) (s : State) (r : Routine), microOf i = some w → s.core.mat.microAt w = some r →
     (r.cond w.cond = false → exec i s = .next (s.microAdvance r w.cl (r.mpc + 1))) ∧
     (r.cond w.cond = true → (w.op = 3 ∨ w.op = 4 ∨ w.op = 5 ∨ w.op = 12 ∨ (w.op = 11 ∧ w.imm / 4096 % 2 = 1)) → 0 < r.skip →
       exec i s = .next (s.microAdvance { r with skip := r.skip - 1 } w.cl (r.mpc + 1)))) ∧
  (∀ (s : State) (r : Routine) (cl next : Nat),
     let l := r.loop cl
     let at_ := fun (r : Routine) (pc : Nat) =>
       if pc ≤ 2047 then s.setRoutine { r with mpc := pc } else s.routineFault r { cause := .illegalMove }
     s.microAdvance r cl next =
       if cl = 0 then at_ r next
       else if l.armed = false then s.routineFault r { cause := .illegalMove }
       else if l.idx + 1 < l.trips then at_ { r with loops := aput r.loops cl { l with idx := l.idx + 1 } } l.body
       else at_ { r with loops := aput r.loops cl { l with idx := 0, armed := false } } next)

/-- The micro-ops that change only the routine or one tag (R225, R227): nop, waitt, mloop, mjmp, mparm, eact, eqnt, escale, ebias, sig,
bflip. -/
def Obligations.MicroControl : Prop :=
  ∀ (s : State) (r : Routine) (f1 f2 imm cond cl : Nat),
    (s.AtMicro ⟨0, 0, 0, 0, cond, cl⟩ r → exec (.microNop cond cl) s = .next (s.microAdvance r cl (r.mpc + 1))) ∧
    (s.AtMicro ⟨2, 0, 0, imm, cond, cl⟩ r → (∀ i, i < 4 → imm / 2 ^ i % 2 = 1 → s.core.mat.slots.getD i .empty = .full) →
      exec (.waitt imm cond cl) s = .next (s.microAdvance r cl (r.mpc + 1))) ∧
    (s.AtMicro ⟨13, f1, 0, imm, cond, cl⟩ r → exec (.mloop f1 imm cond cl) s =
      .next (s.microAdvance { r with loops := aput r.loops f1 { armed := true, body := r.mpc + 1, trips := imm, idx := 0 } } cl (r.mpc + 1))) ∧
    (s.AtMicro ⟨14, 0, 0, imm, cond, cl⟩ r → exec (.mjmp imm cond cl) s = .next (s.microAdvance r cl imm)) ∧
    (s.AtMicro ⟨15, f1, f2, imm, cond, cl⟩ r → exec (.mparm f1 f2 imm cond cl) s =
      .next (s.microAdvance { r with wp := r.wp.set f1 (r.wp.getD f2 0 + (BitVec.ofNat 24 imm).signExtend 64 * 65536#64) } cl (r.mpc + 1))) ∧
    (s.AtMicro ⟨8, 0, 0, imm, cond, cl⟩ r → exec (.eact imm cond cl) s =
      .next (s.microAdvance { r with epi := { r.epi with act := imm % 4, shift := imm / 4 % 32 } } cl (r.mpc + 1))) ∧
    (s.AtMicro ⟨9, f1, 0, imm, cond, cl⟩ r →
      (imm = 1 → r.call.ip = false ∧ 17 ≤ r.call.fo ∧ r.call.fo ≤ 23 ∧ r.member (r.wp.getD f1 0) = true) → exec (.eqnt f1 imm cond cl) s =
      .next (s.microAdvance { r with epi := { r.epi with mode := imm, codes := r.wp.getD f1 0 } } cl (r.mpc + 1))) ∧
    (∀ n, (f2 = 2 ∧ n = clsCols r.call.cls) ∨ (f2 = 3 ∧ n = 256) →
      s.MicroReadable r (r.wp.getD f1 0) 1 0 (4 * n) →
      let bs := s.mRead r.call (epName (r.wp.getD f1 0)) (epOff (r.wp.getD f1 0)) (4 * n)
      let vs := (List.range n).map (fun i => BitVec.ofNat 64 (natLE ((bs.drop (4 * i)).take 4)))
      (s.AtMicro ⟨6, f1, f2, 0, cond, cl⟩ r → exec (.escale f1 f2 cond cl) s =
        .next (s.microAdvance { r with epi := { r.epi with scaleMode := f2, scale := vs } } cl (r.mpc + 1))) ∧
      (s.AtMicro ⟨7, f1, f2, 0, cond, cl⟩ r → exec (.ebias f1 f2 cond cl) s =
        .next (s.microAdvance { r with epi := { r.epi with biasMode := f2, bias := vs } } cl (r.mpc + 1)))) ∧
    (f2 = 0 ∨ f2 = 1 →
      let vs := if f2 = 0 then [] else [BitVec.ofNat 64 ((r.wp.getD f1 0).toNat % 2 ^ 32)]
      (s.AtMicro ⟨6, f1, f2, 0, cond, cl⟩ r → exec (.escale f1 f2 cond cl) s =
        .next (s.microAdvance { r with epi := { r.epi with scaleMode := f2, scale := vs } } cl (r.mpc + 1))) ∧
      (s.AtMicro ⟨7, f1, f2, 0, cond, cl⟩ r → exec (.ebias f1 f2 cond cl) s =
        .next (s.microAdvance { r with epi := { r.epi with biasMode := f2, bias := vs } } cl (r.mpc + 1)))) ∧
    (s.AtMicro ⟨11, 0, 0, imm, cond, cl⟩ r → exec (.sig imm cond cl) s =
      .next (if imm / 4096 % 2 = 1 then (s.mSignal r.call true (imm % 4096)).microNext ⟨11, 0, 0, imm, cond, cl⟩ r (r.mpc + 1)
        else s.microNext ⟨11, 0, 0, imm, cond, cl⟩ { r with sigs := r.sigs ++ [imm % 4096] } (r.mpc + 1))) ∧
    (s.AtMicro ⟨12, 0, 0, 0, cond, cl⟩ r → s.core.mat.loadHead = none → exec (.bflip cond cl) s =
      .next ((s.onMat (fun m => { m with active := !m.active })).microNext ⟨12, 0, 0, 0, cond, cl⟩ r (r.mpc + 1)))

/-- The micro-ops that move data (R211, R212, R225, R226): aget lays its bytes into a slot of every row, or their codes; accw replaces an
accumulator, accadd adds to it element by element; stream applies R91 to the blocks it names and writes the accumulator once, and ramps up
where the array is cold (R230). A lock of a tile command holds what aget, accw and accadd read (R315; log 13). The integer path of R89 to
R91 is exact: one K-block adds the sum of the products to the INT32 accumulator and saturates it. -/
def Obligations.MicroData : Prop :=
  (∀ (s : State) (r : Routine) (f1 f2 imm cond cl : Nat),
     let w := r.wp.getD f1 0
     (let pitch := if imm % 65536 = 0 then 64 else imm % 65536
      let codes := imm / 2 ^ 23 % 2 = 1
      let n := if codes then 16 / fieldBits r.call.fa else 64
      let rows := (List.range 256).map (fun i => s.mRead r.call (epName w) (epOff w + i * pitch) n)
      s.AtMicro ⟨1, f1, f2, imm, cond, cl⟩ r → s.core.mat.slot f2 ≠ .filling → s.MicroReadable r w 256 pitch n →
      exec (.aget f1 f2 imm cond cl) s =
        .next ((s.onMat (fun m => if codes then m.fillScales f2 rows else m.fillSlot f2 rows)).microNext ⟨1, f1, f2, imm, cond, cl⟩ r (r.mpc + 1))) ∧
     (f2 < 4 → s.core.mat.slot f2 = .filling →
       exec (.agetFillDone f2) s = .next (s.onMat (fun m => { m with slots := m.slots.set f2 .full }))) ∧
     (let n := if r.call.cls = 4 then 256 else 4 * clsCols r.call.cls
      let pitch := if imm = 0 then n else imm
      let row := fun (i : Nat) => s.mRead r.call (epName w) (epOff w + i * pitch) n
      s.MicroReadable r w 256 pitch n →
      (s.AtMicro ⟨4, f1, f2, imm, cond, cl⟩ r → ∃ rows fl, exec (.accw f1 f2 imm cond cl) s =
         .next ((s.onMat (fun m => m.setAcc f2 rows)).microNext ⟨4, f1, f2, imm, cond, cl⟩ { r with flags := r.flags ||| fl } (r.mpc + 1)) ∧
         fl = 0 ∧ rows.length = 256 ∧ ∀ i, i < 256 → accElems (r.call.cls = 4) (clsCols r.call.cls) (rows.getD i []) =
           fcElems r.call (row i)) ∧
      (s.AtMicro ⟨5, f1, f2, imm, cond, cl⟩ r → ∃ rows fl, exec (.accadd f1 f2 imm cond cl) s =
         .next ((s.onMat (fun m => m.setAcc f2 rows)).microNext ⟨5, f1, f2, imm, cond, cl⟩ { r with flags := r.flags ||| fl } (r.mpc + 1)) ∧
         rows.length = 256 ∧ ∀ i, i < 256 → accElems (r.call.cls = 4) (clsCols r.call.cls) (rows.getD i []) =
           List.zipWith (fun a x => (accAdd r.call a x).1 % 2 ^ (if r.call.cls = 4 then 64 else 32))
             (accElems (r.call.cls = 4) (clsCols r.call.cls) ((s.core.mat.accRows f2).getD i []))
             (fcElems r.call (row i)))) ∧
     (let h := if s.core.mat.active then s.core.mat.halves.2 else s.core.mat.halves.1
      let kb := imm % 512
      let nkb := imm / 512 % 512
      let cap := 128 / fieldBits r.call.fa
      let t := s.core.mat.streamed r.call f1 f2 kb nkb (decide (imm / 2 ^ 18 % 2 = 1))
      s.AtMicro ⟨3, f1, f2, imm, cond, cl⟩ r → h.cls = r.call.cls → h.fb = r.call.fb → f2 < cap → kb + nkb ≤ h.kbv →
      (∀ i x, i < nkb → x ∈ blockSlots r.call.fa ((f2 + i) % cap) → s.core.mat.slot x = .full) →
      (r.call.timed = true → s.booked r.call.cid r.call.task 1 = true) →
      exec (.stream f1 f2 imm cond cl) s =
        .next ((s.onMat (fun m => { (m.setAcc f1 t.1) with
           warm := true,
           macros := if s.core.mat.warm then s.core.mat.macros
             else rampUp s.throttle.step 8 (min 16 (s.core.mat.macros + 2)) (8 * nkb * clsCycles r.call.cls) })).microNext ⟨3, f1, f2, imm, cond, cl⟩
          { r with flags := r.flags ||| t.2 } (r.mpc + 1)))) ∧
  (∀ (k : MCmd) (acc : Nat) (xs ys : List Nat), k.ip = true → acc < 2 ^ 32 → xs.length = 16 → ys.length = 16 →
     let w := clsWidth k.cls
     let t := signedOf 32 acc + (List.zipWith (fun x y => intOfBits k.fa x * intOfBits k.fb y) xs ys).sum
     let v := max (-2 ^ 31) (min t (2 ^ 31 - 1))
     accStep k acc (alignBlock w (xs.map (elemNum k.fa 0))) (alignBlock w (ys.map (elemNum k.fb 0))) =
       (lowBits 32 v, if v = t then 0 else fISAT))

/-- estore writes the rows of the epilogue, and under mode 1 their scale codes, where both lie in the pre-checked ranges (R222, R227);
that the scale code of an FP64 source beyond the largest scale is free, and that mode 1 draws 256 × cb free words, are the model's choice
(log 5). An address outside the set, a pitch below the row and bytes outside the ranges raise, and so does a journal that has no room
(R274). mend commits (R228): tiles READY, pending releases tagged, no routine left, the deferred signals sent, the counts dropped, the
flags in the FST of the call's context (R86, R87). A resumed routine starts again from ENTRY (R229); the ramp-down pass turns 2 macros off
(R230). -/
def Obligations.MicroStoreAndEnd : Prop :=
  ∀ (s : State) (r : Routine) (f1 f2 imm cond cl : Nat),
    let k := r.call
    let w := r.wp.getD f1 0
    let e := r.epi
    let n := clsCols k.cls
    let rb := n * fieldBits k.fo / 8
    let cb := n / 32
    let pitch := if imm = 0 then rb else imm
    let elems := fun (i : Nat) => ((accElems (k.cls = 4) n ((s.core.mat.accRows f2).getD i [])).zipIdx).map (fun q => epiElem k e i q.2 q.1)
    let out := (List.range 256).foldl (fun (a : List EpiRow × W64) i =>
      let o := if e.mode = 1 then epiRow1 k (fun b => (Config.freeWord (s.fresh + cb * i + b)).toNat) (elems i) a.2
        else epiRow0 k (elems i) a.2
      (a.1 ++ [o], o.gen)) ([], s.core.stream 1)
    let t := s.microWrite k w pitch (out.1.map (fun o => fieldBytes (fieldBits k.fo) rb o.out))
    let t2 := if e.mode = 1 then t.1.microWrite k e.codes cb (out.1.map (fun o => o.codes.map (BitVec.ofNat 8))) else t
    let named := r.member w = true ∧ (e.mode = 1 → r.member e.codes = true)
    let covered := (∀ i, i < 256 → r.covers w (i * pitch) rb = true) ∧ (e.mode = 1 → r.covers e.codes 0 (256 * cb) = true)
    let wr := fun (f : FaultInfo) => exec (.estore f1 f2 imm cond cl) s = .next (s.routineFault r f)
    (s.AtMicro ⟨10, f1, f2, imm, cond, cl⟩ r →
      (named → rb ≤ pitch → covered → t.2 = true → t2.2 = true → exec (.estore f1 f2 imm cond cl) s =
        .next (({ t2.1 with core := t2.1.core.setStream 1 out.2, fresh := if e.mode = 1 then s.fresh + 256 * cb else s.fresh } : State).microNext
          ⟨10, f1, f2, imm, cond, cl⟩ { r with flags := r.flags ||| (out.1.map EpiRow.flags).foldl (· ||| ·) 0 } (r.mpc + 1))) ∧
      (k.cm = false → t.2 = true ∧ t2.2 = true ∧ t.1 = (out.1.zipIdx).foldl (fun s p => s.segWrite k.cid (nameIdx (epName w))
        (epOff w + p.2 * pitch) (fieldBytes (fieldBits k.fo) rb p.1.out)) s) ∧
      (e.mode = 0 → k.rm ≠ 4 → out.2 = s.core.stream 1 ∧
        ∀ i, i < 256 → (out.1.getD i ⟨[], [], 0, 0⟩).out = (elems i).map (fun x => (epiConvert k (rmOf k.rm) x.1).1)) ∧
      (r.member w = false → wr { cause := .segUndeclared, wher := segWhere (epName w) (epOff w) }) ∧
      (named → pitch < rb → wr { cause := .illegalMove }) ∧
      (named → rb ≤ pitch → (∃ i, i < 256 ∧ r.covers w (i * pitch) rb = false) → wr (s.microBounds r w)) ∧
      (named → rb ≤ pitch → covered → t.2 = false ∨ t2.2 = false → wr { cause := .segQuota, info := 1#64 <<< 63 })) ∧
    (s.AtMicro ⟨16, 0, 0, 0, cond, cl⟩ r → ∃ (z : BitVec 8) (last : Option Nat),
      (∀ a, a < 8 → z.getLsbD a = (s.core.mat.zeroTag.getLsbD a || s.core.mat.relPend.any (fun p => p.2 = k.seq && p.1 = a))) ∧
      let u := (s.setTiles k.cid r.tiles {}).onMat (fun m =>
        { m with zeroTag := z, relPend := m.relPend.filter (fun p => p.2 ≠ k.seq), routine := none, lastCall := last })
      let v := r.held.foldl (fun s i => s.dropInb k.cid i) (r.sigs.foldl (fun s c => s.mSignal k true c) u)
      exec (.mend cond cl) s = .next (v.flagsTo k.cid r.flags) ∧
      (∀ p ∈ r.tiles, (s.seg k.cid p.1).size ≠ 0 → ((u.seg k.cid p.1).tile p.2).st = .ready) ∧
      (s.core.owner = some k.cid → (v.flagsTo k.cid r.flags).core.fst = s.core.fst ||| r.flags)) ∧
    (s.core.mat.routine = some r → r.restart = true → r.faulted = false → exec .routineRestart s =
      .next ((s.setRoutine { r with mpc := k.word.toNat % 2 ^ 11, wp := k.wps, loops := [], epi := {}, sigs := [], skip := r.done, restart := false }).upd
        (fun c => { (c.setStream 1 r.gen1) with mat := { c.mat with slots := [.empty, .empty, .empty, .empty] } }))) ∧
    (s.core.mat.routine = some r → r.restart = false ∨ r.faulted = true → exec .routineRestart s = .next s) ∧
    (s.core.mat.warm = false → exec .rampDownStep s = .next (s.onMat (fun m => { m with macros := m.macros - 2 }))) ∧
    (s.core.mat.warm = true → exec .rampDownStep s = .next s)

/-! ### Commands of C0 and C1 -/

/-- The C triggers that queue a command (R236, R242 to R250, R289, R300, R317, R329, R350, R352): the conditions of each, what it samples
besides its group, and the holds of bwait and of a drain with WAIT. A tsub is fire-and-forget wherever its card stands (R254, R291). The
scheduled transfers (R346 to R349): in a timed task with segment endpoints of its cluster that it pins, quanta inside its link entries, an
lred that stores or forwards, they join the queue with their absolute quanta, on the physical links of the partition (R276); what the
trigger finds wrong raises, and so does committed mode. -/
def Obligations.EngineTriggers : Prop :=
  (let locks := fun (s : State) (_ : CUnit) (c : Cmd) => { c with locks := s.lockTiles c }
   let far := fun (_ : State) (_ : CUnit) (c : Cmd) => { c with local_ := false }
   let always := fun (_ : State) (_ : CUnit) (_ : Cmd) => True
   let noBytes := fun (_ : State) (_ : CUnit) (c : Cmd) => sigSk c.sigw ≠ 3
   let all := fun (_ : State) (_ : Cmd) => True
   let field := fun (c : Cmd) (lo n : Nat) => c.word.toNat / 2 ^ lo % 2 ^ n
   let ext := fun (c : Cmd) (lo n : Nat) => c.extw.toNat / 2 ^ lo % 2 ^ n
   let esize := fun (c : Cmd) => if bit c.word 7 then 2 else 4
   let gander := fun (s : State) (_ : CUnit) (c : Cmd) => sigSk c.sigw ≠ 3 ∧
     ∃ p, s.partOf s.me.tenant = some p ∧ (s.cur / 4, field c 6 4 / 4) ∈ p.pipes
   let none : CmdUse := { src := false, dst := false, shape := false }
   let book : CmdUse := { srcTen := false, dst := false, shape := false }
   let segOp := fun (bitNo : Nat) (s : State) (u : CUnit) (c : Cmd) =>
     { c with grp := [((s.core.input u.dom false).head s.core.issued).scalar, 0, 0,
         BitVec.ofNat 64 (field c 16 12 + 2 ^ 12 * field c bitNo 1 + 2 ^ 14 * (s.lclu % 64))] }
   let segUse : CmdUse := { src := false, dst := false, shape := false, sig := false }
   let wait := fun (u : CUnit) (c : Cmd) => if bit c.word 5 then [Eff.gate (.drain u c.id)] else []
   Queues 0 .cpy {} always locks ∧
   Queues 1 .cpyp {} (fun _ _ c => c.rowb = 64 ∧ c.rows % 256 = 0)
     (fun s _ c => { c with locks := s.lockTiles c, perm := s.core.perm (field c 6 4) }) ∧
   Queues 2 .gth {} (fun _ _ c => ext c 16 32 % 4 = 0 ∧ ext c 48 4 ≤ 8) locks ∧
   Queues 3 .grd {} (fun _ _ c => ext c 16 32 % 4 = 0 ∧ 1 ≤ ext c 48 4 ∧ ext c 48 4 ≤ 4 ∧ c.rowb % esize c = 0) locks ∧
   Queues 4 .sct {} (fun _ _ c => ext c 16 32 % 4 = 0 ∧ ext c 48 4 ≤ 8) locks ∧
   Queues 5 .mcast { dstTen := false } always locks ∧
   Queues 6 .tatom { srcSeg := false, dst := false, shape := false } (fun _ _ c => field c 6 4 ≤ 8) locks ∧
   Queues 7 .topk { srcSeg := false } (fun _ _ c => 1 ≤ field c 18 3 ∧ field c 18 3 ≤ 4 ∧ field c 18 3 ≤ field c 6 12 + 1) locks ∧
   Queues 8 .cSub { srcSeg := false, dst := false, joins := false }
     (fun s u c => c.rowb = 64 ∧ (bit c.word 13 = true → epT c.dstw = true) ∧ s.sidTaken u (field c 6 3) = false ∧
       (s.core.ring (field c 9 4)).store = 3 ∧ (s.core.ring (field c 9 4)).ten = false) (stalls := all) ∧
   Queues 9 .unsub { src := false, dst := false, shape := false, joins := false } always (stalls := all) ∧
   Queues 10 .stouch segUse always (segOp 0) (reads := 1) ∧
   Queues 11 .spush segUse always (segOp 1) (stalls := all) (reads := 1) ∧
   Queues 15 .rtcfg book (fun s u c => gander s u c ∧ epOff c.srcw % 64 = 0) far ∧
   Queues 16 .rtgo none gander far ∧ Queues 18 .rtinv none gander far ∧ Queues 19 .rtfree none gander far ∧
   Queues 23 .coll { srcSeg := false, dstSeg := false, shape := false } (fun _ _ c => field c 5 3 ≤ 3) far ∧
   Queues 25 .pmret none always far ∧
   Queues 26 .arrive none always ∧ Queues 27 .expect none (fun _ _ c => field c 16 24 ≠ 0) ∧
   Queues 28 .bwait none always (more := fun u c => [.gate (.bwait u c.id)]) (stalls := fun s c => sigCcl c.sigw ≠ s.lclu) ∧
   Queues 29 .depset none (fun _ _ c => bit c.word 5 = true → field c 16 16 ≠ 0) ∧ Queues 30 .depdec none always ∧
   Queues 31 .drainC none noBytes (more := wait) ∧ Queues 32 .drainD none noBytes (more := wait) ∧
   Queues 33 .drainP none noBytes (more := wait) ∧ Queues 34 .drainF none noBytes (more := wait) ∧ Queues 35 .fence none noBytes ∧
   Queues 36 .bkseg book (fun _ _ c => epOff c.srcw % 256 = 0) ∧
   Queues 37 .bkwin book (fun _ _ c => epOff c.srcw % 256 = 0 ∧ (c.dstw.toNat % 16 ≤ 4 ∨ c.dstw.toNat % 16 = 7)) ∧
   Queues 38 .bklink book (fun _ _ c => epOff c.srcw % 256 = 0 ∧ (c.dstw.toNat % 16 = 5 ∨ c.dstw.toNat % 16 = 6)) ∧
   Queues 39 .tsub book (fun _ _ c => epOff c.srcw % 64 = 0) far) ∧
  (∀ (op : Nat) (mk : CUnit → Guard → Src → Instr), (op, mk) ∈ [(20, Instr.lsend), (21, Instr.lrecv), (22, Instr.lred)] →
     ∀ (u : CUnit) (s : State) (g : Guard) (src : Src) (v : Val) (t : List Nat), s.Ready u.dom g src none v t →
     let r := s.trigAt u.dom v t 0
     let c := s.physLinks (s.sample u op r.t.scalar)
     let w := c.wire
     let fo := c.fmt.toNat / 2 ^ 20 % 32
     let fa := c.fmt.toNat / 2 ^ 35
     let plain := fun f => f = 12 ∨ f = 13 ∨ f = 15
     let qin := (c.g 5).toNat % 2 ^ 32
     let qout := (c.g 5).toNat / 2 ^ 32
     let good :=
       s.core.task.timed = true ∧ (∀ x ∈ lnkEnds c, epT x = false) ∧ (∀ x ∈ lnkWords c, nameIdx (epName x) ∈ s.core.task.pins ∧
         (s.me.seg (nameIdx (epName x))).home = s.lclu) ∧ (w.mx = true → w.ne % 32 = 0) ∧
       (op = 22 → (bit c.word 5 = true ∨ bit c.word 6 = true) ∧ qin + 2 ≤ qout ∧ (plain fo ∨ isMX fo = true) ∧ (plain fa ∨ fa = fo)) ∧
       (∀ x ∈ s.lnkSlots c, s.qc < x.2.2 ∧ ∀ j, j < w.quanta → s.inLinkEntry x.1 x.2.1 (x.2.2 + j) = true)
     (s.core.task.cm = false ∧ s.Legal { src := false, dst := false } c → good → s.waitingCmds u < 32 →
       exec (mk u g src) s = .next (s.plus (r.took ++ [Eff.cmd u { c with
         local_ := true, locks := lnkLocks c, acc := [(0, BitVec.ofNat 64 (s.absQ qin)), (1, BitVec.ofNat 64 (s.absQ qout))] } true, .commit]))) ∧
     (s.core.task.cm = true ∨ ¬ s.Legal { src := false, dst := false } c →
       exec (mk u g src) s = .next (s.raise { cause := .illegalMove, unit := u.dom.slot.num })) ∧
     (s.core.task.cm = false ∧ s.Legal { src := false, dst := false } c → ¬ good →
       ∃ f, s.lnkFault c = some f ∧ exec (mk u g src) s = .next (s.raise { f with unit := u.dom.slot.num })) ∧
     (∀ q : Nat, q < 2 ^ 32 → s.qc ≤ s.absQ q ∧ s.absQ q < s.qc + 2 ^ 32 ∧ s.absQ q % 2 ^ 32 = q))

/-- tstat (R238): state, unit and core of the tile at the offset; bit 63 for a stale name, a segment that is not RESIDENT, an offset past
its end. -/
def Obligations.TileStatus : Prop :=
  ∀ u : CUnit, Delivers u.dom (.tstat u) 0 2 (fun s r =>
    let name : W16 := r.t.scalar.setWidth 16
    let off := r.t.scalar.toNat / 2 ^ 16 % 2 ^ 32
    let g := s.me.seg (nameIdx name)
    let x := g.tile (off / 16384)
    { val := .sc (if g.state = .free ∨ g.gen ≠ nameGen name ∨ g.state ≠ .resident ∨ g.size * 64 ≤ off then bitsOf (fun i => i == 63)
        else BitVec.ofNat 64 (x.st.num + 4 * (x.unit % 16) + 64 * (x.core % 256))), more := [.commit] })

/-- What the other C operations deliver, and the batches: rtstat (R329), calq (R292), pmget (R236, R352), bclose and waitb (R253, R254).
That pmget turns CREDIT 0 and LEASE 0 away (log 13), which packages are in the fabric (log 7) and the number of a request (log 15) are the
model's. The word that the spec does not state where calq finds no such task is left open (log 5). -/
def Obligations.EngineReads : Prop :=
  (let slotOf := fun (r : Trig) => r.t.scalar.toNat % 16
   let at_ := fun (s : State) (r : Trig) => s.gslot (s.cur / 64 * 16 + slotOf r)
   let foreign := fun (s : State) (r : Trig) =>
     ¬ (∃ p, s.partOf s.me.tenant = some p ∧ (s.cur / 4, slotOf r / 4) ∈ p.pipes) ∨ ((at_ s r).ever = true ∧ (at_ s r).cid ≠ s.cid)
   ∀ u : CUnit,
     DeliversIf u.dom (.rtstat u) 0 2 foreign (fun _ _ => { val := .sc (bitsOf (fun i => i == 63)), val2 := some (.sc 0), more := [.commit] }) ∧
     DeliversIf u.dom (.rtstat u) 0 2 (fun s r => ¬ foreign s r) (fun s r =>
       let w := r.t.scalar.toNat
       let sel := w / 16 % 4
       let x := at_ s r
       { val := .sc (if sel = 0 then BitVec.ofNat 64 (x.state.num + 8 * b2n x.badx + 16 * (x.pass % 8) + 128 * (x.token % 2 ^ 20))
           else if sel = 1 then BitVec.ofNat 64 x.novfl else if sel = 2 then BitVec.ofNat 64 x.ndrop
           else if w / 64 % 4096 < x.blk.nexp then BitVec.ofNat 64 (x.cntOf (w / 64 % 4096)) else 0),
         val2 := some (.sc 0), more := [.commit] })) ∧
  (∀ (u : CUnit) (s : State) (g : Guard) (src : Src) (v : Val) (t : List Nat), s.Ready u.dom g src (some 2) v t →
    let r := s.trigAt u.dom v t 0
    let sel := r.t.scalar.toNat / 32 % 8
    let arg := r.t.scalar.toNat / 2 ^ 32
    let answer := fun (x y : W64) => exec (.calq u g src) s = .next (({ s with fresh := s.fresh + 1 } : State).plus
      (s.land r 2 { val := .sc x, val2 := some (.sc y), more := [.commit] }))
    let mine := fun (y : Task) => (s.ctx y.cid).group.pclu y.clu = s.cur / 4
    (sel = 0 → answer (BitVec.ofNat 64 s.qc) (BitVec.ofNat 64 (s.frameOf s.me.tenant))) ∧
    (sel = 1 →
      (∀ x, s.tasks.find? (fun y => y.named s.cid arg && y.timed && s.me.group.pclu y.clu = s.cur / 4 &&
          (y.state = .booked || y.state = .starting || y.state = .running)) = some x →
        answer (BitVec.ofNat 64 x.q) (BitVec.ofNat 64 x.w)) ∧
      ((∀ y ∈ s.tasks, y.cid = s.cid → y.id = arg → y.timed = true → s.me.group.pclu y.clu = s.cur / 4 →
          y.state ≠ .booked ∧ y.state ≠ .starting ∧ y.state ≠ .running) → ∃ y, answer (BitVec.allOnes 64) y)) ∧
    (sel = 2 → ∀ p, s.partOf s.me.tenant = some p → answer (BitVec.ofNat 64 p.slipCnt) (if p.slip.isSome then 1 else 0)) ∧
    (sel = 3 → answer (match s.freeSeq arg with
      | some q => BitVec.ofNat 64 q
      | none => BitVec.allOnes 64) 0) ∧
    (sel = 4 → answer (BitVec.ofNat 64 s.throttle.step) (BitVec.ofNat 64 (s.tasks.filter (fun y => y.state = .pending && decide (mine y))).length)) ∧
    (5 ≤ sel → exec (.calq u g src) s = .next (s.raise { cause := .illegalMove, unit := u.dom.slot.num }))) ∧
  (∀ (u : CUnit) (s : State) (g : Guard) (src : Src) (v : Val) (t : List Nat), s.Ready u.dom g src (some 2) v t →
    let r := s.trigAt u.dom v t 0
    let c := { s.sample u 24 r.t.scalar with local_ := false }
    let n := c.word.toNat / 32 % 256
    let lease := c.word.toNat / 2 ^ 13 % 2 ^ 16
    let pkg := (c.g 1).toNat % 2 ^ 10
    let rctx := (c.g 1).toNat / 2 ^ 10 % 2 ^ 10
    let rten := (c.g 1).toNat / 2 ^ 20 % 64
    let credit := (c.g 2).toNat % 2 ^ 40
    let ok := s.Legal { src := false, dst := false, shape := false } c ∧ credit ≠ 0 ∧ lease ≠ 0
    let asked := ∃ a b d e f, Eff.request n a b d e f ∈ s.core.staged
    let before := (s.core.staged.filter (fun e => match e with
      | .request _ _ _ _ _ _ => true
      | _ => false)).length
    let opid := BitVec.ofNat 64 ((s.opids + before) % 2 ^ 16)
    let answer := fun (code : Nat) (es : List Eff) => exec (.pmget u g src) s = .next (s.plus (s.land r 2
      { val := .sc (BitVec.ofNat 64 code), more := [.cmd u { c with acc := [(0, BitVec.ofNat 64 code), (1, opid)] } true, .commit] ++ es }))
    (¬ ok → exec (.pmget u g src) s = .next (s.raise { cause := .illegalMove, unit := u.dom.slot.num })) ∧
    (ok → 32 ≤ s.waitingCmds u → exec (.pmget u g src) s = .next (s.holdMove u.dom.slot.num)) ∧
    (ok → s.waitingCmds u < 32 → (s.permit s.cid n).state ≠ 0 ∨ asked → answer 1 []) ∧
    (ok → s.waitingCmds u < 32 → (s.permit s.cid n).state = 0 → ¬ asked →
      (s.inFabric pkg = true ∧ (s.fabTenant s.me.tenant = rten ∨ (s.fabTenant s.me.tenant, rten) ∈ s.peers ∨
        (rten, s.fabTenant s.me.tenant) ∈ s.peers) → answer 0 [.request n pkg rctx rten lease credit]) ∧
      (¬ (s.inFabric pkg = true ∧ (s.fabTenant s.me.tenant = rten ∨ (s.fabTenant s.me.tenant, rten) ∈ s.peers ∨
        (rten, s.fabTenant s.me.tenant) ∈ s.peers)) → answer 2 []))) ∧
  (∀ u : CUnit,
    let full := fun (s : State) => (s.core.eng u).openN ≠ 0 ∧ 16 ≤ (s.core.eng u).closed.length
    let stalls := fun (s : State) => s.core.task.timed = true ∧ (s.core.eng u).remote = true
    Stages u.dom (.bclose u) 0 (fun s _ => ¬ full s) (fun _ _ => [.closeBatch u, .commit]) ∧ Waits u.dom (.bclose u) 0 (fun s _ => full s) ∧
    Stages u.dom (.waitb u) 0 (fun s r => r.t.scalar.toNat % 32 ≤ 16 ∧ ¬ full s ∧ ¬ stalls s)
      (fun _ r => [.closeBatch u, .gate (.waitb u (r.t.scalar.toNat % 32)), .commit]) ∧
    Waits u.dom (.waitb u) 0 (fun s r => r.t.scalar.toNat % 32 ≤ 16 ∧ (full s ∨ stalls s)) ∧
    Raises u.dom (.waitb u) 0 none (fun _ r => 16 < r.t.scalar.toNat % 32) (fun _ _ => { cause := .illegalMove }) ∧
    ∀ (e : CEngine) (c : Cmd) (joins : Bool), (e.enqueue c joins).remote = (e.remote || !c.local_))

/-! ### What the end of a bundle makes of what its moves staged -/

/-- Where a result without further effect lands (R18, R60, R87, R174): res shows it with its disabled lanes zero, its flags join FST, and
the register, guard or mask that rt named at the trigger takes it, the zero registers and the disabled lanes apart; nothing else changes
but the restart shadow. A target of KIND 4 (R206): the ring of the port takes it in the entry at its tail, which moves; a masked result
keeps what its lanes do not enable. A single result that is due lands alone. What a move or a transfer writes when it lands (R12, R13,
R14, R55, R57): the register or the port that it names, and of the zero registers nothing. A guard or a mask written by what was triggered
before the mark in force is written in the mark's record as well (log 12). -/
def Obligations.ResultsAndWritesLand : Prop :=
  ((∀ (s : State) (r : Result), r.act = .none →
     let t := s.landResult r
     let i := rtIdx r.rt
     let k := rtKind r.rt
     (∀ x, r.val = .sc x → t.core.resOf r.dom = .sc x) ∧
     (∀ v, r.val = .vec v → ∃ w, t.core.resOf r.dom = .vec w ∧ Vec.full w ∧
       ∀ j, j < 256 → lane w j = if bit r.mask j then lane v j else 0) ∧
     (∀ d, d ≠ r.dom → t.core.resOf d = s.core.resOf d) ∧
     (∀ x, r.val2 = some x → t.core.res2Of r.dom = x) ∧
     (∀ d, d ≠ r.dom ∨ r.val2 = none → t.core.res2Of d = s.core.res2Of d) ∧
     t.core.fst = s.core.fst ||| r.flags ∧
     (k ≤ 3 →
       (∀ n, t.core.sreg n = if k = 1 ∧ i = 640 + n ∧ n ≠ 0 then r.val.scalar else s.core.sreg n) ∧
       (∀ n j, j < 256 → lane (t.core.vreg n) j =
         if k = 1 ∧ i = n ∧ n < 640 ∧ n ≠ 0 ∧ n ≠ 320 ∧ bit r.mask j = true then lane r.val.vector j else lane (s.core.vreg n) j) ∧
       (∀ n, n < 8 → t.core.guard n = if k = 2 ∧ i = n ∧ n ≠ 0 ∧ bit r.mask 0 = true then r.val.truth else s.core.guard n) ∧
       (∀ n j, j < 256 → bit (t.core.mask n) j =
         if k = 3 ∧ i = n ∧ n ≠ 0 ∧ bit r.mask j = true then bit r.val.mask j else bit (s.core.mask n) j) ∧
       ∃ res res2 sregs vregs guards masks shadow mark,
         t = { s with core := { s.core with res := res, res2 := res2, fst := t.core.fst, sregs := sregs, vregs := vregs, guards := guards,
                                            masks := masks, shadow := shadow, mark := mark } }) ∧
     (k = 4 → s.core.tailRing i = none →
       t = { s with core := { s.core with res := t.core.res, res2 := t.core.res2, fst := t.core.fst } }) ∧
     (∀ q ring, k = 4 → s.core.tailRing i = some (q, ring) → s.core.ring q = ring →
       let seg := nameIdx (BitVec.ofNat 16 ring.base)
       let off := (ring.line + ring.tail) * 64
       (∀ p, t.core.ring p = if p = q then { ring with tail := (ring.tail + 1) % (ring.depM1 + 1), filled := ring.filled + 1, infl := ring.infl - 1 }
         else s.core.ring p) ∧
       (∀ n, t.core.sreg n = if ring.store = 2 ∧ n = ring.base + ring.tail ∧ n ≠ 0 ∧ bit r.mask 0 = true then r.val.scalar else s.core.sreg n) ∧
       (∀ n j, j < 256 → lane (t.core.vreg n) j =
         if ring.store ≤ 1 ∧ n = 320 * ring.store + ring.base + ring.tail ∧ n ≠ 0 ∧ n ≠ 320 ∧ bit r.mask j = true then lane r.val.vector j
         else lane (s.core.vreg n) j) ∧
       (ring.store ≤ 2 → t.mem = s.mem) ∧
       (3 ≤ ring.store → s.core.mark = none → s.core.task.cm = false → r.life = (s.seg s.cid seg).life → (s.seg s.cid seg).placed = true →
         (∀ x, r.val = .sc x → t.segRead s.cid seg off 64 = bytesLE 64 x.toNat) ∧
         (∀ v j, r.val = .vec v → j < 16 → t.segRead s.cid seg (off + 4 * j) 4 =
           if bit r.mask j then bytesLE 4 (lane v j).toNat else s.segRead s.cid seg (off + 4 * j) 4) ∧
         ∀ a, a < s.segAddr s.cid seg off ∨ s.segAddr s.cid seg off + 64 ≤ a → t.mem.get a = s.mem.get a))) ∧
   (∀ (s : State) (n : Nat) (r : Result), s.core.inflight.filter (fun x => decide (x.due ≤ n)) = [r] →
     (∀ x ∈ s.core.xfers, n < x.due) → (∀ x ∈ s.core.maskq, n < x.due) → (∀ x ∈ s.core.permq, n < x.due) →
     s.landAt n = ({ s with core := { s.core with inflight := s.core.inflight.filter (fun x => decide (n < x.due)) } } : State).landResult r)) ∧
  (∀ (s : State) (trig : Nat) (v : Val) (live : Nat × Nat),
     let x := v.scalar
     let c := s.core
     (∀ i, let t := s.writeDst trig (.sreg i) v live
       (∀ n, t.core.sreg n = if n = i ∧ n ≠ 0 then x else c.sreg n) ∧
       ∃ l sh, t = { s with core := { c with sregs := l, shadow := sh } }) ∧
     (∀ i, let t := s.writeDst trig (.vreg i) v live
       (∀ n, t.core.vreg n = if n = i ∧ n ≠ 0 ∧ n ≠ 320 then v.vector else c.vreg n) ∧
       ∃ l sh, t = { s with core := { c with vregs := l, shadow := sh } }) ∧
     (∀ d, let t := s.writeDst trig (.rt d) v live
       (∀ w, decodeRt (s.me.ownRegs d) x = some w → t.core.rtOf d = w) ∧ (∀ e, e ≠ d → t.core.rtOf e = c.rtOf e) ∧
       ∃ l, t = { s with core := { c with rt := l } }) ∧
     (∀ u, let t := s.writeDst trig (.mk u) v live
       (∀ w, t.core.mkOf w = if w = u then x.toNat % 16 else c.mkOf w) ∧ ∃ l, t = { s with core := { c with mks := l } }) ∧
     (∀ u, let t := s.writeDst trig (.dix u) v live
       (∀ w, t.core.dixOf w = if w = u then x.toNat % 32 else c.dixOf w) ∧ ∃ l, t = { s with core := { c with dix := l } }) ∧
     (∀ u i, let t := s.writeDst trig (.dword u i) v live
       (∀ w n, t.core.dword w n = if w = u ∧ n = i then x else c.dword w n) ∧
       ∃ l m, t = { s with core := { c with dfile0 := l, dfile1 := m } }) ∧
     (∀ u, let t := s.writeDst trig (.dwr u) v live
       (∀ w n, t.core.dword w n = if w = u ∧ n = c.dixOf u then x else c.dword w n) ∧
       (∀ w, t.core.dixOf w = if w = u then (c.dixOf u + 1) % 32 else c.dixOf w) ∧
       ∃ l m k, t = { s with core := { c with dfile0 := l, dfile1 := m, dix := k } }) ∧
     (∀ i, let t := s.writeDst trig (.mreg i) v live
       (∀ n, t.core.mreg n = if n = i then x else c.mreg n) ∧ ∃ l, t = { s with core := { c with mregs := l } }) ∧
     (∀ i, i < 8 → let t := s.writeDst trig (.guard i) v live
       (∀ n, n < 8 → t.core.guard n = if n = i ∧ n ≠ 0 then v.truth else c.guard n) ∧
       (∀ m, c.mark = some m → ∃ k, t.core.mark = some k ∧ k.issue = m.issue ∧
         ∀ n, n < 8 → k.guards.getLsbD n = if n = i ∧ n ≠ 0 ∧ trig < m.issue then v.truth else m.guards.getLsbD n) ∧
       ∃ l m, t = { s with core := { c with guards := l, mark := m } }) ∧
     (∀ i, let t := s.writeDst trig (.mask i) v live
       (∀ n, t.core.mask n = if n = i ∧ n ≠ 0 then v.mask else c.mask n) ∧
       (∀ m, c.mark = some m → ∃ k, t.core.mark = some k ∧ k.issue = m.issue ∧
         ∀ n, sget 0 k.masks n = if n = i ∧ n ≠ 0 ∧ trig < m.issue then v.mask else sget 0 m.masks n) ∧
       ∃ l m, t = { s with core := { c with masks := l, mark := m } }) ∧
     (s.writeDst trig .spx v live = { s with core := { c with spx := x.toNat % 256 } }) ∧
     (let t := s.writeDst trig .spd v live
      (∀ n, t.core.word n = if n = c.spx then x else c.word n) ∧ t.core.spx = (c.spx + 1) % 256 ∧
       ∃ l sh, t = { s with core := { c with words := l, shadow := sh, spx := (c.spx + 1) % 256 } }))

/-- Where fetch goes after a bundle that neither ends its task nor traps nor is a safe point: to the target of the branch whose two shadow
bundles have issued, else to the body of the nest level that its LE field closes, else to the next bundle (R67, R163); a branch that the
bundle triggers waits for its shadow. A bundle with E commits and ends the task; a mark at it stands, so that a later rollback goes back
to it (R101, R371; log 31). -/
def Obligations.BundleEnds : Prop :=
  (∀ (s : State) (h : Header),
    let es := s.core.staged
    let n := s.core.issued
    let t := s.endBundle h
    h.e = false → .halt ∉ es → (∀ x, .trap x ∉ es) → h.hk ≠ 2 →
    t.core.issued = n + 1 ∧ t.core.run = s.core.run ∧
    (∀ b, s.core.branches.find? (fun x => x.1 = n) = some b → t.core.pc = b.2) ∧
    ((∀ b ∈ s.core.branches, b.1 ≠ n) → t.core.pc = (s.core.loopTo h.le).getD (s.core.pc + 1)) ∧
    (∀ b, b ∈ t.core.branches ↔ (b ∈ s.core.branches ∧ n < b.1) ∨ (b.1 = n + 2 ∧ .branch b.2 ∈ es))) ∧
  -- a bundle with E, or with halt, whose task has nothing in flight: the task retires (R67, R273)
  (∀ (s : State) (h : Header) (x : Task),
    let t := s.endBundle h
    s.core.staged = [] ∧ h.e = true ∨ s.core.staged = [.halt] → h.le = 0 → h.hk = 0 → h.pop = 0 → h.push = 0 →
    s.core.inflight = [] → s.core.xfers = [] → s.core.maskq = [] → s.core.permq = [] → s.core.run = .running → s.taskOn s.cur s.cid s.core.task.key = some x →
    t.core.run = .retiring ∧ t.core.ended = true ∧ t.core.branches = [] ∧ t.core.issued = s.core.issued + 1 ∧ t.core.pc = s.core.pc ∧
    (t.core.markNext = true ↔ ∃ m, s.core.mark = some m ∧ m.issue = s.core.issued) ∧
    { x with state := .retiring } ∈ t.tasks) ∧
  -- a trap alone in its bundle: the bundle is over, and the fault names it (R105, R158)
  (∀ (s : State) (h : Header) (x : W64),
    s.core.staged = [.trap x] → h.e = false → h.le = 0 → h.hk = 0 → h.pop = 0 → h.push = 0 → s.core.mark = none → s.core.branches = [] → s.core.run = .running →
    s.endBundle h = State.takeFault { s with core := { s.core with
      staged := [], issued := s.core.issued + 1, pc := s.core.pc + 1,
      skipBrk := if s.core.skipBrk = some s.core.pc then none else s.core.skipBrk,
      stores := s.core.stores.filter (fun y => decide (s.core.issued + 1 < y.2)) } }
      { cause := .trap, info := x, bidx := some s.core.pc })

/-! ### Taking a fault, and the way back -/

/-- Rollback (R101, R102): with a mark in force fetch resumes at it, the recorded registers, guards, masks, rings, nest levels, flags,
format and stream 0 stand as they stood there, a branch taken before it has its delay bundles again (R67), what the shadow does not hold
stays; the input files are empty, the gated stores are gone, and nothing outside the core changes. A core's fault (R102, R105 to R107):
the codes, the record as R107 lays it out, and the entry: the core stops, at the mark where the cause resumes there, its task is FAULTED,
and the record stands in the fault ring at FRTAIL, or in the latch while the ring cannot take it: a ring that moves, or whose tile R123
does not let it write, holds the record, and so does one without room; that, and the write at FRTAIL where FRDEPTH ≤ FRTAIL, are the
model's choice (log 29); under AUTO a recallable fault latches nothing, under ABORT the core is free, but for BREAK, which is handled as
REPORT (R110). -/
def Obligations.FaultsAndRollback : Prop :=
  (∀ s : State,
     let t := s.rollback
     let c := s.core
     t.core.gated = [] ∧ t.core.inputs = [] ∧ t.core.shadow = [] ∧ t.core.markNext = true ∧
     t.core.issued = c.issued ∧ t = { s with core := t.core } ∧
     (∀ m, c.mark = some m → c.markNext = false → (c.shadow.map (·.1)).Nodup →
       t.core.pc = m.pc ∧ t.core.guards = m.guards ∧ t.core.masks = m.masks ∧ t.core.rings = m.rings ∧ t.core.nest = m.nest ∧
       t.core.branches = m.branches.map (fun b => (b.1 + (c.issued - m.issue), b.2)) ∧ t.core.fst = m.fst ∧ t.core.fmt = m.fmt ∧ t.core.stream 0 = m.gen0 ∧
       (∀ i x, i ≠ 0 → (.sreg i, x) ∈ c.shadow → t.core.sreg i = x.scalar) ∧
       (∀ i, (∀ x, (.sreg i, x) ∉ c.shadow) → t.core.sreg i = c.sreg i) ∧
       (∀ i x, i ≠ 0 → i ≠ 320 → (.vreg i, x) ∈ c.shadow → t.core.vreg i = x.vector) ∧
       (∀ i, (∀ x, (.vreg i, x) ∉ c.shadow) → t.core.vreg i = c.vreg i) ∧
       (∀ i x, (.word i, x) ∈ c.shadow → t.core.word i = x.scalar) ∧ (∀ i, (∀ x, (.word i, x) ∉ c.shadow) → t.core.word i = c.word i) ∧
       (∀ i x, (.line i, x) ∈ c.shadow → t.core.line i = x.vector) ∧ (∀ i, (∀ x, (.line i, x) ∉ c.shadow) → t.core.line i = c.line i)) ∧
     (c.mark = none ∨ c.markNext = true → t.core.pc = c.pc ∧ t.core.branches = c.branches ∧ t.core.sregs = c.sregs ∧ t.core.vregs = c.vregs)) ∧
  ((([.illegalBundle, .illegalMove, .formatUnsupported, .segAbsent, .segStale, .segBounds, .segQuota, .segUndeclared, .pageAbsent, .pagePerm,
      .permInvalid, .timedStall, .overrun, .tilePoison, .eccUncorr, .divZero, .landingBusy, .permitExpired, .trap, .brk] : List Cause).map
        Cause.code = List.range' 1 20) ∧
   (∀ r : FaultRec, r.word = r.code % 2 ^ 8 + 2 ^ 8 * b2n r.rstb + 2 ^ 9 * b2n r.roll + 2 ^ 10 * b2n r.auto + 2 ^ 11 * (r.unit % 2 ^ 4) +
     2 ^ 16 * (r.core % 2 ^ 8) + 2 ^ 32 * (r.task % 2 ^ 32) + 2 ^ 64 * (r.bidx % 2 ^ 13) + 2 ^ 80 * (r.mark % 2 ^ 13) +
     2 ^ 128 * r.frame.toNat + 2 ^ 192 * r.wher.toNat + 2 ^ 256 * r.info.toNat + 2 ^ 320 * r.resume.toNat) ∧
   (∀ (s : State) (f : FaultInfo),
     let t := s.takeFault f
     let c := s.ctx s.cid
     let fs := c.seg (nameIdx c.frseg)
     let atMark := f.cause ∈ ([.segAbsent, .pageAbsent, .permInvalid, .timedStall, .overrun, .tilePoison, .divZero, .permitExpired] : List Cause)
     let back := atMark ∨ f.cause = .trap ∨ f.cause = .brk
     let r : FaultRec :=
       { code := f.cause.code, rstb := decide back, roll := decide atMark, auto := false, unit := f.unit,
         core := f.core.getD (linOf s.core.coord), task := s.core.task.id, bidx := f.bidx.getD s.core.pc, mark := s.core.markPc,
         frame := BitVec.ofNat 64 (s.frameCtx s.cid), wher := f.wher, info := f.info, resume := f.resume }
     s.core.inflight = [] → s.core.xfers = [] → s.core.maskq = [] → s.core.permq = [] →
     (alook s.ctxs s.cid).isSome = true → c.state ≠ .draining → c.fstop = false → f.recalls = [] →
     (¬ (s.core.task.rpol = 0 ∧ f.autoable = true) → ¬ (s.core.task.rpol = 2 ∧ f.cause ≠ .brk) → c.frwait = [] → s.core.latch = [] →
       t.core.run = .faulted ∧ (atMark → t.core.pc = s.rollback.core.pc) ∧ (¬ atMark → t.core.pc = s.core.pc) ∧
       (∀ x, s.taskOn s.cur s.cid s.core.task.key = some x →
         ∃ y ∈ t.tasks, y.id = x.id ∧ y.cid = x.cid ∧ y.core = some s.cur ∧ y.state = .faulted ∧ y.rstb = x.rstb ++ [decide back] ∧
           (x.timed = true → y.book = [])) ∧
       (c.frdepth ≠ 0 ∧ c.stale c.frseg = false ∧ fs.state = .resident ∧ fs.placed = true ∧ c.frdepth ≤ fs.size ∧
         (c.frtail + 1) % c.frdepth ≠ c.frhead ∧ fs.tilesOk (64 * c.frtail) 64 true = true →
         t.segRead s.cid (nameIdx c.frseg) (64 * c.frtail) 64 = bytesLE 64 r.word ∧ (t.ctx s.cid).frtail = (c.frtail + 1) % c.frdepth ∧
         t.core.latch = []) ∧
       (c.frdepth = 0 ∨ c.stale c.frseg = true ∨ (c.frtail + 1) % c.frdepth = c.frhead ∨ fs.state = .moving ∨
           (fs.state = .resident ∧ fs.tilesOk (64 * c.frtail) 64 true = false) →
         t.core.latch = [r] ∧ (t.ctx s.cid).frwait = [(r, some s.cur)] ∧ (t.ctx s.cid).frtail = c.frtail)) ∧
     (s.core.task.rpol = 0 → f.autoable = true → t.core.run = .faulted ∧ t.core.latch = s.core.latch) ∧
     (s.core.task.rpol = 2 → f.cause ≠ .brk → t.core.run = .idle)) ∧
   -- the return: the core issues again from where it stopped, and the task's faulted commands are free to go on (R105, R229, R240)
   (∀ (s : State) (x : Task), x.core = some s.cur → s.core.run = .faulted → s.core.task.cid = x.cid → s.core.task.key = x.key →
     s.core.ended = false →
     let t := s.returnFromFault x
     let mine := fun (y : Cmd) => y.st = .faulted ∧ y.cid = x.cid ∧ y.task = x.key
     t.core.run = .running ∧ t.core.pc = s.core.pc ∧ t.core.sregs = s.core.sregs ∧ t.mem = s.mem ∧
     ∀ u, (t.core.eng u).cmds = (s.core.eng u).cmds.map (fun y => if mine y then y.woken else y)))

/-! ### The turns of the copy engines -/

/-- A copy engine takes its oldest queued command where it may start (R83, R239, R240, R303, R304), a copy of a timed task only in its
window (R254), and its element on the circuit network only in a circ entry (R281; log 18); a sync operation has its effect as it starts
(R300 to R305), a bwait once a signal of its own core and cluster that left two bundles ago is in the cell (R296, R302; log 5); a started
command's elements land one after another (R240, R243 to R249), past the locks of the other engine (R315; log 13), and its end releases it
and signals (R241, R252, R296); under AUTO a faulted command goes on (R240). The bytes of each copy between segments, of tatom and of
topk's choice row (R245 to R249) are stated. The stack agent of a subscription (R250, R251, R314): with an entry of the ring free it
pushes the next line, bytes first, then the tail; with RET it reads back an entry that the head has passed into the tensor. What a
rollback can still give back counts as not passed (R314); lines of FP6 tensors are dense there (R239). -/
def Obligations.EngineTurns : Prop :=
  ((∀ (u : CUnit) (s : State) (c : Cmd), (s.core.eng u).cmds.find? (fun x => x.st = .queued) = some c → s.core.run ≠ .saving →
     let e := s.core.eng u
     let earlier := e.cmds.takeWhile (fun x => x.id ≠ c.id)
     let fence := fun (x : Cmd) => 31 ≤ x.op ∧ x.op ≤ 35
     let draws := fun (x : Cmd) => x.op = 22 ∧ x.rmf = 4 ∧ x.fo ≠ 15
     let may := (∀ x ∈ e.cmds, x.st ≠ .faulted ∧ ¬ (x.op = 10 ∧ x.st = .running)) ∧ (∀ x ∈ e.subs, x.2.faulted = false) ∧
       (e.cmds.filter (fun x => x.st = .running)).length < 4 ∧ (fence c → earlier = []) ∧
       (∀ x ∈ earlier, ¬ fence x) ∧ (draws c → ∀ x ∈ earlier, ¬ draws x)
     let inWindow := c.timed = true → c.local_ = true → c.op ≤ 5 → s.booked c.cid c.task (2 + u.num) = true
     (may → inWindow → exec (.commandStart u) s = .next (s.startOp u c)) ∧
     (¬ may → exec (.commandStart u) s = .next s) ∧
     (may → ¬ inWindow → exec (.commandStart u) s = .next (s.cmdFault u c { cause := .timedStall }))) ∧
   (∀ (u : CUnit) (s : State) (c : Cmd), c.cm = false → c.unsig = 0 → c.held = [] → c.pages = [] →
     c.wtiles = [] → c.stiles = [] → (s.ctx c.cid).frwait = [] →
     let w := c.word.toNat
     let n := if w / 2 ^ 16 % 2 ^ 16 = 0 then 1 else w / 2 ^ 16 % 2 ^ 16
     let clu := c.sigw.toNat / 2 ^ 14 % 64
     let ctr := c.sigw.toNat % 2 ^ 12
     let sends := fun (k : SigKind) => (s.startOp u c).signals = s.signals ++ [s.sigOf u c clu ctr k] ∧
       ((s.startOp u c).core.eng u).cmds = (s.core.eng u).cmds.filter (fun x => x.id ≠ c.id)
     (c.op = 26 → sends (.arrive n)) ∧ (c.op = 27 → sends (.expect (w / 2 ^ 16 % 2 ^ 24) (bit c.word 5))) ∧
     (c.op = 29 → sends (.depset (bit c.word 5) (w / 2 ^ 16 % 2 ^ 16))) ∧ (c.op = 30 → sends (.dec n)) ∧
     (c.op = 28 → clu = s.linIn c.cid / 4 → s.signalDue c = true → s.startOp u c = s) ∧
     (c.op = 28 → clu = s.linIn c.cid / 4 → s.signalDue c = false →
       let x := (s.ctx c.cid).cell clu ctr
       ((s.startOp u c).core.eng u).cmds = (s.core.eng u).cmds.map (fun y => if y.id = c.id then
         { y with st := .running, total := 1, performed := true, ready := if x.barrier then x.ph != bit c.word 5 else x.st = 0 } else y))) ∧
   (∀ (u : CUnit) (id : Nat) (s : State) (c : Cmd), s.cmdOf u id = some c → c.st = .running → c.elem < c.total →
     let inCirc := s.outsideCirc c = false
     let allRead := ∀ p ∈ s.badPages, s.elemReads u c p.1 p.2 = false
     (c.op ≤ 7 → inCirc → allRead → exec (.copyElement u id) s = .next (s.elemDone u c (s.copyElem u c))) ∧
     (¬ inCirc → allRead → exec (.copyElement u id) s = .next (s.cmdFault u c { cause := .timedStall })) ∧
     (∀ t n k c', inCirc → allRead → s.copyElem u c = .val t (n, k) → c.op ≤ 7 → t.cmdOf u id = some c' → n + c'.unsig < 4096 →
       Turns (.copyElement u id) s (fun t' =>
         (c'.pages = [] → t'.mem = t.mem) ∧
         ∃ ps, (∀ p ∈ ps, p ∈ c'.pages) ∧ t'.cmdOf u id = some { c' with elem := c'.elem + k, unsig := c'.unsig + n, pages := ps })) ∧
     (∀ t f c', inCirc → allRead → s.copyElem u c = .fault t f → c.op ≤ 7 → t.cmdOf u id = some c' →
       exec (.copyElement u id) s = .next (t.cmdFault u c' f)) ∧
     -- a line that cannot be read (R135, R145)
     (∀ l r tid pg, s.badPages = l ++ (tid, pg) :: r → (∀ p ∈ l, s.elemReads u c p.1 p.2 = false) → s.elemReads u c tid pg = true →
       exec (.copyElement u id) s = .next (s.badLine u c tid pg))) ∧
   -- the bytes that an element of a copy between segments moves
   (∀ (u : CUnit) (s : State) (c : Cmd), epT c.srcw = false → epT c.dstw = false → c.cm = false → sigFx c.sigw = false →
     let sn := epName c.srcw
     let dn := epName c.dstw
     let so := fun r => epOff c.srcw + r * c.spitch
     let dof := fun r => epOff c.dstw + r * c.dpitch
     let ok := fun a b n => s.Passes u c sn a n false ∧ s.Passes u c dn b n true
     let moved := fun a b n => s.segWrite c.cid (nameIdx dn) b (s.segRead c.cid (nameIdx sn) a n)
     let tab := epName c.extw
     let g := c.extw.toNat / 2 ^ 48 % 16
     let at_ := epOff c.extw + 4 * (c.elem / 2 ^ g)
     let entry : Int := (BitVec.ofNat 32 (natLE (s.segRead c.cid (nameIdx tab) at_ 4))).toInt
     let row := entry.toNat * 2 ^ g + c.elem % 2 ^ g
     (∀ r k m, c.op = 0 → walkRows (s.pieces c) c.rows 0 c.elem = some (r, k, m) → ok (so r + k) (dof r + k) m →
       s.copyElem u c = .val (moved (so r + k) (dof r + k) m) (m, 1)) ∧
     (let from_ := c.elem / 256 * 256 + c.perm.getD (c.elem % 256) 0
      c.op = 1 → ok (so from_) (dof c.elem) 64 → s.copyElem u c = .val (moved (so from_) (dof c.elem) 64) (64, 1)) ∧
     (c.op = 2 → s.Passes u c tab at_ 4 false → 0 ≤ entry → ok (so row) (dof c.elem) c.rowb →
       s.copyElem u c = .val (moved (so row) (dof c.elem) c.rowb) (c.rowb, 1)) ∧
     (c.op = 2 → s.Passes u c tab at_ 4 false → entry = -1 → s.Passes u c dn (dof c.elem) c.rowb true →
       s.copyElem u c = .val (s.segWrite c.cid (nameIdx dn) (dof c.elem) (List.replicate c.rowb 0)) (c.rowb, 1)) ∧
     (c.op = 4 → s.Passes u c tab at_ 4 false → 0 ≤ entry → ok (so c.elem) (dof row) c.rowb →
       s.copyElem u c = .val (moved (so c.elem) (dof row) c.rowb) (c.rowb, 1)) ∧
     (c.op = 4 → s.Passes u c tab at_ 4 false → entry = -1 → s.copyElem u c = .val s (0, 1)) ∧
     (c.op = 2 ∨ c.op = 4 → s.Passes u c tab at_ 4 false → entry < -1 → ∃ f, s.copyElem u c = .fault s f ∧ f.cause = .segBounds) ∧
     -- grd: each element is the sum of the weighted rows in ascending k, in FP32 (R246)
     (let w := if bit c.word 7 then 2 else 4
      let entry := fun (k : Nat) => natLE (s.segRead c.cid (nameIdx tab) (epOff c.extw + 8 * (g * c.elem + k)) 8)
      let used := (List.range g).filter (fun k => decide (entry k / 2 ^ 63 % 2 = 0))
      let from_ := fun (k : Nat) => so (entry k % 2 ^ 24)
      let weight := fun (k : Nat) => if bit c.word 6 then entry k / 2 ^ 32 % 2 ^ 16 * 2 ^ 16 else 0x3F800000
      let value := fun (k x : Nat) => natLE (((s.segRead c.cid (nameIdx sn) (from_ k) c.rowb).drop (w * x)).take w) * (if w = 2 then 2 ^ 16 else 1)
      let sum := fun (x : Nat) => used.foldl (fun (a : Nat) k => (ffmaE fp32 .rne (weight k) (value k x) a).1) 0
      let bs := (List.range (c.rowb / w)).flatMap (fun x =>
        if bit c.word 8 then bytesLE 2 (roundFP bf16 .rne false (decodeFP fp32 (sum x))).1 else bytesLE 4 (sum x))
      c.op = 3 → (∀ k, k < g → s.Passes u c tab (epOff c.extw + 8 * (g * c.elem + k)) 8 false) →
        (∀ k ∈ used, s.Passes u c sn (from_ k) c.rowb false) → s.Passes u c dn (dof c.elem) bs.length true →
        ∃ fl, s.copyElem u c = .val ((s.segWrite c.cid (nameIdx dn) (dof c.elem) bs).addFlags u c.id fl) (bs.length, 1)) ∧
     -- mcast: the first line of a buffer takes its in-use bit, a buffer in use is passed over (R247)
     (∀ i e n r k m, c.op = 5 → mcastFind c (c.word.toNat / 2 ^ 6 % 2 ^ 6 + 1) 0 c.elem = some (i, e, n) →
       walkRows (mcastLines c i) c.rows 0 e = some (r, k, m) →
       let ctl := (alook c.acc (2 * i + 1)).getD 0
       let name := epName ((alook c.acc (2 * i)).getD 0)
       let off := epOff ((alook c.acc (2 * i)).getD 0)
       let to_ := off + 64 + r * c.dpitch + k
       let word := s.segRead c.cid (nameIdx name) off 1
       let sends := fun (x : SigKind) => [s.sigOf u c (s.seg c.cid (nameIdx name)).home (ctl.toNat % 2 ^ 12) x]
       let sk := ctl.toNat / 2 ^ 12 % 4
       s.Passes u c sn (so r + k) m false → s.Passes u c name to_ m true → s.Passes u c name off 1 true → s.Passes u c name off 1 false →
       (e ≠ 0 ∨ natLE word % 2 = 0 → ∃ t : State, s.copyElem u c = .val t (m, 1) ∧
         t.mem = ((if e = 0 then s.segWrite c.cid (nameIdx name) off (word.map (fun x => x ||| 1)) else s).segWrite c.cid (nameIdx name) to_
           (s.segRead c.cid (nameIdx sn) (so r + k) m)).mem ∧
         t.signals = s.signals ++ (if sk = 3 then sends (.bytes m) else if sk = 1 ∧ e + 1 = n then sends (.dec 1)
           else if sk = 2 ∧ e + 1 = n then sends (.arrive 1) else [])) ∧
       (e = 0 → natLE word % 2 = 1 → 
         let f : FaultInfo := { cause := .landingBusy, unit := 9 + u.num, wher := segWhere name off, bidx := some c.bidx, resume := BitVec.ofNat 64 c.elem, core := some (ctl.toNat / 2 ^ 14 % 2 ^ 8) }
         s.copyElem u c = .val (s.engineFault f c.cid c.task).1 (0, n)))) ∧
   -- the choice row of topk (R249): the K first experts in rank order, with their weights
   (∀ (u : CUnit) (s s1 : State) (c : Cmd) (t : Tensor) (a : Loc) (bs : List Byte), c.op = 7 → epT c.srcw = true → epT c.dstw = false →
     c.cm = false → sigFx c.sigw = false → s.tensor (epTid c.srcw) = some t → t.fmt = 13 ∨ t.fmt = 15 → s.locate c false c.elem = .ok a →
     let E := c.word.toNat / 2 ^ 6 % 2 ^ 12 + 1
     let K := c.word.toNat / 2 ^ 18 % 8
     let w := if t.fmt = 13 then 2 else 4
     let val := fun (x : Nat) => decodeNum t.fmt (natLE ((bs.drop (w * x)).take w))
     let beats := fun (x y : Nat) => (val x).isNaN = false ∧ ((val y).isNaN = true ∨ Num.lt (val y) (val x) = true)
     let first := fun (x y : Nat) => beats x y ∨ (x < y ∧ ¬ beats y x)
     1 ≤ K → K ≤ 4 → K ≤ E → s.locRead u c a 0 (E * w) = .val s1 bs → s1.Passes u c (epName c.dstw) (epOff c.dstw + c.elem * c.dpitch) 16 true →
     ∃ (picks : List Nat) (out : List Byte) (fl : BitVec 11), picks.length = K ∧ picks.Pairwise first ∧
       (∀ x ∈ picks, x < E ∧ ∀ y, y < E → y ∉ picks → first x y) ∧ out.length = 16 ∧
       (∀ i, i < 4 → natLE ((out.drop (4 * i)).take 4) =
         if i < K then picks.getD i 0 + 2 ^ 16 * ((if bit c.word 21 then (topkWeights true (picks.map val)).getD i (0, 0)
           else roundFP bf16 .rne false (val (picks.getD i 0))).1 % 2 ^ 16) else 0xFFF) ∧
       s.copyElem u c = .val ((s1.segWrite c.cid (nameIdx (epName c.dstw)) (epOff c.dstw + c.elem * c.dpitch) out).addFlags u c.id fl) (16, 1)) ∧
   -- tatom at a width of w bits (R248)
   (∀ w old a b, w = 32 ∨ w = 64 → old < 2 ^ w → a < 2 ^ w → b < 2 ^ w →
     let r := fun op => (tatomNew op w old a b).1
     r 0 = (old + a) % 2 ^ w ∧ (r 2).testBit = (fun i => old.testBit i && a.testBit i) ∧ (r 3).testBit = (fun i => old.testBit i || a.testBit i) ∧
     (r 4).testBit = (fun i => old.testBit i != a.testBit i) ∧ signedOf w (r 5) = min (signedOf w old) (signedOf w a) ∧
     signedOf w (r 6) = max (signedOf w old) (signedOf w a) ∧ r 7 = a ∧ r 8 = if old = b then a else old) ∧
   -- the end of a command
   (∀ (u : CUnit) (id : Nat) (s : State) (c : Cmd), s.cmdOf u id = some c → c.st = .running →
     ((c.op ≤ 9 ∨ c.op = 23 ∨ (36 ≤ c.op ∧ c.op ≤ 39)) ∧ c.total ≤ c.elem ∨ (31 ≤ c.op ∧ c.op ≤ 35 ∧ c.performed = true)) → c.cm = false →
     (s.ctx c.cid).frwait = [] →
     Turns (.commandComplete u id) s (fun t =>
       (t.core.eng u).cmds = (s.core.eng u).cmds.filter (fun x => x.id ≠ c.id) ∧ (s.core.owner = some c.cid → t.core.fst = s.core.fst ||| c.flags) ∧
       (sigSk c.sigw = 0 → t.signals = s.signals) ∧
       (sigSk c.sigw = 1 → t.signals = s.signals ++ [s.sigOf u c (sigCcl c.sigw) (sigCtr c.sigw) (.dec 1)]) ∧
       (sigSk c.sigw = 2 → t.signals = s.signals ++ [s.sigOf u c (sigCcl c.sigw) (sigCtr c.sigw) (.arrive 1)]) ∧
       (sigSk c.sigw = 3 → c.unsig ≠ 0 → t.signals = s.signals ++ [s.sigOf u c (sigCcl c.sigw) (sigCtr c.sigw) (.bytes c.unsig)]))) ∧
   (∀ (u : CUnit) (id : Nat) (s : State) (c : Cmd), s.cmdOf u id = some c → c.st = .faulted → c.auto = true →
     (∀ i ∈ c.wait, ∀ b ∈ (s.ctx c.cid).batches, i ∉ b.2) → (∀ p, c.waitPg = some p → (s.page p.1 p.2).mov = false) →
     Turns (.engineResume u id) s (fun t => t.mem = s.mem ∧ (t.core.eng u).cmds = (s.core.eng u).cmds.map (fun x => if x.id = id then
       { x with st := if x.total = 0 then .queued else .running, auto := false, wait := [], waitPg := none } else x))) ∧
   (∀ (u : CUnit) (id : Nat) (s : State) (c : Cmd), s.cmdOf u id = some c → c.op = 28 → c.st = .running → c.performed = false →
     s.signalDue c = false →
     let x := (s.ctx c.cid).cell (sigCcl c.sigw) (sigCtr c.sigw)
     Turns (.remoteBwaitAnswer u id) s (fun t => (t.core.eng u).cmds = (s.core.eng u).cmds.map (fun y => if y.id = c.id then
       { y with st := .running, total := 1, performed := true, ready := if x.barrier then x.ph != bit c.word 5 else x.st = 0 } else y)))) ∧
  (∀ (u : CUnit) (sid : Nat) (s : State) (x : SubSt), alook (s.core.eng u).subs sid = some x → x.faulted = false →
     let r := s.core.markRing x.ring
     let q := s.core.ring x.ring
     let seg := nameIdx (BitVec.ofNat 16 r.base)
     let free := fun (off : Nat) (write : Bool) => ∀ t ∈ tileSpan off 64, ((s.seg x.cid seg).tile t).st = .ready ∨
       (((s.seg x.cid seg).tile t).st = .draining ∧ write = false)
     (∀ tid runs s1, x.next < x.rows → r.filled < r.depM1 + 1 → (x.ret = true → x.next - x.back < r.depM1 + 1) →
       free ((r.line + r.tail) * 64) true → s.subRuns x false x.next = .ok (tid, runs) → s.subTouch u sid x tid runs false = .val s1 () →
       let bs := s1.readRuns tid runs
       Turns (.subPush u sid) s (fun t =>
         s.MemBut (s1.segWrite x.cid seg ((r.line + r.tail) * 64) (if sigFx x.sigw then fieldsOf bs 0 64 else bs)) t ∧
         t.core.ring x.ring = { q with tail := (q.tail + 1) % (q.depM1 + 1), filled := q.filled + 1 } ∧
          (x.next + 1 < x.rows → ∃ y, alook (t.core.eng u).subs sid = some y ∧ y.next = x.next + 1) ∧
         (x.next + 1 = x.rows → x.ret = false → alook (t.core.eng u).subs sid = none))) ∧
     (let off := (r.line + (r.tail + (r.depM1 + 1) - (x.next - x.back)) % (r.depM1 + 1)) * 64
      ∀ tid runs s1, x.ret = true → x.back < x.next - r.filled → free off false →
       s.subRuns x true x.back = .ok (tid, runs) → s.subTouch u sid x tid runs true = .val s1 () →
       Turns (.subReturn u sid) s (fun t =>
         s.MemBut (State.writeRuns tid runs (if sigFx x.sigw then bytesLE 48 (denseOf (s1.segRead x.cid seg off 64)) else s1.segRead x.cid seg off 64) s1) t ∧
         t.core.rings = s.core.rings ∧
         (x.next < x.rows → ∃ y, alook (t.core.eng u).subs sid = some y ∧ y.back = x.back + 1))))

/-! ### Cells -/

/-- Signals that reach a cell together (R296 to R298): the depsets first, in the order of R296, the last one standing, then the sums of
the others; on a counter and on a barrier as the rules say; the other cells, and the signals that stay on their way, are not touched, and
the cards that wait on the cell become ready (R260). Of the cell's own cluster no signal overtakes an earlier one, and what one core sends
in one cycle does not arrive after what it sends later; that cards which one turn readies in several cells share a ready order is the
model's reading (log 5). -/
def Obligations.CellSignals : Prop :=
  (∀ (cid clu n : Nat) (which : List Nat) (s : State) (c : Ctx), alook s.ctxs cid = some c →
    let mine := s.signals.filter (fun x => x.cid = cid && x.clu = clu && x.n = n)
    let taken := (mine.zipIdx.filter (fun y => which.contains y.2)).map (·.1)
    let left := (mine.zipIdx.filter (fun y => !which.contains y.2)).map (·.1)
    let ordered := ∀ i j x y, mine[i]? = some x → mine[j]? = some y → i < j → x.src = clu → y.src = clu → j ∈ which → i ∈ which
    let late := ∃ y ∈ taken, ∃ x ∈ s.signals, x.src = x.clu ∧ y.src = y.clu ∧ x.cid = y.cid ∧ x.src = y.src ∧ x.core = y.core ∧ x.at_ < y.at_
    let now := if taken.all (fun x => x.src = x.clu) then taken.foldl (fun m x => max m x.sent) 0 else s.turns
    (taken = [] ∨ ¬ ordered ∨ late → exec (.signalApply cid clu n which) s = .next s) ∧
    (taken ≠ [] → ordered → ¬ late → ∃ t : State, exec (.signalApply cid clu n which) s = .next t ∧
      (t.ctx cid).cell clu n = (c.cell clu n).take clu taken ∧
      t.signals.filter (fun x => x.cid = cid && x.clu = clu && x.n = n) = left ∧
      t.signals.filter (fun x => !(x.cid = cid && x.clu = clu && x.n = n)) =
        s.signals.filter (fun x => !(x.cid = cid && x.clu = clu && x.n = n)) ∧
      (∀ clu' n', n < 4096 → n' < 4096 → (clu', n') ≠ (clu, n) → (t.ctx cid).cell clu' n' = c.cell clu' n') ∧ t.mem = s.mem ∧
      t.tasks = s.tasks.map (fun y => match y.state with
        | .posted => if t.isReady y then { y with state := .ready, readyAt := now } else y
        | .ready => if t.isReady y then y else { y with state := .posted }
        | _ => y))) ∧
  (∀ (clu : Nat) (l : List Signal) (c : Cell), (∀ x ∈ l, ∀ b v, x.kind ≠ .depset b v) →
    let d := c.take clu l
    let dec := (l.map (fun x => match x.kind with | .dec n => n | _ => 0)).sum
    let arr := (l.map (fun x => match x.kind with | .arrive n => n | .expect _ a => b2n a | _ => 0)).sum
    let got := c.gotb + (l.map (fun x => match x.kind with | .bytes n => n | _ => 0)).sum
    let exp := c.expb + (l.map (fun x => match x.kind with | .expect n _ => n | _ => 0)).sum
    let decs := ∃ x ∈ l, ∃ n, x.kind = .dec n
    let others := ∃ x ∈ l, ∀ n, x.kind ≠ .dec n
    let cap := 2 ^ 32 - 1
    (c.barrier = false →
      (d.mis = true ↔ c.mis = true ∨ others) ∧ (¬ decs → d.val = c.val ∧ d.st = c.st ∧ d.under = c.under) ∧
      (decs → c.st = 0 → d.st = 0 ∧ d.val = c.val ∧ d.under = true) ∧
      (decs → c.st ≠ 0 → dec < c.val → d.st = c.st ∧ d.val = c.val - dec ∧ d.under = c.under) ∧
      (decs → c.st ≠ 0 → c.val ≤ dec → d.st = 0 ∧ d.val = 0 ∧ (d.under = true ↔ c.under = true ∨ c.val < dec))) ∧
    (c.barrier = true → others →
      let met := c.val ≤ c.arr + arr ∧ min exp cap ≤ min got cap
      d.val = c.val ∧ (d.mis = true ↔ c.mis = true ∨ decs ∨ c.val < c.arr + arr ∨ cap ≤ exp ∨ cap ≤ got) ∧
      (¬ met → d.ph = c.ph ∧ d.arr = min (c.arr + arr) c.val ∧ d.expb = min exp cap ∧ d.gotb = min got cap ∧ d.st = 2) ∧
      (met → d.ph = !c.ph ∧ d.arr = 0 ∧ d.expb = 0 ∧ d.gotb = min got cap - min exp cap ∧
        d.st = if min exp cap < min got cap then 2 else 1)) ∧
    (c.barrier = true → ¬ others → d = { c with mis := d.mis } ∧ (d.mis = true ↔ c.mis = true ∨ decs))) ∧
  -- of several depsets: the cell's own cluster first, by core and C0 before C1, the other clusters after it, in their order (R296)
  (∀ (clu : Nat) (before after : List Signal) (x : Signal) (b : Bool) (v : Nat) (c : Cell), x.kind = .depset b v →
    let isDep := fun (y : Signal) => match y.kind with | .depset _ _ => true | _ => false
    let rank := fun (y : Signal) => if y.src = clu then 0 else y.src + 1
    let under := fun (y z : Signal) => rank y < rank z ∨ (rank y = rank z ∧ (y.core < z.core ∨ (y.core = z.core ∧ y.eng < z.eng)))
    (∀ y ∈ before, isDep y = true → ¬ under x y) → (∀ y ∈ after, isDep y = true → under y x) →
    c.take clu (before ++ x :: after) =
      ({ barrier := b, st := if b = false ∧ v = 0 then 0 else 1, val := v, ph := false, mis := false, under := false, arr := 0,
         expb := 0, gotb := 0 } : Cell).take clu ((before ++ x :: after).filter (fun y => !isDep y))) ∧
  (∀ (clu : Nat) (x : Signal) (b : Bool) (v : Nat) (c : Cell), x.kind = .depset b v →
    c.take clu [x] = { barrier := b, st := if b = false ∧ v = 0 then 0 else 1, val := v, ph := false, mis := false, under := false, arr := 0,
                       expb := 0, gotb := 0 })

/-! ### Queues, dispatchers, tasks -/

/-- The order of the choice (R261): the highest level that holds a ready card; the current bin while it holds one and has run fewer than
64; in a bin the earliest ready order, ties to the lowest TASK. The dispatchers (R258, R260, R261, R271, R273), the start of a task (R40,
R98, R99), dispensers (R264), the end of a save (R93, R103), and retirement (R273, R274, R285). What a retired task leaves on the calendar
is the model's reading (log 18), and so are what a save keeps (log 14) and the layout of its area (log 16). -/
def Obligations.TaskDispatchAndTurns : Prop :=
  (∀ (clu tenant : Nat) (s : State) (t : Task) (l : List Task), s.cardOrder clu tenant = t :: l →
     let ready := fun (x : Task) => x ∈ s.tasks ∧ x.state = .ready ∧ (s.ctx x.cid).tenant = tenant ∧ (s.ctx x.cid).group.pclu x.clu = clu ∧
       s.mayRun x = true ∧ ¬ (s.reduced = true ∧ x.timed = true)
     let b := s.binOf clu tenant t.prio
     ready t ∧ ∀ x, ready x → x.prio ≤ 31 → x.prio ≤ t.prio ∧
       (x.prio = t.prio → x.bin = t.bin → t.readyAt < x.readyAt ∨ (t.readyAt = x.readyAt ∧ t.id ≤ x.id)) ∧
       (x.prio = t.prio → x.bin = b.1 → b.2 < 64 → t.bin = b.1) ∧
       (b.1 < 16 → x.prio = t.prio → (b.2 < 64 → ∀ y, ready y → y.prio = t.prio → y.bin ≠ b.1) →
         (t.bin + 15 - b.1) % 16 ≤ (x.bin + 15 - b.1) % 16)) ∧
  ((∀ (cid task : Nat) (s : State), exec (.depidRead cid task) s =
     .next ((s.tasks.filter (fun x => x.named cid task && x.state = .posted && !x.depRead)).foldl State.depRead s)) ∧
   (∀ (s : State) (t : Task) (segs : List Nat), t ∈ s.tasks → t.state = .posted → t.launch = false →
     let cid := t.cid
     (s.ctx cid).acquire none none true [⟨t.tcbSeg, t.tcbOff, 256⟩] = .ok segs →
     ((s.ctx cid).seg (nameIdx t.tcbSeg)).tilesOk t.tcbOff 256 false = true →
     (s.depRead t).mem = s.mem ∧ ∃ y ∈ (s.depRead t).tasks, y.cid = cid ∧ y.key = t.key ∧ y.depRead = true ∧
       y.depCell = some (natLE (s.segRead cid (nameIdx t.tcbSeg) t.tcbOff 256) / 2 ^ 64 % 2 ^ 12)) ∧
   (∀ (s s1 : State) (t : Task), s.readTcb t = .wait s1 → s.depRead t = s1) ∧
   (∀ (tenant q cid : Nat) (s : State) (w : BitVec 512) (rest : List (BitVec 512 × Nat)),
     let first := (alook s.pqnext tenant).getD 0
     let k := decodeCard w
     let x := s.ctx cid
     first < 16 → q < 16 → (∀ i, i < (q + 16 - first) % 16 → s.headMoves tenant ((first + i) % 16) = none) →
     s.pqueue tenant q = (w, cid) :: rest → x.kgroup = true → x.serves = true → x.tenant = tenant →
     s.levelFull tenant (x.group.pclu k.tclu) (min k.prio x.pcap) = false →
     Turns (.packageForward tenant) s (fun u => u.pqueue tenant q = rest ∧ (alook u.pqnext tenant).getD 0 = (q + 1) % 16 ∧
       (x.group.hasClu k.tclu = true → x.cardRefused k.tclu k = false →
         ∃ y ∈ u.tasks, y.cid = cid ∧ y.id = k.task ∧ y.state = .posted ∧ y.clu = k.tclu ∧ y.prio = min k.prio x.pcap ∧ y.timed = k.timed ∧
           y.tcbSeg = k.tcbSeg ∧ y.tcbOff = k.tcbOff ∧ y.release = k.release))) ∧
   (∀ (clu tenant : Nat) (s s1 : State) (t : Task) (l : List Task) (k : Nat) (b : Tcb),
     clu < 64 → s.cluServes clu = true → s.cardOrder clu tenant = t :: l → t.resume = false → s.readTcb t = .ok s1 b 0 →
     (t.timed = false → s.coreFor t = some k →
       exec (.dispatch clu tenant) s = .next ((s1.binTake clu tenant t).runTask k { t with tcb := b })) ∧
     (t.timed = true → s.pendingIn clu < 64 →
       exec (.dispatch clu tenant) s = .next ((s1.binTake clu tenant t).toPending t b))) ∧
   (∀ (s : State) (t : Task),
     let c := s.core
     let u := s.startTask s.cur t
     let x := s.ctx t.cid
     u.core.run = .running ∧ u.core.pc = t.tcb.entry ∧ u.core.markNext = true ∧ u.core.ended = false ∧
     (∀ d second now, (u.core.input d second).head now = zeroVal d ∧ (u.core.input d second).q = []) ∧ (∀ d, u.core.rtOf d = 0) ∧
     u.core.mks = [] ∧ u.core.dix = [] ∧ u.core.spx = 0 ∧ (∀ i, (u.core.level i).arm = false) ∧ (∀ i, u.core.ntReg i = BitVec.allOnes 64) ∧
     u.core.ntp = 0 ∧ (x.image = none → u.core.rings = []) ∧
     (∀ cid, cid ∈ u.core.seen ↔ cid ∈ c.seen ∨ cid = t.cid) ∧
     (t.launch = true → ∀ i, i < x.kparams.length → u.core.sreg (i + 1) = x.kparams.getD i 0) ∧
     (t.launch = false → t.cid ∉ c.seen → (∀ i, u.core.sreg i = if i < x.regs then 0 else c.sreg i) ∧
       (∀ i, i < 320 → u.core.vreg i = (if i < x.rega then zeroVec else c.vreg i) ∧
         u.core.vreg (320 + i) = (if i < x.regb then zeroVec else c.vreg (320 + i))) ∧ u.core.mregs = [] ∧ u.core.guards = 1 ∧ u.core.masks = [] ∧
       u.core.words = [] ∧ u.core.lines = [] ∧ u.core.fst = 0 ∧ u.core.fmt = fmtReset ∧ u.core.dfile0 = [] ∧ u.core.dfile1 = [] ∧
       ∀ j, j < 4 → u.core.stream j = seedStream x.seed (x.group.linOfPhys s.cur) j) ∧
     (t.launch = false → t.cid ∈ c.seen → c.owner = some t.cid → u.core.sregs = c.sregs ∧ u.core.vregs = c.vregs ∧ u.core.mregs = c.mregs ∧
       u.core.guards = c.guards ∧ u.core.masks = c.masks ∧ u.core.words = c.words ∧ u.core.lines = c.lines ∧ u.core.fst = c.fst ∧
       u.core.fmt = c.fmt ∧ u.core.gen = c.gen)) ∧
   (∀ (cid disp : Nat) (s : State) (n : Nat × Nat × Option W64 × Nat) (i count width : Nat) (c : Ctx),
     s.cid = cid → alook s.ctxs cid = some c → s.core.nxts.find? (fun n => n.1 = disp && n.2.2.1.isNone) = some n →
     c.disp.find? (fun d => d.1 = disp) = some (disp, i, count, width) →
     Turns (.dispenserServe cid disp) s (fun u =>
       (∃ y ∈ u.core.nxts, y.1 = disp ∧ y.2.1 = n.2.1 ∧ y.2.2.2 = n.2.2.2 ∧ y.2.2.1 = some (if i < count then
         BitVec.ofNat 64 (i / width * 2 ^ 32 + i % width) else BitVec.allOnes 64)) ∧
       (u.ctx cid).disp.find? (fun d => d.1 = disp) = some (disp, (if i < count then i + 1 else i), count, width) ∧ u.mem = s.mem)) ∧
   (∀ (s s1 : State) (lsl spb : Nat) (x : Task), s.core.run = .saving → s.core.mat.queue = [] → s.core.mat.routine = none →
     s.core.safe = some (lsl, spb) → s.core.inflight = [] → s.core.xfers = [] → s.core.maskq = [] → s.core.permq = [] →
     s.taskOn s.cur s.cid s.core.task.key = some x →
     let l := match s.me.image with
       | some i => (alook i.lists lsl).getD []
       | none => []
     let c := (s.core.only s.cid s.core.task.key).filtered l
     let bs := c.saveBytes l
     State.touchAll s.cid none s.me.savet true (pagesOf [(64 * spb, bs.length)]) s = (s1, none) →
     Turns .saveComplete s (fun u => u.core.run = .idle ∧ u.mem = (State.tensorPut s.me.savet s1 (64 * spb) bs).mem ∧
       ∃ y ∈ u.tasks, y.id = x.id ∧ y.cid = x.cid ∧ y.state = .suspended ∧ y.core = none ∧ y.snap = some c ∧
         y.saveAt = some (s.me.savet, 64 * spb, lsl) ∧ y.book = [])) ∧
   -- a task whose work is not over keeps none of its TASK from retiring (R273)
   (∀ (cid task : Nat) (s : State) (t : Task), s.tasks.find? (fun t => t.named cid task && t.state = .retiring && s.mayRetire t) = some t →
     t.core = some s.cur → t.pinned = false → (∀ u, ∀ x ∈ (s.core.eng u).cmds, ¬ (x.cid = cid ∧ x.task = t.key)) →
     s.core.task.cid = cid → s.core.task.key = t.key →
     Turns (.taskRetire cid task) s (fun u =>
       u.tasks = s.tasks.eraseP (fun x => x.cid = cid && x.key = t.key && x.state = .retiring && x.clu = t.clu) ∧
       u.lateBooks = s.lateBooks ++ (t.book.filter (fun b => decide (b.lo ≤ s.qc) && decide (s.qc ≤ b.hi))).map (fun b =>
         ((s.ctx cid).tenant, if b.ramp then b else { b with hi := s.qc })) ∧
       u.signals = s.signals ++ s.core.jsigs.map (fun (x : Signal) => { x with at_ := s.core.issued, sent := s.turns }) ++
         t.tcb.succ.map (fun x => { cid := cid, clu := x.2, n := x.1, kind := .dec 1, src := t.clu, core := 256, sent := s.turns }) ∧
       u.mem = (s.core.journal.foldl (State.commitByte cid) s).mem ∧ (s.core.run = .retiring → u.core.run = .idle))))

/-! ### The calendar -/

/-- Quanta and frames (R231, R279, R287, R288, R339, R355 to R358): the clock, the samples, the beacons, the partition frame counter with
its slips, the throttle's demands, the step and its cause, and the move from BRINGUP to SERVICE. The count of frames for 10 ms and 1 s is
the model's reading (log 19). -/
def Obligations.Clocks : Prop :=
  (∀ s : State, (s.qc + 1) % 64 ≠ 0 →
    Turns .quantumBoundary s (fun t => t.qc = s.qc + 1 ∧ t.frame = s.frame ∧ t.parts = s.parts ∧ t.throttle = s.throttle ∧
      ((∀ x ∈ s.tasks, x.state ≠ .pending) → t.tasks = s.tasks ∧ t.mem = s.mem ∧
        t.lateBooks = s.lateBooks.filter (fun b => decide (s.qc + 1 ≤ b.2.hi))))) ∧
  (∀ (s : State) (fin : FrameIn), (s.qc + 1) % 64 = 0 →
    Turns (.frameBoundary fin) s (fun t => t.qc = s.qc + 1 ∧ t.frame = (s.frame + 1) % 2 ^ 64 ∧ t.ppwr = fin.ppwr ∧
      t.throttle = s.throttle.boundary fin.ppwr t.tmax ∧ (∀ m ∈ fin.mons.getLast?, m.1 < 64 → t.mon m.1 = m.2) ∧
      (∀ k, (∀ m ∈ fin.mons, m.1 ≠ k) → t.mon k = ⟨0, 0, 0, 0⟩) ∧
      (∀ k, k < 64 → (t.mon k).temp.toInt ≤ t.tmax) ∧ (∃ k, k < 64 ∧ (t.mon k).temp.toInt = t.tmax) ∧
      (∀ l k, s.ctxs = [] → s.links = [(l, k)] → k.state = 2 → k.waiting = [] → k.txSeq = k.ackSeq →
        ∃ x, t.sent = s.sent ++ [(l, x)] ∧ x.pkt.rw = s.routing { dest := k.peer, tenant := 63, ctx := 0, cls := 3, kind := 6, len := 0 }) ∧
      -- leases that are over end
      (∀ cid c n x, s.ctxs = [(cid, c)] → c.permits = [(n, x)] → x.state = 2 → s.tasks = [] →
        ((s.frame + 1) % 2 ^ 64 < x.expiry → t.permit cid n = x) ∧
        (x.expiry ≤ (s.frame + 1) % 2 ^ 64 → t.permit cid n = { x with state := 4, credit := 0 })) ∧
      (s.pstate = .bringup → t.parts = s.parts) ∧
      (s.pstate ≠ .bringup → s.tasks = [] → t.parts = s.parts.map (fun p => p.boundary none)) ∧
      (let ovr := s.pstate = .bringup ∧ (∀ c, c < 64 → 2 ≤ (alook s.cstate c).getD 0) ∧ (∀ k, k < 8 → (alook s.hbm k).getD 0 % 4 ≠ 0)
       (ovr → t.pstate = .service) ∧ (¬ ovr → t.pstate = s.pstate)))) ∧
  (∀ (s : State) (p : Partition),
    let holds := fun (t : Task) => (s.ctx t.cid).tenant = p.tenant ∧ (s.ctx t.cid).kstate = .launched ∧
      ((s.ctx t.cid).state = .runnable ∨ (s.ctx t.cid).state = .running) ∧ t.timed = true ∧ t.release ≤ p.f ∧
      (t.state = .posted ∨ t.state = .ready ∨ t.state = .pending ∨ (t.state = .faulted ∧ t.susp ≠ 0) ∨ t.state = .suspended)
    (s.heldTask p = none ↔ ∀ t ∈ s.tasks, ¬ holds t) ∧
    (∀ t, s.heldTask p = some t → t ∈ s.tasks ∧ holds t ∧
      ∀ x ∈ s.tasks, holds x → t.clu < x.clu ∨ (t.clu = x.clu ∧ t.id ≤ x.id))) ∧
  (∀ (p : Partition) (t : Task) (r : SlipRec),
    (p.slip = none → p.boundary none = { p with f := (p.f + 1) % 2 ^ 64 }) ∧
    (p.slip = none → p.boundary (some t) = { p with slip := some { frame := p.f, task := t.id, cause := t.slipCause, clu := t.clu, dur := 1 } }) ∧
    (p.slip = some r → p.boundary (some t) = { p with slip := some { r with dur := min (r.dur + 1) (2 ^ 32 - 1) } }) ∧
    (p.slip = some r → let u := p.boundary none
      u.slip = none ∧ u.f = (p.f + 1) % 2 ^ 64 ∧ u.slipCnt = (p.slipCnt + 1) % 2 ^ 64 ∧ alook u.log (p.slipCnt % 256) = some r)) ∧
  (∀ t : Task, t.slipCause = (match t.state with
    | .posted => 1
    | .ready => 2
    | .pending => if t.dropped then 3 else 2
    | .faulted => t.susp
    | .suspended => 6
    | _ => 0)) ∧
  (∀ (h : Throttle) (ppwr : Nat) (tmax : Int),
    let u := h.boundary ppwr tmax
    let within := h.hist.filter (fun f => decide (h.count < f + 1269531)) ++ (if 2000 < ppwr then [h.count] else [])
    u.hist = within ∧ u.count = h.count + 1 ∧
    (h.cap < ppwr → u.demP = min (h.demP + 1) 7) ∧
    (ppwr ≤ h.cap → ppwr * 100 ≤ h.cap * 95 → u.demP = if h.lowP + 1 = 8 then h.demP - 1 else h.demP) ∧
    (ppwr ≤ h.cap → h.cap * 95 < ppwr * 100 → u.demP = h.demP ∧ u.lowP = 0) ∧
    (95 * 8 ≤ tmax → u.demT = min (h.demT + 1) 7) ∧
    (tmax < 90 * 8 → u.demT = if h.lowT + 1 = 8 then h.demT - 1 else h.demT) ∧
    (90 * 8 ≤ tmax → tmax < 95 * 8 → u.demT = h.demT ∧ u.lowT = 0) ∧
    (2400 < ppwr ∨ (2000 < ppwr ∧ 12696 ≤ within.length) → u.demC = 4) ∧
    (ppwr ≤ 2000 → u.demC = if 1024 ≤ h.lowC + 1 then 0 else h.demC) ∧
    u.step = max (max u.demP u.demT) (max u.demC h.floor) ∧
    (u.step = 0 → u.cause = 0) ∧ (u.step ≠ 0 → u.demP = u.step → u.cause = 1) ∧
    (u.step ≠ 0 → u.demP ≠ u.step → u.demT = u.step → u.cause = 2) ∧
    (u.step ≠ 0 → u.demP ≠ u.step → u.demT ≠ u.step → u.demC = u.step → u.cause = 3) ∧
    (u.step ≠ 0 → u.demP ≠ u.step → u.demT ≠ u.step → u.demC ≠ u.step → u.cause = 4) ∧
    u.frames = (if u.step = h.step then min (h.frames + 1) (2 ^ 32 - 1) else 0))

/-- Placement (R283), compaction (R284), the start of a booked task (R283, R285) and the end of its window (R232). What a stopped
context's booked start becomes is the model's reading (log 18). -/
def Obligations.CalendarTurns : Prop :=
  (∀ (s : State) (t : Task), s.tasks.find? t.same = some t → t.state = .pending → s.placeReject t = 0 →
    let x := s.ctx t.cid
    let k := s.throttle.step
    let w := t.window k
    let cores := s.calCores t
    let fit := fun (q c : Nat) => fits s.bookings (t.bookingsAt k x.cq c q) = true
    let inside := fun (q : Nat) => s.qc + 1 + x.cq ≤ q ∧ q ≤ s.qc + 4096 - w - 8
    let u := s.tryPlace t
    ((∀ q, inside q → ∀ c ∈ cores, ¬ fit q c) → u.mem = s.mem ∧ ∀ y, y ∈ u.tasks → y.state = .booked → y ∈ s.tasks) ∧
    (∀ q i, inside q → (hi : i < cores.length) → fit q cores[i] → (∀ j, (hj : j < i) → ¬ fit q (cores[j]'(Nat.lt_trans hj hi))) →
      (∀ q', inside q' → q' < q → ∀ c ∈ cores, ¬ fit q' c) → t.tsub = none →
      (∀ p ∈ t.pinIdx, (x.seg p).state = .resident) →
      (∃ y ∈ u.tasks, y.cid = t.cid ∧ y.id = t.id ∧ y.state = .booked ∧ y.q = q ∧ y.w = w ∧ y.core = some cores[i] ∧
        y.book = t.bookingsAt k x.cq cores[i] q ∧ y.pinned = true) ∧
      (t.pinned = false → (alook s.ctxs t.cid).isSome = true → ∀ p ∈ t.pinIdx,
        ((u.ctx t.cid).seg p).pin = (x.seg p).pin + 1 ∧ ((u.ctx t.cid).seg p).age = s.frameCtx t.cid))) ∧
  (∀ (s : State) (t : Task), s.tasks.find? t.same = some t →
    let cq := (s.ctx t.cid).cq
    let others := (s.tasks.filter (fun x => !t.same x)).flatMap (·.book) ++ s.lateBooks.map (·.2)
    let at_ := fun (q : Nat) => t.book.map (fun (b : Booking) => { b with lo := b.lo + q - t.q, hi := b.hi + q - t.q })
    let early := fun (q : Nat) => s.qc + 1 + cq ≤ q ∧ q < t.q
    ((∀ q, early q → fits others (at_ q) = false) → s.compactTask t = s) ∧
    (∀ q, early q → fits others (at_ q) = true → (∀ q', early q' → q' < q → fits others (at_ q') = false) →
      { t with q := q, book := at_ q } ∈ (s.compactTask t).tasks)) ∧
  (∀ (cid task : Nat) (s : State) (t : Task), s.tasks.find? (fun t => t.named cid task && t.state = .booked) = some t →
    let c := s.ctx cid
    (t.q ≤ s.qc + c.cq → s.mayRun t = true → Turns (.timedClearStart cid task) s (fun u => ∃ y ∈ u.tasks, y = { t with state := .starting })) ∧
    (t.q ≤ s.qc + c.cq → s.mayRun t = false → Turns (.timedClearStart cid task) s
      (fun u => ∃ y ∈ u.tasks, y = { t with state := .pending, book := [] })) ∧
    (s.qc + c.cq < t.q → exec (.timedClearStart cid task) s = .next s)) ∧
  (∀ (cid task k : Nat) (s : State) (t : Task), s.tasks.find? (fun t => t.named cid task && t.state = .starting) = some t → t.core = some k →
    let c := s.getCore k
    (t.q ≤ s.qc → s.mayRun t = true → (c.run = .idle ∨ (c.run = .retiring ∧ c.task.cid = cid)) → s.heldByOther k cid = false →
      exec (.timedTaskStart cid task) s = .next (s.runTask k t)) ∧
    (t.q ≤ s.qc → s.mayRun t = false → Turns (.timedTaskStart cid task) s (fun u => ∃ y ∈ u.tasks, y = { t with state := .pending, book := [] })) ∧
    (s.qc < t.q → exec (.timedTaskStart cid task) s = .next s)) ∧
  (∀ s : State, s.core.mat.routine = none → s.core.run = .running → s.core.task.timed = true → s.core.task.q + s.core.task.w ≤ s.qc →
    exec .windowEnd s = .next (s.takeFault { cause := .overrun, unit := 13 })) ∧
  (∀ (s : State) (r : Routine) (t : Task), s.core.mat.routine = some r → r.faulted = false →
    s.taskOn s.cur r.call.cid r.call.task = some t → t.timed = true → t.q + t.w ≤ s.qc →
    exec .windowEnd s = .next (s.routineFault r { cause := .overrun }))

/-! ### The Hazel unit -/

/-- The ends of pushes, moves and recalls, the retries, soft errors, the descriptor cache and the reload of an overlay region (R114, R115,
R117, R118, R266), for a context with no fault record that waits. That hazelWaitRetry's move is a turn of its own, and that a compaction
counts as room, are the model's readings (log 27). That a retry may come at any turn is the model's reading (log 17). -/
def Obligations.SegmentTurns : Prop :=
  ∀ (cid i : Nat) (s : State) (c : Ctx), alook s.ctxs cid = some c → c.frwait = [] →
    let g := c.seg i
    let a := s.segAddr cid i 0
    let decs := fun (l : List (Nat × Nat)) => (l.filter (fun x => decide (x.2 < 4096))).map
      (fun x => ({ cid := cid, clu := x.1, n := x.2, kind := .dec 1, src := g.home, core := 256, sent := s.turns } : Signal))
    let counted := g.freep = true ∧ g.pin = 0 ∧ g.inb = 0
    -- a push
    (∀ tid t, g.state = .pushing → s.backing cid = some (tid, t) → ¬ counted →
      Turns (.pushComplete cid i) s (fun u =>
        (g.rq = false → (u.seg cid i).state = .away ∧ (u.seg cid i).placed = false) ∧
        (g.rq = true → (u.seg cid i).state = .recalling ∧ (u.seg cid i).rq = false) ∧
        (u.seg cid i).size = g.size ∧ (u.seg cid i).gen = g.gen ∧ u.signals = s.signals ++ decs g.pushSig ∧
        (g.discard = false → u.mem = (State.toTensor tid s a (g.bkoff * 64) (g.size * 64)).mem) ∧ (g.discard = true → u.mem = s.mem))) ∧
    (g.state = .pushing → counted → Turns (.pushComplete cid i) s (fun u => (u.seg cid i).state = .free ∧ (u.seg cid i).gen = g.gen)) ∧
    (g.state ≠ .pushing → Turns (.pushComplete cid i) s (fun u => u.mem = s.mem ∧ u.seg cid i = g)) ∧
    -- a move of the compaction
    (g.state = .moving → g.poisonNext = false → ¬ counted →
      Turns (.segmentMoveComplete cid i) s (fun u => (u.seg cid i).base = g.newBase ∧ (u.seg cid i).size = g.size ∧
        u.mem = s.mem.copy a (storeAddr (c.group.pclu g.home) + g.newBase * 64) (g.size * 64) ∧ u.signals = s.signals ++ decs g.recSig)) ∧
    (g.state = .moving → g.poisonNext = true → ¬ counted → Turns (.segmentMoveComplete cid i) s (fun u => (u.seg cid i).state = .poisoned)) ∧
    -- a recall
    (g.state = .recalling → g.placed = true → ¬ counted →
      let done := fun (u : State) => (u.seg cid i).state = .resident ∧ (u.seg cid i).rframe = s.frameCtx cid ∧ (u.seg cid i).zero = false ∧
        (u.seg cid i).base = g.base ∧ u.signals = s.signals ++ decs g.recSig ∧
        (g.discard = true → 0 < g.size → ∀ t, ((u.seg cid i).tile t).st = .ready) ∧ (g.discard = false → (u.seg cid i).tiles = g.tiles)
      (g.zero = true → ∀ bad, Turns (.recallComplete cid i bad) s (fun u => done u ∧ u.mem = s.mem.clear a (g.size * 64))) ∧
      (∀ tid t, g.zero = false → s.backing cid = some (tid, t) →
        Turns (.recallComplete cid i none) s (fun u => done u ∧ u.mem = (State.fromTensor tid s a (g.bkoff * 64) (g.size * 64)).mem) ∧
        ∀ n, Turns (.recallComplete cid i (some n)) s (fun u => (u.seg cid i).state = .poisoned ∧ (u.seg cid i).poison = n ∧
          (0 < g.size → ∀ t, ((u.seg cid i).tile t).st = .ready)))) ∧
    -- a placement that waits
    (s.waitq = [(cid, i)] → g.state = .recalling → g.placed = false → s.compacting c.tenant (c.group.pclu g.home) = false →
      (∀ b, s.room cid g.home g.size (some i) = some b →
        Turns (.hazelWaitRetry cid) s (fun u => (u.seg cid i).placed = true ∧ (u.seg cid i).base = b ∧ u.waitq = [])) ∧
      (∀ r m, s.room cid g.home g.size (some i) = none → s.makeRoom cid g.home g.size (some i) = some r →
        s.nextMove c.tenant (c.group.pclu g.home) = some m →
        Turns (.hazelWaitRetry cid) s (fun u => (u.seg m.1 m.2.1).state = .moving ∧ (u.seg m.1 m.2.1).newBase = m.2.2 ∧ u.waitq = [(cid, i)])) ∧
      (∀ v, s.makeRoom cid g.home g.size (some i) = none → (∀ x ∈ c.segs, x.2.home = g.home → x.2.state ≠ .pushing) → s.victim cid g.home = some v →
        Turns (.hazelWaitRetry cid) s (fun u => (u.seg cid v).state = .pushing ∧ u.waitq = [(cid, i)]))) ∧
    (∀ home v, s.victim cid home = some v → (c.segs.map (·.1)).Pairwise (· < ·) →
      let el := fun (x : Nat × Seg) => x ∈ c.segs ∧ x.2.home = home ∧ x.2.state = .resident ∧ x.2.pin = 0 ∧ x.2.inb = 0 ∧
        x.2.rframe + 4 ≤ s.frameCtx cid
      ∃ y, el (v, y) ∧ ∀ x, el x → y.age < x.2.age ∨ (y.age = x.2.age ∧ v ≤ x.1)) ∧
    -- an uncorrectable soft error
    (∀ n, n < g.size →
      (g.state = .resident → Turns (.softError cid i n) s (fun u => (u.seg cid i).state = .poisoned ∧ (u.seg cid i).poison = n ∧ u.mem = s.mem)) ∧
      (g.state = .moving → Turns (.softError cid i n) s (fun u => (u.seg cid i).state = .moving ∧ (u.seg cid i).poisonNext = true ∧
        (u.seg cid i).poison = if g.poisonNext then g.poison else n)) ∧
      (g.state ≠ .resident → g.state ≠ .moving → exec (.softError cid i n) s = .next s)) ∧
    -- what a core's caches wait for
    (s.cid = cid → i ∈ s.core.fill → Turns (.descriptorCacheFill i) s (fun u => i ∉ u.core.fill ∧ u.core.dcache.length ≤ 64 ∧
      u.core.dcache.head? = some { cid := cid, idx := i, st := g.state, base := g.base, gen := g.gen })) ∧
    (∀ m, s.cid = cid → c.image = some m → i ∈ s.core.reload → 512 * i < imgLen m → (m.bundles.map (·.1)).Nodup →
      Turns (.overlayRegionReload i) s (fun u => i ∉ u.core.reload ∧ alook u.core.tags i = some c.imgid ∧
        (∀ b ∈ m.bundles, b.1 / 512 = i → u.core.bundle b.1 = b.2) ∧ ∀ n, n / 512 ≠ i → u.core.bundle n = s.core.bundle n))

/-! ### Pages and tensor descriptors -/

/-- The ends of evictions and fetches, the pool's placement and its victim (R135, R143 to R145), and a split that is over (R139): that its
request is kept till then (log 26) and what its response holds (log 15) are the model's. The page and pool commands of the management
window (R132, R134, R138 to R143), given by the fabric owner: DONE with their effect, BUSY, REFUSED, DEFERRED and POOL_FULL. Which free
frame is taken is left open (log 5); where the entries outside the HBM tier stand is the model's reading (log 10). -/
def Obligations.PagesAndPageCommands : Prop :=
  ((∀ (tid page : Nat) (s : State),
     let p := s.page tid page
     let evicting := p.psn = false ∧ p.p = false ∧ p.mov = true ∧ p.lp = false
     let fetching := p.psn = false ∧ p.p = false ∧ p.mov = true ∧ p.lp = true
     let moved := fun (from_ to_ : Nat) => { s with mem := s.mem.copy from_ to_ 65536 }
     let good := (tid, page) ∉ s.badPages
     (∀ f, f < Config.lpFrames → evicting → good → p.target = some f → p.fetchq = false → p.forPage = none →
       Turns (.evictionComplete tid page) s (fun t => (t.page tid page).stateNum = 3 ∧ (t.page tid page).pfn = f ∧
         s.MemBut (moved (frameAddr false p.pfn) (frameAddr true f)) t ∧ sget false t.dirtyL.1 f = true)) ∧
     (∀ f, evicting → ¬ good → p.target = some f →
       Turns (.evictionComplete tid page) s (fun t => (p.forPage = none → (t.page tid page).stateNum = 5) ∧ s.MemBut s t)) ∧
     (∀ f x y, f < Config.lpFrames → evicting → good → p.target = some f → p.fetchq = false → p.forPage = some (x, y) → s.Apart tid page x y →
       let w := s.page x y
       w.psn = false → w.p = false → w.mov = true → w.lp = true → w.target = none →
       p.pfn ∉ (((moved (frameAddr false p.pfn) (frameAddr true f)).dirty true f).onPage tid page (fun p =>
         { p with lp := true, mov := false, pfn := f, target := none, forPage := none, fetchq := false, age := s.epoch })).framesUsed false →
       Turns (.evictionComplete tid page) s (fun t => (t.page tid page).stateNum = 3 ∧ (t.page x y).target = some p.pfn)) ∧
     (∀ f, f < s.hbmFrames → fetching → p.target = some f → (∀ d, s.tensor tid = some d → d.tableIn f = false) →
       (good → Turns (.fetchComplete tid page true) s (fun t => (t.page tid page).stateNum = 1 ∧ (t.page tid page).pfn = f ∧ (t.page tid page).lp = false ∧
         s.MemBut (moved (frameAddr true p.pfn) (frameAddr false f)) t ∧ sget false t.dirtyH.1 f = true)) ∧
       (¬ good → Turns (.fetchComplete tid page true) s (fun t => (t.page tid page).stateNum = 5 ∧ s.MemBut s t)) ∧
       Turns (.fetchComplete tid page false) s (fun t => (t.page tid page).stateNum = 5 ∧ s.MemBut s t)) ∧
     (fetching → p.waitPool = true → p.target = none → exec (.poolRetry tid page) s = .next (s.place tid page).1) ∧
     (∀ d, s.tensor tid = some d → (s.entryAt d page).isSome = true →
       let key := (tid, page)
       let direct := s.poolUse d.tenant key + 4 ≤ s.floorOf d.tenant ∨ 4 ≤ s.sharedFree key
       let r := s.place tid page
       (∀ f, direct → s.freeFrame false = some f → r.2 = true ∧ (r.1.page tid page).target = some f ∧ (r.1.page tid page).waitPool = false) ∧
       (∀ v f, ¬ direct → s.poolVictim key = some v → s.freeFrame true = some f → s.Apart v.1 v.2 tid page → r.2 = true ∧
         (r.1.page v.1 v.2).p = false ∧ (r.1.page v.1 v.2).mov = true ∧ (r.1.page v.1 v.2).forPage = some (tid, page)) ∧
       (¬ direct → s.poolVictim key = none → r.2 = false ∧ (r.1.page tid page).waitPool = true ∧ (r.1.page tid page).target = none))) ∧
   (∀ (s : State) (lp : Bool) (f : Nat), s.freeFrame lp = some f → f ∉ s.framesUsed lp ∧
     (lp = false → ∀ t ∈ s.tensors, t.2.tableIn f = false)) ∧
   (∀ (s : State) (skip v : Nat × Nat), s.poolVictim skip = some v →
     let may := fun (x : Nat × Nat × Page) => x ∈ s.pages ∧ ∃ d, s.tensor x.1 = some d ∧ d.tpol = 0 ∧ x.2.2.p = true ∧ x.2.2.lp = false ∧
       x.2.2.psn = false ∧ x.2.2.mov = false ∧ x.2.2.pinc = 0 ∧ s.floorOf d.tenant < s.poolUse d.tenant skip
     ∃ y, may (v.1, v.2, y) ∧ ∀ x, may x → (s.epoch + 2 ^ 23 - x.2.2.age) % 2 ^ 23 ≤ (s.epoch + 2 ^ 23 - y.age) % 2 ^ 23) ∧
   (∀ (tid n : Nat) (s : State), (tid, n) ∈ s.splits →
     Turns (.tsplitDone tid n) s (fun t => t.status = some .done ∧ (tid, n) ∉ t.splits ∧ t.mem = s.mem ∧ t.pages = s.pages ∧
       (∀ e ∈ t.core.eng0.tcache ++ t.core.eng1.tcache, ¬ (e.tid = tid ∧ e.large = true ∧ e.page / 32 = n)) ∧
       (∀ d, ∀ e ∈ t.dcache d, ¬ (e.tid = tid ∧ e.large = true ∧ e.page / 32 = n)) ∧
       ∀ q, s.splitIn.find? (fun x => x.1 = (tid, n)) = some ((tid, n), q) → s.SendsOut t (fun p => p.info = [0] ∧
         p.rw = s.routing { dest := q.srce, tenant := q.net, ctx := 0, cls := 3, kind := 5, len := 0, opid := q.opid })))) ∧
  (∀ s : State, s.serving = true → s.mgmtIn = [] →
     (∀ (tid page : Nat) (e : W64) (guest : Option Nat) (d : Tensor), s.tensor tid = some d →
       let foreign := ∃ g, guest = some g ∧ g ≠ d.tenant
       let deferred := ∃ g, guest = some g ∧ g ∈ s.virt
       let p := s.page tid page
       let n : Page := { p with p := bit e 0, w := bit e 1, lg := bit e 2, psn := bit e 3, lp := bit e 4, pfn := e.toNat / 2 ^ 16 % 2 ^ 25 }
       let moves := n.p ≠ p.p ∨ n.pfn ≠ p.pfn ∨ n.lp ≠ p.lp
       let out := s.entryAt d page = none ∨ (n.lp = true ∧ Config.lpFrames ≤ n.pfn) ∨ (n.lp = false ∧ s.hbmFrames ≤ n.pfn) ∨ s.badLarge tid page n = true
       let busy := p.mov = true ∨ (moves ∧ ((tid, page / 32) ∈ s.splits ∨ p.pinc ≠ 0))
       (foreign → exec (.ttw tid page e guest) s = .next { s with status := some .refused }) ∧
       (¬ foreign → deferred → Turns (.ttw tid page e guest) s (fun t => t.status = some .deferred ∧ t.pages = s.pages ∧
         t.notices = s.notices ++ [.entry tid page e])) ∧
       (¬ foreign → ¬ deferred →
         (out → Turns (.ttw tid page e guest) s (fun t => t.status = some .refused ∧ t.pages = s.pages)) ∧
         (¬ out → busy → Turns (.ttw tid page e guest) s (fun t => t.status = some .busy ∧ t.pages = s.pages)) ∧
         (¬ out → ¬ busy → Turns (.ttw tid page e guest) s (fun t => t.status = some .done ∧ t.page tid page = n ∧ s.MemBut s t ∧
           (∀ x y, s.Apart tid page x y → t.page x y = s.page x y) ∧
           (moves → ∀ c ∈ t.core.eng0.tcache ++ t.core.eng1.tcache, c.covers tid page = false))))) ∧
     (∀ (tid n : Nat) (d : Tensor), s.tensor tid = some d → (tid, n) ∉ s.splits → 32 * n + 32 ≤ d.npage →
       (∀ k, k < 32 → (s.page tid (32 * n + k)).lg = true) → n < 2 ^ 26 →
       Turns (.tsplit tid n) s (fun t => t.status = s.status ∧ (tid, n) ∈ t.splits ∧
         ∀ k, k < 32 → t.page tid (32 * n + k) = { s.page tid (32 * n + k) with lg := false })) ∧
     (∀ tid n, (tid, n) ∈ s.splits → (s.tensor tid).isSome = true → exec (.tsplit tid n) s = .next { s with status := some .busy }) ∧
     exec (.dswap true) s = .next { s with dirtyL := (s.dirtyL.2, s.dirtyL.1), status := some .done } ∧
     exec (.dswap false) s = .next { s with dirtyH := (s.dirtyH.2, s.dirtyH.1), status := some .done } ∧
     (∀ (tid page frame : Nat) (d : Tensor), s.tensor tid = some d → d.tpol = 0 → page < d.npage → frame < Config.lpFrames →
       let p := s.page tid page
       let st := p.stateNum
       let q := s.onPage tid page (fun p => { p with lp := true, mov := true, pfn := if st = 3 then p.pfn else frame })
       (st = 1 → exec (.mgmtPload tid page frame) s = .next { s with status := some .done }) ∧
       (st = 0 ∨ st = 3 → (q.place tid page).2 = true →
         Turns (.mgmtPload tid page frame) s (fun t => t.status = some .done ∧ t.pages = (q.place tid page).1.pages)) ∧
       (st = 0 ∨ st = 3 → (q.place tid page).2 = false → exec (.mgmtPload tid page frame) s = .next { s with status := some .poolFull }) ∧
       (st = 2 ∨ st = 4 ∨ st = 5 → exec (.mgmtPload tid page frame) s = .next { s with status := some .busy })) ∧
     (∀ (size : Nat) (floors : List (Nat × Nat)), (floors.map (·.1)).Nodup →
       (size < (floors.map (·.2)).sum → exec (.poolcfg size floors) s = .next { s with status := some .refused }) ∧
       ((floors.map (·.2)).sum ≤ size → Turns (.poolcfg size floors) s (fun t => t.status = some .done ∧ t.poolSize = size ∧
         ∀ f ∈ floors, t.floorOf f.1 = f.2))) ∧
     (∀ (tid : Nat) (d : TensorWrite) (guest : Option Nat),
       let tenant := ((s.tensor tid).map (·.tenant)).getD d.tenant
       let foreign := ∃ g, guest = some g ∧ g ≠ tenant
       let deferred := ∃ g, guest = some g ∧ g ∈ s.virt
       let bits := memBits d.fmt
       let bad := d.rank = 0 ∨ 6 < d.rank ∨ 28 ≤ d.fmt ∨ 2 ≤ d.blk ∨ 3 ≤ d.tpol ∨ (∃ j ∈ d.order, 6 ≤ j) ∨
          d.ttbase % 8 ≠ 0 ∨ d.pitch % max 1 (bits / 8) ≠ 0 ∨
         d.pitch < (d.dims.getD (d.rank - 1) 0 * bits + 7) / 8 ∨ (d.blk = 1 ∧ d.pitch % 64 ≠ 0)
       (foreign → exec (.tensorDescriptorWrite tid d guest) s = .next { s with status := some .refused }) ∧
       (¬ foreign → deferred → Turns (.tensorDescriptorWrite tid d guest) s (fun t => t.status = some .deferred ∧ t.tensors = s.tensors ∧
         t.notices = s.notices ++ [.desc tid d])) ∧
       (¬ foreign → ¬ deferred →
         (bad → exec (.tensorDescriptorWrite tid d guest) s = .next { s with status := some .refused }) ∧
         (¬ bad → Turns (.tensorDescriptorWrite tid d guest) s (fun t => t.status = some .done ∧ t.mem = s.mem ∧ ∃ x, t.tensor tid = some x ∧
           x.rank = d.rank ∧ x.fmt = d.fmt ∧ x.blk = d.blk ∧ x.tpol = d.tpol ∧ x.tenant = tenant ∧ x.order = d.order ∧ x.pitch = d.pitch ∧
           x.ttbase = d.ttbase ∧ x.npage = d.npage ∧ (∀ j, j < d.rank → x.dim j = d.dims.getD j 0) ∧ ∀ j, d.rank ≤ j → x.dim j = 0)))))

/-! ### The Gander -/

/-- The elements of a dispatch (R321, R323 to R325, R327, R333), on a slot whose areas stand in readable segments: a rank pass assigns the
candidate of its rank or defers it; the fallback settles the oldest deferred entry; then COUNTS is written and every destination with SEN
gets its LAST packet. Every element reads its choice row, its inverse entry and its token row, also where it then defers or drops: the
model's reading of R323 (log 20); one that would wait raises TIMED_STALL in a timed task and else waits. A row under a permit without
credit faults with PERMIT_EXPIRED, the counts as they stood. -/
def Obligations.GanderElements : Prop :=
  ∀ (die slot : Nat) (s : State) (g : GSlot) (u : CUnit) (c : Cmd),
    die < 4 → slot < 16 → s.gslot (gKey die slot) = g → g.cmd = some (s.cur, u, c.id) → s.cmdOf u c.id = some c → c.st = .running →
    g.state = .running → 0 < g.blk.k → g.blk.k ≤ 4 → g.blk.nc ≤ 4 → g.blk.cap < 2 ^ 16 →
    let b := g.blk
    let key := gKey die slot
    let can := fun (z : State) (w : W64) (off n : Nat) (write : Bool) =>
      (z.seg g.cid (nameIdx (epName w))).state ≠ .poisoned ∧ (z.seg g.cid (nameIdx (epName w))).tilesOk (epOff w + off) n write = true
    let word := fun (t k : Nat) => natLE (s.segRead g.cid (nameIdx (epName b.choice)) (epOff b.choice + 16 * t + 4 * k) 4)
    let ex := fun (t k : Nat) => word t k % 2 ^ 12
    let wt := fun (t k : Nat) => word t k / 2 ^ 16
    let held := fun (t e : Nat) => ∃ i w, i < b.k ∧ alook g.inv (b.k * t + i) = some w ∧ w.getLsbD 63 = false ∧ w.toNat % 2 ^ 24 / b.cap = e
    let fits := fun (t e : Nat) => e ≠ 0xFFF ∧ e < b.nexp ∧ ¬ held t e ∧ g.cntOf e < b.cap
    let put := fun (z : State) (w : W64) (off n v : Nat) => z.segWrite g.cid (nameIdx (epName w)) (epOff w + off) (bytesLE n v)
    let rows := fun (z : State) (t j e wt : Nat) (fb : Bool) (bs : List Byte) => (chunksOf bs).map (fun x =>
      { z.gMsg key g e with slot := g.cntOf e, token := t, rank := j, weight := wt, fb := fb, chunk := x.1, data := x.2,
                            net := 64 + s.netOf g.cid })
    let badx := fun (v : GSlot) (t : Nat) => v.badx = true ↔ g.badx = true ∨ ∃ k, k < b.nc ∧ ex t k ≠ 0xFFF ∧ b.nexp ≤ ex t k
    let assigned := fun (v : GSlot) (t j e wt : Nat) => v.cntOf e = g.cntOf e + 1 ∧ (∀ x, x ≠ e → v.cntOf x = g.cntOf x) ∧
      alook v.inv (b.k * t + j) = some (BitVec.ofNat 64 ((e * b.cap + g.cntOf e) % 2 ^ 24 + 2 ^ 32 * wt))
    -- a rank pass
    (let t := g.token
     let j := g.pass - 1
     let e := ex t j
     let moves := fun (v : GSlot) => v.state = .running ∧ v.novfl = g.novfl ∧ v.ndrop = g.ndrop ∧
      (t + 1 < b.ntok → v.token = t + 1 ∧ v.pass = g.pass) ∧ (b.ntok ≤ t + 1 → g.pass < b.k → v.token = 0 ∧ v.pass = g.pass + 1) ∧
      (b.ntok ≤ t + 1 → b.k ≤ g.pass → v.token = 0 ∧ v.pass = 5)
     g.pass ≠ 5 → j < b.nc → can s b.choice (16 * t) 16 false → can s b.inv (8 * (b.k * t + j)) 8 false →
     (s.tokenRow g t = .hold → (c.timed = false → exec (.ganderElement die slot) s = .next s) ∧
      (c.timed = true → exec (.ganderElement die slot) s = .next (s.gFault key g u c { cause := .timedStall }))) ∧
     (∀ s1 f, s.tokenRow g t = .fault s1 f → exec (.ganderElement die slot) s = .next (s1.gFault key g u c f)) ∧
     (∀ s1 bs, ¬ fits t e → s.tokenRow g t = .val s1 bs → can s1 b.inv (8 * (b.k * t + j)) 8 true →
      Turns (.ganderElement die slot) s (fun v => v.rowIn = s1.rowIn ∧ moves (v.gslot key) ∧ badx (v.gslot key) t ∧ (v.gslot key).cnt = g.cnt ∧
        ∃ w, alook (v.gslot key).inv (b.k * t + j) = some w ∧ w.toNat % 2 ^ 12 = e ∧ (w.getLsbD 12 = true ↔ held t e) ∧
          w.toNat / 2 ^ 13 = 2 ^ 49 + 2 ^ 50 ∧ v.mem = (put s1 b.inv (8 * (b.k * t + j)) 8 w.toNat).mem)) ∧
     (∀ s1 bs, fits t e → s.tokenRow g t = .val s1 bs → (g.destOf e).remote = false → can s1 b.inv (8 * (b.k * t + j)) 8 true →
      Turns (.ganderElement die slot) s (fun v => v.rowIn = s1.rowIn ++ rows s1 t j e (wt t j) false bs ∧ moves (v.gslot key) ∧
        badx (v.gslot key) t ∧ assigned (v.gslot key) t j e (wt t j) ∧
        v.mem = (put s1 b.inv (8 * (b.k * t + j)) 8 ((e * b.cap + g.cntOf e) % 2 ^ 24 + 2 ^ 32 * wt t j)).mem)) ∧
     (∀ s1 bs i, fits t e → s.tokenRow g t = .val s1 bs → (g.destOf e).remote = true → can s1 b.inv (8 * (b.k * t + j)) 8 true →
      (s1.permit g.cid (g.destOf e).pmt).refuses s1.frame (if e ∈ g.drew then 0 else b.cap * b.rowb) = some i →
      ∃ x, exec (.ganderElement die slot) s = .next (s1.gFault key x u c { cause := .permitExpired, info := BitVec.ofNat 64 i }) ∧
        x.cnt = g.cnt ∧ x.inv = g.inv ∧ x.token = g.token ∧ x.pass = g.pass ∧ x.drew = g.drew)) ∧
    -- the fallback
    (∀ k w, g.pass = 5 → (g.inv.map (·.1)).Pairwise (· < ·) → alook g.inv k = some w → w.getLsbD 62 = true → b.k * g.token + g.rank ≤ k →
      (∀ x ∈ g.inv, b.k * g.token + g.rank ≤ x.1 → x.1 < k → x.2.getLsbD 62 = false) → k / b.k < 2 ^ 20 → can s b.choice (16 * (k / b.k)) 16 false →
      can s b.inv (8 * k) 8 false →
      let t := k / b.k
      let j := k % b.k
      let x := w.toNat % 2 ^ 12
      let rec0 := t + 2 ^ 20 * j + 2 ^ 22 * x
      let dup := 2 ^ 34 * (w.toNat / 2 ^ 12 % 2)
      let good := fun (i : Nat) => i < b.nc ∧ ex t i ≠ x ∧ fits t (ex t i)
      let moves := fun (v : GSlot) => v.state = .running ∧ v.pass = 5 ∧ v.token = (k + 1) / b.k ∧ v.rank = (k + 1) % b.k ∧ v.novfl = g.novfl + 1
      (∀ i s1 bs, good i → (∀ i', i' < i → ¬ good i') → s.tokenRow g t = .val s1 bs → (g.destOf (ex t i)).remote = false →
        can s1 b.inv (8 * k) 8 true → can s1 b.ovfl (8 * g.novfl) 8 true → can s1 b.drops (8 * g.ndrop) 0 true →
        Turns (.ganderElement die slot) s (fun v => v.rowIn = s1.rowIn ++ rows s1 t j (ex t i) (wt t i) true bs ∧ moves (v.gslot key) ∧
          (v.gslot key).ndrop = g.ndrop ∧ badx (v.gslot key) t ∧ assigned (v.gslot key) t j (ex t i) (wt t i) ∧
          v.mem = (put (put s1 b.inv (8 * k) 8 ((ex t i * b.cap + g.cntOf (ex t i)) % 2 ^ 24 + 2 ^ 32 * wt t i)) b.ovfl (8 * g.novfl) 8
            (rec0 + dup + 2 ^ 35 * ex t i + 2 ^ 48 * g.cntOf (ex t i))).mem)) ∧
      (∀ s1 bs, (∀ i, ¬ good i) → s.tokenRow g t = .val s1 bs → can s1 b.inv (8 * k) 8 true → can s1 b.ovfl (8 * g.novfl) 8 true →
        can s1 b.drops (8 * g.ndrop) 8 true → Turns (.ganderElement die slot) s (fun v => v.rowIn = s1.rowIn ∧ moves (v.gslot key) ∧ (v.gslot key).ndrop = g.ndrop + 1 ∧
          badx (v.gslot key) t ∧ (v.gslot key).cnt = g.cnt ∧ alook (v.gslot key).inv k = some (BitVec.ofNat 64 (2 ^ 63)) ∧
          v.mem = (put (put (put s1 b.inv (8 * k) 8 (2 ^ 63)) b.ovfl (8 * g.novfl) 8 (rec0 + dup + 2 ^ 35 * 0xFFF + 2 ^ 47)) b.drops
            (8 * g.ndrop) 8 rec0).mem))) ∧
    -- the end of the passes
    (g.pass = 5 → (∀ x ∈ g.inv, b.k * g.token + g.rank ≤ x.1 → x.2.getLsbD 62 = false) →
      can s b.counts 0 (4 * b.nexp) true → (∀ m ∈ g.map, m.2.remote = false) →
      Turns (.ganderElement die slot) s (fun v => (v.gslot key).state = .done ∧ (v.gslot key).cnt = g.cnt ∧ (v.gslot key).inv = g.inv ∧
        v.mem = (s.segWrite g.cid (nameIdx (epName b.counts)) (epOff b.counts) ((List.range b.nexp).flatMap (fun e => bytesLE 4 (g.cntOf e)))).mem ∧
        v.rowIn = s.rowIn ++ (g.map.filter (fun m => m.2.sen)).map (fun m => { s.gMsg key g m.1 with
          slot := g.cntOf m.1, last := true, net := 64 + s.netOf g.cid }) ∧
        (v.core.eng u).cmds = (s.core.eng u).cmds.map (fun x => if x.id = c.id then { x with elem := x.total } else x)))

/-- What a receiving Gander does with the oldest message of each kind (R327, R331, R332, R334, R341, R375), for a region of a segment of
its own package. A message that waits holds back those behind it on its network and gives way to those of other networks, except that a
PULL waits for its region inside the Gander (log 20). A row lands and is noted; the LAST packet that finds every slot there completes the
region, which signals once; rows and the LAST packet of another dispatch count for nothing in it (log 20); a PULL waits for the rows of
its own dispatch and answers with them; return rows land in RET; FREE closes its dispatch's region and is acknowledged; the last
acknowledgement ends rtfree. That a region counts the rows of the dispatch that opened it, which regions share a tile and which tenants a
message reaches are the model's readings (log 20). -/
def Obligations.GanderMessages : Prop :=
  ∀ (die : Nat) (s : State) (m : RowMsg), die < 4 →
    let r := s.regionOf die m
    let idx := nameIdx m.dest.name
    let gone := fun (v : State) (l : List RowMsg) => v.rowIn = s.rowIn.erase m ++ l
    let key := gKey die m.srcSlot
    let g := s.gslot key
    (∀ k, s.heads die k = [] →
      (k = .row → exec (.rowPacketReceive die) s = .next s) ∧ (k = .pull → exec (.pullReceive die) s = .next s) ∧
      (k = .ret → exec (.retPacketReceive die) s = .next s) ∧ (k = .free → exec (.freeReceive die) s = .next s) ∧
      (k = .ack → exec (.freeAckReceive die) s = .next s)) ∧
    (∀ f x l, (f x s).2 = false → State.tryHeads f (x :: l) s = State.tryHeads f l (f x s).1) ∧
    (∀ k x, x ∈ s.heads die k → x ∈ s.rowIn ∧ x.kind = k ∧ s.msgDie x = die) ∧
    (∀ x y l1 l2 l3, s.rowIn = l1 ++ x :: (l2 ++ y :: l3) → s.msgDie x = die → s.msgDie y = die → x.queue = y.queue → y ∉ l1 ++ x :: l2 →
      (∀ z ∈ l1, z.queue ≠ x.queue) → (x.kind ≠ .pull ∨ s.pullable die x = true) → ∀ k, y ∉ s.heads die k) ∧
    (∀ rest, s.heads die .row = m :: rest → s.receives m.ctx = true → r.complete = false → m.dest.remote = false →
      let span := s.regionSpan r
      let off := (m.dest.rrow + m.slot) * r.rowb + 1024 * m.chunk
      (∀ l, m.last = false → r.last = none → r.ofDispatch m = true →
        (s.ctx m.ctx).acquire none none true [⟨m.dest.name, (m.dest.rrow + m.slot) * r.rowb, r.rowb⟩] = .ok l →
        (r.opened = true ∨ r.dest.remote = true ∨ ∀ t ∈ tileSpan span.1 span.2,
          ((s.seg r.cid (nameIdx r.dest.name)).tile t).st = .ready ∨ ((s.seg r.cid (nameIdx r.dest.name)).tile t).st = .empty) →
        Turns (.rowPacketReceive die) s (fun v => gone v [] ∧ v.mem = (s.segWrite m.ctx idx off m.data).mem ∧ v.signals = s.signals ∧
          (r.opened = false → r.dest.remote = false →
            ∀ t ∈ tileSpan span.1 span.2, ((v.seg r.cid (nameIdx r.dest.name)).tile t).st = .filling) ∧
          ∃ q ∈ v.regions, q.is die m = true ∧ q.opened = true ∧ q.complete = false ∧ sget false q.chunks (m.slot * 16 + m.chunk) = true ∧
            (sget false q.bits m.slot = true ↔ sget false r.bits m.slot = true ∨
              ∀ i, i < cdiv r.rowb 1024 → sget false q.chunks (m.slot * 16 + i) = true) ∧
            ∀ n, n ≠ m.slot → sget false q.bits n = sget false r.bits n)) ∧
      (m.last = true → r.ofDispatch m = true → r.dropped = false → r.bits.length = m.slot → r.pages = [] →
        (r.opened = false ∨ (r.dest.remote = false ∧ 1 < (s.seg r.cid (nameIdx r.dest.name)).inb)) →
        Turns (.rowPacketReceive die) s (fun v => gone v [] ∧ v.mem = s.mem ∧ (∃ q ∈ v.regions, q.is die m = true ∧ q.complete = true) ∧
          (r.opened = true → (∀ p ∈ r.tiles, 0 < (s.seg r.cid p.1).size → (∀ x ∈ s.regions, x.opened = true → x.complete = false → x.cid = r.cid →
              x.die = r.die → x.same r = false → p ∉ x.tiles) → ((v.seg r.cid p.1).tile p.2).st = .ready) ∧
            (v.seg r.cid (nameIdx r.dest.name)).inb = (s.seg r.cid (nameIdx r.dest.name)).inb - 1) ∧
          v.signals = s.signals ++ [({ cid := r.cid, clu := r.dest.rccl, n := r.dest.rctr, kind := .dec 1, src := 64, core := 256, sent := s.turns } : Signal)])) ∧
      (m.last = true → r.ofDispatch m = false → Turns (.rowPacketReceive die) s (fun v => gone v [] ∧ v.mem = s.mem ∧ v.regions = s.regions ∧
        v.signals = s.signals)) ∧
      (m.last = true → r.ofDispatch m = true → r.bits.length ≠ m.slot → Turns (.rowPacketReceive die) s (fun v => gone v [] ∧ v.mem = s.mem ∧ v.signals = s.signals ∧
        ∃ q ∈ v.regions, q.is die m = true ∧ q.complete = false ∧ q.last = some m.slot ∧ q.bits = r.bits))) ∧
    (∀ rest, s.heads die .pull = m :: rest → s.receives m.ctx = true →
      (s.pullable die m = true ↔ r.complete = true ∧ r.ofDispatch m = true ∧ ∀ i, i < m.slot → sget false r.bits i = true) ∧
      (s.pullable die m = false → exec (.pullReceive die) s = .next (State.tryHeads (State.takePull die) rest s)) ∧
      (s.pullable die m = true → m.dest.remote = false →
        (∀ i, i < m.slot → (∃ l, (s.ctx m.ctx).acquire none none true [⟨m.dest.outn, (m.dest.orow + i) * m.rowb, m.rowb⟩] = .ok l) ∧
          (s.seg m.ctx (nameIdx m.dest.outn)).tilesOk ((m.dest.orow + i) * m.rowb) m.rowb false = true) →
        Turns (.pullReceive die) s (fun v => v.mem = s.mem ∧ gone v ((List.range m.slot).flatMap (fun i =>
          (chunksOf (s.segRead m.ctx (nameIdx m.dest.outn) ((m.dest.orow + i) * m.rowb) m.rowb)).map (fun c =>
            { m with pull := false, ret := true, slot := i, chunk := c.1, data := c.2, net := 64 + s.netOf m.ctx })))))) ∧
    (∀ rest, s.heads die .ret = m :: rest → (alook s.ctxs m.srcCid).isSome = true → g.state = .inverting → g.cid = m.srcCid →
      let row := m.expert * g.blk.cap + m.slot
      let seg := nameIdx (epName g.blk.ret)
      let off := epOff g.blk.ret + (row * g.blk.rowb + 1024 * m.chunk)
      let new := sget false g.got (row * 16 + m.chunk) = false
      (s.seg g.cid seg).state ≠ .poisoned → (s.seg g.cid seg).tilesOk off m.data.length true = true →
      Turns (.retPacketReceive die) s (fun v => gone v [] ∧ v.mem = (s.segWrite g.cid seg off m.data).mem ∧
        sget false (v.gslot key).got (row * 16 + m.chunk) = true ∧ (new → (v.gslot key).left = g.left - 1) ∧ (¬ new → (v.gslot key).left = g.left) ∧
        ((v.gslot key).left = 0 → (v.gslot key).state = .done) ∧ ((v.gslot key).left ≠ 0 → (v.gslot key).state = .inverting))) ∧
    (∀ rest, s.heads die .free = m :: rest → s.receives m.ctx = true → m.dest.remote = false →
      (∀ q ∈ s.regions, q.is die m = true → q.ofDispatch m = true → q.opened = false) →
      Turns (.freeReceive die) s (fun v => gone v [{ m with ack := true, net := 64 + s.netOf m.ctx }] ∧ v.mem = s.mem ∧
        ((∀ q ∈ s.regions, q.is die m = true → q.ofDispatch m = true) → v.regions = s.regions.filter (fun q => !q.is die m)) ∧
        ((∀ q ∈ s.regions, q.is die m = true → q.ofDispatch m = false) → v.regions = s.regions))) ∧
    (∀ rest, s.heads die .ack = m :: rest → (alook s.ctxs m.srcCid).isSome = true → g.state = .freeing → g.cid = m.srcCid → m.credit = 0 →
      m.aborted = false →
      Turns (.freeAckReceive die) s (fun v => gone v [] ∧ v.mem = s.mem ∧ (v.gslot key).left = g.left - 1 ∧
        (1 < g.left → (v.gslot key).state = .freeing) ∧ (g.left ≤ 1 → (v.gslot key).state = .configured)))

/-! ### The link -/

/-- What the ports do (R336 to R345): the header check code corrects one error and refuses two; a packet goes out, or waits for the link;
of a run of flits those are taken that are next in order and whole, and the port asks for the rest; what a tag acknowledges leaves the
replay buffer flit by flit; a header that cannot be trusted discards its packet and asks for it again; packets for this package are kept,
handed on or leave an orphan record with the routing word as received, others are relayed; replay, beacons, training and its end. Packets
that wait at a port, what a tag acknowledges, the room of a port and when a beacon sets the clock are the model's readings (log 21); the
classes of KIND 2 and 3 packets and what those of management and permits hold are its own (log 15, log 26). -/
def Obligations.LinkPorts : Prop :=
  (∀ w : Nat, let h := withEcc w
    h.toNat % 2 ^ 120 = w % 2 ^ 120 ∧ eccCheck h = .ok ∧ (∀ i, i < 128 → eccCheck (h ^^^ (1#128 <<< i)) = .corrected h) ∧
    ∀ i j, i < j → j < 128 → eccCheck (h ^^^ (1#128 <<< i) ^^^ (1#128 <<< j)) = .bad) ∧
  -- a packet leaves where the port can keep it until it is acknowledged, or it waits
  (∀ (s : State) (l : Nat) (p : Packet),
    let k := s.link l
    let u := s.sendOn l p
    let leaves := k.state = 2 ∧ (∀ q ∈ k.waiting, queueOf q ≠ queueOf p) ∧ k.flits + packetFlits p ≤ 256
    (leaves → u.sent = s.sent ++ [(l, { seq := k.txSeq, ack := (k.rxSeq + 65535) % 65536, crcOk := true, pkt := p })] ∧
      (u.link l).txSeq = (k.txSeq + 1 + p.rw.toNat / 2 ^ 44 % 32) % 65536 ∧ (u.link l).replay = k.replay ++ [(k.txSeq, p)] ∧
      (u.link l).waiting = k.waiting) ∧
    (¬ leaves → u.sent = s.sent ∧ (u.link l).waiting = k.waiting ++ [p] ∧ (u.link l).replay = k.replay ∧ (u.link l).txSeq = k.txSeq)) ∧
  (∀ (link : Nat) (s : State), link < 24 →
    let k := s.link link
    (∀ f, k.state ≠ 2 → exec (.flitReceive link f) s = .next s) ∧
    (∀ f, k.state = 2 → f.crcOk = false → f.good = 0 →
      exec (.flitReceive link f) s = .next (s.setLink link (fun k => { k with crcerr := k.crcerr + 1, asks := k.asks ++ [k.rxSeq] }))) ∧
    -- the acknowledgement that its tag carries
    (∀ f q p rest j, k.state = 2 → k.waiting = [] → k.replay = (q, p) :: rest → q < 65536 → k.ackSeq = q → j < packetFlits p →
      packetFlits p ≤ k.flits → (∀ y ∈ rest.head?, y.1 = (q + packetFlits p) % 65536) → f.crcOk = true → f.ack = (q + j) % 65536 → k.part = none →
      f.first + seqDist k.rxSeq f.seq ≠ 0 → Turns (.flitReceive link f) s (fun u => (u.link link).ackSeq = (q + j + 1) % 65536 ∧
        (j + 1 = packetFlits p → (u.link link).replay = rest) ∧ (j + 1 < packetFlits p → (u.link link).replay = k.replay) ∧ u.sent = s.sent ∧
        (u.link link).rxSeq = k.rxSeq)) ∧
    -- of a run whose CRC fails in the middle the flits before that are kept, and the port asks for those that follow
    (∀ f, k.state = 2 → f.crcOk = false → 0 < f.good → k.part = none → k.waiting = [] → f.first = 0 → f.seq = k.rxSeq → eccCheck f.pkt.rw = .ok →
      fld f.pkt.rw 40 4 < 7 → fld f.pkt.rw 40 4 ≠ 2 → fld f.pkt.rw 44 5 ≤ 16 → f.good < packetFlits f.pkt → bit f.pkt.rw 61 = true →
      Turns (.flitReceive link f) s (fun u => (u.link link).part = some ({ f.pkt with data := f.pkt.data.take (64 * (f.good - 1)) }, f.good) ∧
        (u.link link).rxSeq = (k.rxSeq + f.good) % 65536 ∧ (u.link link).asks = k.asks ++ [(k.rxSeq + f.good) % 65536] ∧
        (u.link link).crcerr = k.crcerr + 1 ∧ (u.link link).sched = k.sched ∧ u.sent = s.sent ∧ u.mem = s.mem ∧ u.rowIn = s.rowIn)) ∧
    -- the rest of such a packet
    (∀ f h t, k.state = 2 → f.crcOk = true → k.part = some (h, t) → k.waiting = [] → f.first = t → f.seq = k.rxSeq → t < packetFlits h →
      let s1 := (s.setLink link (fun k => { k.acked f.ack with rxSeq := (k.rxSeq + (packetFlits h - t)) % 65536, part := none }))
      let p := { h with data := h.data ++ f.pkt.data.drop (64 * (t - 1)) }
      exec (.flitReceive link f) s = .next (if fld h.rw 0 11 = s.pkg then s1.takePacket link ((k.rxSeq + 65536 - t) % 65536) h.rw p else s1.sendPacket p)) ∧
    (∀ f, k.state = 2 → f.crcOk = true → k.part = none →
      let s1 := (s.setLink link (fun k => k.acked f.ack)).pumpLink link
      let k := s1.link link
      (f.first + seqDist k.rxSeq f.seq ≠ 0 → exec (.flitReceive link f) s = .next s1) ∧
      (f.first = 0 → f.seq = k.rxSeq →
        let orph := fun (cause : Nat) => s1.orphans ++ [{ frame := s1.frame, link := link, cause := cause, seq := f.seq, raw := f.pkt.rw }]
        let lost := fun (cause n : Nat) => Turns (.flitReceive link f) s (fun u => (u.link link).hunc = k.hunc + 1 ∧
          (u.link link).hcorr = k.hcorr + n ∧ (u.link link).rxSeq = k.rxSeq ∧ (u.link link).asks = k.asks ++ [k.rxSeq] ∧ u.orphans = orph cause ∧
          u.mem = s1.mem)
        (eccCheck f.pkt.rw = .bad → lost 1 0) ∧
        (∀ w n, (eccCheck f.pkt.rw = .ok ∧ w = f.pkt.rw ∧ n = 0) ∨ (eccCheck f.pkt.rw = .corrected w ∧ n = 1) →
          let kind := fld w 40 4
          (7 ≤ kind ∨ 16 < fld w 44 5 → lost 1 n) ∧
          (kind = 2 → fld w 44 5 ≤ 16 → eccCheck f.pkt.rh = .bad → lost 2 n) ∧
          (∀ h m, kind < 7 → fld w 44 5 ≤ 16 → (kind ≠ 2 ∧ h = f.pkt.rh ∧ m = 0) ∨ (kind = 2 ∧ eccCheck f.pkt.rh = .ok ∧ h = f.pkt.rh ∧ m = 0) ∨
              (kind = 2 ∧ eccCheck f.pkt.rh = .corrected h ∧ m = 1) →
            let p := { f.pkt with rw := w, rh := h }
            let net := fld w 22 6
            let info := fun (i : Nat) => p.info.getD i 0
            let s2 := (s1.setLink link (fun k => { k with hcorr := k.hcorr + (n + m) })).setLink link
              (fun k => { k with rxSeq := (k.rxSeq + packetFlits p) % 65536, part := none })
            let goes := fun (v : State) => exec (.flitReceive link f) s = .next v
            let kept := fun (there : Prop) (v : State) => (there → goes v) ∧ (¬ there → goes { s2 with orphans := s2.orphans ++
              [{ frame := s2.frame, link := link, cause := 3, seq := f.seq, raw := f.pkt.rw }] })
            -- room: 34 flits of each virtual network and class at least
            (bit w 61 = true ∨ (((s1.portHeld (if fld w 0 11 = s1.pkg then link else routeOf p)).filter (fun x => x.1 = (net, fld w 38 2))).map
                (·.2)).foldl (· + ·) 0 + 1 + fld w 44 5 ≤ 34 → s1.portRoom link p = true) ∧
            (s1.portRoom link p = false → goes s1) ∧
            (s1.portRoom link p = true →
              ((s2.link link).rxSeq = (k.rxSeq + 1 + fld w 44 5) % 65536 ∧ (s2.link link).hcorr = k.hcorr + (n + m)) ∧
              (fld w 0 11 = s2.pkg →
                (kind = 0 → s2.receiverOf link p = none →
                  ((s2.link link).sched.length < 64 → goes (s2.setLink link (fun k => { k with sched := k.sched ++
                    [{ pkt := p, seq := f.seq, at_ := s2.qc, raw := f.pkt.rw }] }))) ∧
                  (64 ≤ (s2.link link).sched.length → Turns (.flitReceive link f) s (fun u => u.orphans = orph 4 ∧
                    (u.link link).sched = (s2.link link).sched ∧ (u.link link).rxSeq = (s2.link link).rxSeq))) ∧
                (kind = 0 → ∀ c e, s2.receiverOf link p = some (s2.cur, e, c) → (∀ v, s2.landSched e c p s2.qc = some v → goes (v.focus s2.cur)) ∧
                  (s2.landSched e c p s2.qc = none → (s2.link link).sched.length < 64 → Turns (.flitReceive link f) s (fun u => (u.link link).sched =
                    (s2.link link).sched ++ [{ pkt := p, seq := f.seq, at_ := s2.qc, raw := f.pkt.rw, found := true }]))) ∧
                (kind = 1 → kept (s2.hasReceiver (info 5) net = true) s2) ∧
                (kind = 2 →
                  let r := rowOfPacket p
                  kept (((r.ret = true ∨ r.ack = true) ∧ (alook s2.ctxs r.srcCid).isSome = true) ∨
                      (r.ret = false ∧ r.ack = false ∧ s2.hasReceiver r.ctx r.tenant = true))
                    { s2 with rowIn := s2.rowIn ++ [{ r with port := some (link, f.seq, f.pkt.rw) }] }) ∧
                (kind = 3 → kept ((info 0 = 1 ∧ (alook s2.ctxs (info 1)).isSome = true) ∨ (info 0 ≠ 1 ∧ s2.hasReceiver (info 3) (info 7) = true)) s2) ∧
                (kind = 4 → goes { s2 with mgmtIn := s2.mgmtIn ++ [{ srce := fld w 11 11, net := net, opid := fld w 62 16, link := some link, flits := 1 + fld w 44 5 }] }) ∧
                (kind = 5 → goes s2) ∧
                (kind = 6 → goes (s2.beacon link (info 0) (info 1)))) ∧
              (fld w 0 11 ≠ s2.pkg → Turns (.flitReceive link f) s (fun u => u.rowIn = s2.rowIn ∧ s2.SendsOut u (fun q => q = p)))))))) ∧
    -- a request for replay
    (∀ q p a l i, k.state = 2 → k.replay = a ++ (q, p) :: l → q < 65536 → i < packetFlits p →
      (∀ x ∈ a, packetFlits x.2 ≤ seqDist ((q + i) % 65536) x.1) →
      let nums := (List.range (packetFlits p - i)).map (fun n => (q + i + n) % 65536) ++
        l.flatMap (fun x => (List.range (packetFlits x.2)).map (fun n => (x.1 + n) % 65536))
      Turns (.replayRequest link ((q + i) % 65536)) s (fun u =>
        u.sent = s.sent ++ (link, k.flit q p i) :: l.map (fun x => (link, k.flit x.1 x.2)) ∧
        (a = [] → k.ackSeq = q → i ≤ k.flits → (u.link link).replay = k.replay ∧ (u.link link).ackSeq = (q + i) % 65536) ∧
        (u.link link).txSeq = k.txSeq ∧ (u.link link).replays = k.replays + nums.length ∧
        ((∀ n ∈ nums, (alook k.resent n).getD 0 < 2) → (u.link link).state = 2) ∧
        ((∃ n ∈ nums, 2 ≤ (alook k.resent n).getD 0) → (u.link link).state = 3))) ∧
    -- beacons
    (∀ frame phase,
      let b := frame * 1024 + phase
      let t := s.frame * 1024 + s.qc % 64 * 16
      (k.state = 2 → s.timeRoot = some s.pkg ∨ (t + 7 ≤ b ∧ b ≤ t + 8) → exec (.timeBeacon link frame phase) s = .next s) ∧
      (k.state = 2 → s.timeRoot ≠ some s.pkg → b + 8 < t ∨ t + 23 < b → Turns (.timeBeacon link frame phase) s (fun u => u.frame = s.frame ∧ ∀ l,
        ((s.link l).state = 2 ∨ (s.link l).state = 3 → (u.link l).state = 3 ∧ (u.link l).sync = false) ∧
        ((s.link l).state ≠ 2 → (s.link l).state ≠ 3 → u.link l = s.link l))) ∧
      (k.state = 1 ∨ k.state = 3 → s.timeRoot ≠ some s.pkg → (∀ l ∈ s.links, l.2.state ≠ 2) → phase < 1024 →
        Turns (.timeBeacon link frame phase) s (fun u =>
          u.frame = frame % 2 ^ 64 ∧ u.qc = (frame * 64 + phase / 16) % 2 ^ 64 ∧ u.links = s.links)) ∧
      (k.state = 1 ∨ k.state = 3 → s.timeRoot = some s.pkg → exec (.timeBeacon link frame phase) s = .next s)) ∧
    -- training
    (∀ ld peer, k.state = 1 ∨ k.state = 3 →
      (k.waiting = [] → Turns (.linkTrainingDone link true ld peer) s (fun u => (u.link link).state = 2 ∧ (u.link link).sync = true ∧
        (u.link link).ld = max 1 (min ld 255) ∧ (u.link link).peer = peer % 2048 ∧ (u.link link).trains = 0 ∧ (u.link link).replay = k.replay ∧
        (u.link link).replays = k.replays + k.flits ∧ (k.replay = [] → u.sent = s.sent) ∧
        -- from the oldest flit that is not acknowledged
        (∀ q p l i, k.replay = (q, p) :: l → i < packetFlits p → q < 65536 → k.ackSeq = (q + i) % 65536 →
          u.sent = s.sent ++ (link, k.flit q p i) :: l.map (fun x => (link, k.flit x.1 x.2))))) ∧
      (k.trains < 3 → Turns (.linkTrainingDone link false ld peer) s (fun u => u.link link = { k with trains := k.trains + 1 } ∧ u.sent = s.sent)) ∧
      (3 ≤ k.trains → k.alt = none → Turns (.linkTrainingDone link false ld peer) s (fun u => (u.link link).state = 4 ∧ (u.link link).replay = [] ∧
        (u.link link).flits = 0 ∧ (u.link link).waiting = [] ∧ u.sent = s.sent ∧
        u.orphans = s.orphans ++ (k.replay ++ k.waiting.map (fun p => (k.txSeq, p))).map (fun x =>
          { frame := s.frame, link := link, cause := 5, seq := x.1, raw := x.2.rw }))) ∧
      (∀ a, 3 ≤ k.trains → k.alt = some a → a ≠ link → (s.link a).state = 2 → (s.link a).waiting = [] →
        (s.link a).flits + ((k.replay.map (·.2) ++ k.waiting).map packetFlits).sum ≤ 256 →
        Turns (.linkTrainingDone link false ld peer) s (fun u => (u.link link).state = 4 ∧ u.orphans = s.orphans ∧
          u.sent.map (fun x => (x.1, x.2.pkt)) = s.sent.map (fun x => (x.1, x.2.pkt)) ++ (k.replay.map (·.2) ++ k.waiting).map (fun p => (a, p))))))

/-- Scheduled transfers (R341, R346 to R348): a packet leaves in its quantum with its tag; it lands where it belongs, or misses its time;
an unclaimed one is discarded. The bytes are those of a transfer of one row without MX. INFO[0] of a missed deadline, and that a packet
older than 4 quanta is no longer claimed, are the model's readings (log 21). -/
def Obligations.ScheduledTransfers : Prop :=
  (∀ (u : CUnit) (id : Nat) (s : State) (c : Cmd), s.cmdOf u id = some c → c.st = .running →
    (c.op = 20 → c.elem < c.total →
      (∀ s1 bs, s.qc = c.absIn + c.elem / 2 → s.wireRead u c c.elem = .val s1 bs →
        (s1.link (lnkLink c)).state = 2 → (s1.link (lnkLink c)).waiting = [] → (s1.link (lnkLink c)).flits + 1 + cdiv bs.length 64 ≤ 256 →
        Turns (.schedSend u id) s (fun v => v.mem = s1.mem ∧
          (v.core.eng u).cmds = (s1.core.eng u).cmds.map (fun x => if x.id = c.id then { x with elem := c.elem + 1 } else x) ∧
          ∃ f, v.sent = s1.sent ++ [(lnkLink c, f)] ∧ f.pkt.data = bs ∧ fld f.pkt.rw 0 11 = (s1.link (lnkLink c)).peer % 2048 ∧
            fld f.pkt.rw 40 4 = 0 ∧ fld f.pkt.rw 49 12 = lnkTag c ∧ bit f.pkt.rw 61 = true)) ∧
      (s.qc < c.absIn + c.elem / 2 → exec (.schedSend u id) s = .next s ∧ exec (.schedDeadline u id) s = .next s) ∧
      (c.absIn + c.elem / 2 < s.qc → exec (.schedDeadline u id) s = .next (s.cmdFault u c { cause := .timedStall }))) ∧
    -- one that found no receive within 4 quanta is no longer there to be claimed
    (c.op = 21 ∨ c.op = 22 → c.elem < c.total → (∀ x ∈ (s.link (lnkLink c)).sched, x.found = false ∧ x.at_ + 4 ≤ s.qc) →
      c.absIn + c.elem / 2 < s.qc →
      exec (.schedDeadline u id) s = .next (s.cmdFault u c { cause := .timedStall, info := 1 })) ∧
    (c.op = 21 → c.elem < c.total → (∀ x ∈ (s.link (lnkLink c)).sched, x.found = false ∧ x.at_ + 4 ≤ s.qc) → s.qc ≤ c.absIn + c.elem / 2 → exec (.schedDeadline u id) s = .next s)) ∧
  (∀ (u : CUnit) (s : State) (c : Cmd), c.rows = 1 → c.cm = false → ¬ (bit c.word 5 = true ∧ isMX c.fo = true) → 1024 * c.elem < c.rowb →
    let n := min 1024 (c.rowb - 1024 * c.elem)
    (c.op = 20 → s.Passes u c (epName c.srcw) (epOff c.srcw + 1024 * c.elem) n false →
      s.wireRead u c c.elem = .val s (s.segRead c.cid (nameIdx (epName c.srcw)) (epOff c.srcw + 1024 * c.elem) n)) ∧
    (∀ (p : Packet) (at_ : Nat), c.op = 21 →
      (c.absIn + c.elem / 2 < s.qc → s.landSched u c p at_ =
        some (s.cmdFault u c { cause := .timedStall, info := if c.absIn + c.elem / 2 < at_ then 1 else 0 })) ∧
      (s.qc ≤ c.absIn + c.elem / 2 → p.data.length = n → s.Passes u c (epName c.dstw) (epOff c.dstw + 1024 * c.elem) n true →
        s.cmdOf u c.id = some c → c.unsig + n < 4096 →
        ∃ v, s.landSched u c p at_ = some v ∧ v.mem = (s.segWrite c.cid (nameIdx (epName c.dstw)) (epOff c.dstw + 1024 * c.elem) p.data).mem ∧
          v.cmdOf u c.id = some { c with elem := c.elem + 1, unsig := c.unsig + n }))) ∧
  (∀ (link idx : Nat) (s : State) (x : Held), link < 24 → (s.link link).sched[idx]? = some x →
    (x.at_ + 4 ≤ s.qc → x.found = false ∨ s.receiverOf link x.pkt = none → Turns (.schedUnclaimed link idx) s (fun v =>
      (v.link link).sched = (s.link link).sched.eraseIdx idx ∧
      v.orphans = s.orphans ++ [{ frame := s.frame, link := link, cause := 4, seq := x.seq, raw := x.raw }] ∧ v.mem = s.mem)) ∧
    (s.qc < x.at_ + 4 ∨ (x.found = true ∧ (s.receiverOf link x.pkt).isSome = true) → exec (.schedUnclaimed link idx) s = .next s))

/-- Collectives and permits (R350 to R354): a member takes the others' comparison first, a final chunk is written once, chunk k holds the
elements i with floor(i × N / NE) = k; a request is granted from the pool or denied; the answer, the end of a lease and a return have
their effects on the permit, the pool and the regions. What the packets carry (log 15) and from which frame a lease counts (log 22) are
the model's. -/
def Obligations.CollectivesAndPermits : Prop :=
  (∀ (u : CUnit) (id : Nat) (s : State) (c : Cmd) (p : Packet) (t : Tensor), s.cmdOf u id = some c → c.op = 23 → c.st = .running → fld p.rw 40 4 = 1 →
    fld p.rw 22 6 = s.netOf c.cid →
    s.tensor (epTid c.srcw) = some t →
    (∀ who op ne, p.info = [0, who, op, ne, collInst c, c.cid, collGrp c] → c.ready = false → alook c.acc who = none →
      (op = collOp c → ne = t.count → Turns (.collStep u id p) s (fun v => v.mem = s.mem ∧
        ∃ x, v.cmdOf u id = some x ∧ alook x.acc who = some 1 ∧ x.elem = c.elem ∧ (x.ready = true ↔ c.acc.length + 2 = (s.collMembers c).length))) ∧
      (op ≠ collOp c ∨ ne ≠ t.count → exec (.collStep u id p) s = .next (s.cmdFault u c { cause := .illegalMove, unit := 12 }))) ∧
    (∀ k j me y s1, p.info = [2, k, j, y, collInst c, c.cid, collGrp c] → c.performed = true → k < 1024 → j < 2 ^ 40 →
      alook c.acc ((2 * 1024 + k) * 2 ^ 40 + j) = none → s.collMe c = some me →
      let a := chunkPart (s.collMembers c).length t.count k j
      State.collPut u c (epTid c.dstw) t a.1 (fieldsN (memBits t.fmt) a.2 p.data) s = .val s1 () →
      (∀ x ∈ (s1.core.eng u).cmds, x.id = id → x.unsig + p.data.length < 4096) →
      Turns (.collStep u id p) s (fun v => v.mem = s1.mem ∧ (v.core.eng u).cmds = (s1.core.eng u).cmds.map (fun x => if x.id = id then
        { x with acc := aput x.acc ((2 * 1024 + k) * 2 ^ 40 + j) 1, elem := x.elem + 1, unsig := x.unsig + p.data.length } else x))) ∧
    -- a packet of another collective, member or group is none of its own
    (p.info.getD 4 0 ≠ collInst c ∨ p.info.getD 5 0 ≠ c.cid ∨ p.info.getD 6 0 ≠ collGrp c → exec (.collStep u id p) s = .next s)) ∧
  -- the pages of all its elements are taken before the first is written
  (∀ (u : CUnit) (s s1 : State) (c : Cmd) (tid i : Nat) (t : Tensor) (vs : List Nat) (f : FaultInfo),
    s.tenTouch u c tid ((List.range vs.length).flatMap (fun j => t.runs (t.elemAt (i + j)).1 (t.elemAt (i + j)).2.1
      (cdiv ((t.elemAt (i + j)).2.2 + memBits t.fmt) 8))) true = .fault s1 f → State.collPut u c tid t i vs s = .fault s1 f) ∧
  (∀ n ne k i, 0 < n → i < ne → (chunkLo n ne k ≤ i ∧ i < chunkLo n ne k + chunkLen n ne k ↔ i * n / ne = k)) ∧
  (∀ (p : Packet) (s : State) (cid n rctx credit lease x rten : Nat), p.info = [0, cid, n, rctx, credit, lease, x, rten] →
    let pool := (s.ctx rctx).pool
    let back := fun (v : State) (ok : Nat) => s.SendsOut v (fun q => q.info = [1, cid, n, ok] ∧ fld q.rw 0 11 = fld p.rw 11 11 ∧
      fld q.rw 22 6 = s.netOf rctx % 64 ∧ fld q.rw 38 2 = 1 ∧ fld q.rw 40 4 = 3 ∧ fld q.rw 62 16 = fld p.rw 62 16)
    (s.hasReceiver rctx rten = false → exec (.permitRequestReceive p) s = .next s) ∧
    (s.hasReceiver rctx rten = true → credit ≤ pool →
      Turns (.permitRequestReceive p) s (fun v => (v.ctx rctx).pool = pool - credit ∧ back v 1)) ∧
    (s.hasReceiver rctx rten = true → pool < credit →
      Turns (.permitRequestReceive p) s (fun v => (v.ctx rctx).pool = pool ∧ back v 0))) ∧
  (∀ (cid pmt : Nat) (s : State) (c : Ctx), alook s.ctxs cid = some c → pmt < 256 →
    let p := s.permit cid pmt
    (∀ u id, p.state = 1 → p.cmd = some (s.cur, u, id) →
      let ovr := fun (v : State) => (v.core.eng u).cmds = (s.core.eng u).cmds.map (fun x => if x.id = id then { x with elem := x.total } else x)
      Turns (.permitAnswerReceive cid (256 * p.opid + pmt) true) s (fun v => ovr v ∧ (v.permit cid pmt).state = 2 ∧ (v.permit cid pmt).credit = p.ask ∧
        (v.permit cid pmt).expiry = s.frame + p.lease ∧ (v.permit cid pmt).drawn = p.drawn) ∧
      Turns (.permitAnswerReceive cid (256 * p.opid + pmt) false) s (fun v => ovr v ∧ (v.permit cid pmt).state = 3 ∧
        (v.permit cid pmt).credit = p.credit)) ∧
    -- the answer to a request whose permit was given up meanwhile: what it grants goes back
    (∀ o a, p.state ≠ 1 ∨ p.opid ≠ o → c.asks.find? (fun a => a.pmt = pmt && a.opid = o) = some a → a.cmd = none →
      Turns (.permitAnswerReceive cid (256 * o + pmt) true) s (fun v => (v.ctx cid).asks = c.asks.erase a ∧ v.permit cid pmt = p ∧
        s.SendsOut v (fun q => q.info = [2, cid, pmt, a.rctx, a.ask, 0, 0, a.rten])) ∧
      Turns (.permitAnswerReceive cid (256 * o + pmt) false) s (fun v => (v.ctx cid).asks = c.asks.erase a ∧ v.permit cid pmt = p ∧
        v.sent = s.sent)) ∧
    (∀ o granted, p.state ≠ 1 ∨ p.opid ≠ o → (∀ a ∈ c.asks, a.pmt = pmt → a.opid ≠ o) →
      exec (.permitAnswerReceive cid (256 * o + pmt) granted) s = .next s) ∧
    (p.state = 2 → p.expiry ≤ s.frame → Turns (.permitExpire cid pmt) s (fun v => (v.permit cid pmt).state = 4 ∧ (v.permit cid pmt).credit = 0 ∧
      (v.permit cid pmt).drawn = p.drawn ∧ (p.credit ≠ 0 → s.SendsOut v (fun q => q.info = [2, cid, pmt, p.rctx, p.credit, 0, 0, p.rten])) ∧
      (p.credit = 0 → v.sent = s.sent))) ∧
    (p.state ≠ 2 ∨ s.frame < p.expiry → exec (.permitExpire cid pmt) s = .next s) ∧
    -- a row that draws x in the frame f
    ∀ f x, (p.refuses f x = some 1 ↔ p.state = 4 ∨ (p.state = 2 ∧ p.expiry ≤ f)) ∧
      (p.refuses f x = some 3 ↔ p.state ≠ 2 ∧ p.state ≠ 4 ∧ p.state ≠ 5) ∧
      (p.refuses f x = some 2 ↔ ((p.state = 2 ∧ f < p.expiry) ∨ p.state = 5) ∧ p.credit < x) ∧
      (p.refuses f x = none ↔ ((p.state = 2 ∧ f < p.expiry) ∨ p.state = 5) ∧ x ≤ p.credit)) ∧
  (∀ (p : Packet) (s : State) (cid n rctx unused drawn rten : Nat),
    let gone := fun (r : Region) => r.srcPkg = fld p.rw 11 11 ∧ r.srcCid = cid ∧ r.cid = rctx ∧ r.dest.remote = true ∧ r.dest.pmt = n
    s.hasReceiver rctx rten = true →
    (p.info = [2, cid, n, rctx, unused, drawn, 0, rten] → Turns (.permitReturnReceive p) s (fun v =>
      (v.ctx rctx).pool = (s.ctx rctx).pool + unused + drawn ∧ v.regions = s.regions ∧ v.mem = s.mem)) ∧
    (p.info = [2, cid, n, rctx, unused, drawn, 1, rten] → Turns (.permitReturnReceive p) s (fun v =>
      (v.ctx rctx).pool = (s.ctx rctx).pool + unused + drawn ∧ ∀ r, r ∈ v.regions ↔ r ∈ s.regions ∧ ¬ gone r)))

/-! ### Management -/

/-- The life of contexts and kernels (R93, R94, R108, R263, R264, R268, R269): created, loaded, launched, pre-empted, resumed, aborted,
unloaded, destroyed. What the loader makes of a text whose paths its words do not settle is left open (log 7); the order of frees (log
17), and that HOST_RESUME of a whole SUSPENDED context needs no FSTOP (log 18), are the model's readings. -/
def Obligations.ContextCommands : Prop :=
  ∀ s : State, s.serving = true → s.mgmtIn = [] →
    let refused := fun (i : Instr) => exec i s = .next { s with status := some .refused }
    let busy := fun (i : Instr) => exec i s = .next { s with status := some .busy }
    let does := fun (i : Instr) (p : State → Prop) => Turns i s (fun v => v.status = some .done ∧ v.mem = s.mem ∧ p v)
    (∀ cid tenant, cid < 1024 → tenant < 16 → (∀ c, alook s.ctxs cid = some c → c.state = .destroyed) →
      does (.contextCreate cid tenant) (fun v => v.ctx cid = { tenant := tenant } ∧ ∀ x, x ≠ cid → v.ctx x = s.ctx x)) ∧
    (∀ cid tenant c, alook s.ctxs cid = some c → c.state ≠ .destroyed → refused (.contextCreate cid tenant)) ∧
    (∀ cid, (s.ctx cid).state = .destroyed ∨ alook s.ctxs cid = none → refused (.contextDestroy cid)) ∧
    (∀ cid c, alook s.ctxs cid = some c → c.state ≠ .destroyed → (∀ t ∈ s.tasks, t.cid ≠ cid) → s.gslots = [] →
      s.regions = [] → c.permits = [] →
      does (.contextDestroy cid) (fun v => (v.ctx cid).state = .draining ∧ (v.ctx cid).frwait = [] ∧
        (∀ tenant q, v.pqueue tenant q = (s.pqueue tenant q).filter (fun x => x.2 ≠ cid)) ∧ v.tasks = s.tasks)) ∧
    (∀ cid c, alook s.ctxs cid = some c → c.state = .draining → s.drained cid = true → c.segs = [] →
      Turns (.contextDestroyed cid) s (fun v => (v.ctx cid).state = .destroyed ∧ (v.ctx cid).image = none ∧ v.core.owner ≠ some cid ∧
        cid ∉ v.core.seen ∧ (∀ w ∈ v.waitq, w.1 ≠ cid) ∧ v.mem = s.mem)) ∧
    (∀ cid, (s.ctx cid).state ≠ .draining ∨ s.drained cid = false → exec (.contextDestroyed cid) s = .next s) ∧
    (∀ cid, (s.ctx cid).state ≠ .running → refused (.preempt cid)) ∧
    (∀ cid c, alook s.ctxs cid = some c → c.state = .running →
      does (.preempt cid) (fun v => (s.core.run = .running → s.core.task.cid = cid →
        (∃ t ∈ s.tasks, t.cid = cid ∧ t.state = .running ∧ t.core = some s.cur) → v.core.preempt = true) ∧
        (s.core.task.cid ≠ cid → v.core = s.core) ∧
        ((∀ k : CoreSt, k = s.core ∨ k ∈ s.parked.map (·.2) → k.stopping cid = false) →
          (∀ t ∈ s.tasks, t.cid = cid → t.state ≠ .running ∧ t.autoWaits = false) →
          c.kstate ≠ .launched → (v.ctx cid).state = .suspended))) ∧
    -- resume and abort
    -- a task that waits under AUTO is not suspended
    (∀ cid id t, s.tasks.find? (fun t => t.cid = cid && t.state = .faulted && !t.autoWaits && t.id = id) = some t →
      ((∀ b ∈ t.rstb, b = true) → does (.hostResume cid (some id)) (fun v =>
        ∃ y ∈ v.tasks, y.cid = cid ∧ y.id = id ∧ y.state = .ready ∧ y.resume = true ∧ y.core = t.core ∧ y.snap = t.snap)) ∧
      ((∃ b ∈ t.rstb, b = false) → refused (.hostResume cid (some id)))) ∧
    (∀ cid id, (∀ t ∈ s.tasks, t.cid = cid → t.id = id → t.state ≠ .faulted ∨ t.autoWaits = true) → refused (.hostResume cid (some id))) ∧
    (∀ cid c, alook s.ctxs cid = some c → c.state = .suspended → c.preempting = false → (∀ t ∈ s.tasks, t.cid = cid → t.state = .suspended) →
      (∃ t ∈ s.tasks, t.cid = cid) →
      does (.hostResume cid none) (fun v => (v.ctx cid).state = .runnable ∧ ∀ t ∈ v.tasks, t.cid = cid → t.state = .ready ∧ t.resume = true)) ∧
    -- of two tasks with one TASK, the one that a fault has suspended is meant
    (∀ cid id t, (s.suspendedTasks cid).find? (fun t => t.id = id) = some t ∨ ((∀ x ∈ s.suspendedTasks cid, x.id ≠ id) ∧
        s.tasks.find? (fun t => t.named cid id && (!t.queued && t.state ≠ .retiring)) = some t) → t.core = none → t.snap = none → t.pinned = false →
      does (.hostAbort cid (some id)) (fun v => v.tasks =
        s.tasks.eraseP (fun x => x.is cid t.key && x.core = none && x.state = t.state && x.clu = t.clu) ∧
        v.signals = s.signals)) ∧
    (∀ cid id, (∀ t ∈ s.tasks, t.cid = cid → t.id = id → t.queued = true ∨ t.state = .retiring) → refused (.hostAbort cid (some id))) ∧
    (∀ cid, (s.ctx cid).fstop = false → refused (.hostAbort cid none)) ∧
    -- kernels
    (∀ cid img, (alook s.ctxs cid).isNone = true → refused (.kload cid img)) ∧
    (∀ cid img, (alook s.ctxs cid).isSome = true → (s.ctx cid).kstate = .launched → busy (.kload cid img)) ∧
    (∀ cid img c, alook s.ctxs cid = some c → c.kstate ≠ .launched → c.kstate ≠ .none ∨ c.state ≠ .created ∨
      (∃ b ∈ img.bundles, 8192 ≤ b.1) →
      refused (.kload cid img)) ∧
    (∀ cid img c f, alook s.ctxs cid = some c → c.kstate = .none → c.state = .created → (∀ b ∈ img.bundles, b.1 < 8192) →
      imageFailure img = some f → exec (.kload cid img) s = .next { s with loadFail := some f, status := some .refused }) ∧
    (∀ cid img c p m, alook s.ctxs cid = some c → c.kstate = .none → c.state = .created → (∀ b ∈ img.bundles, b.1 < 8192) →
      imageFailure img = none →
      s.partOf c.tenant = some p → p.bindGroup img.gridD img.gridC img.gridK = some m → img.segs = [] → img.tensors = [] → img.data = [] →
      img.tasks = [] → img.fixes = [] →
      (∀ num fresh, ({ s with fresh := fresh, ctxs := aput s.ctxs cid { c with
          group := { num := num, d := img.gridD, c := img.gridC, k := img.gridK, s := img.stages, map := m }, kgroup := true, rega := img.regA,
          regb := img.regB, regs := img.regS, ksegs := [], ktids := [], disp := [], quota := (img.quota.map (· / 64)).getD c.quota } } : State).cellsFit
        c.tenant (m.map (fun e => e.2 / 4)).eraseDups = true) →
      does (.kload cid img) (fun v => (v.ctx cid).state = .loaded ∧ (v.ctx cid).kstate = .loaded ∧ (v.ctx cid).group.map = m ∧
        (v.ctx cid).rega = img.regA ∧ (v.ctx cid).regb = img.regB ∧ (v.ctx cid).regs = img.regS ∧ (v.ctx cid).imgid = Config.imageId img ∧
        (v.ctx cid).cells = [] ∧ (v.ctx cid).image = some img ∧ (p.circ = [] → (v.ctx cid).circ = []))) ∧
    (∀ cid params c img, alook s.ctxs cid = some c → c.kstate ≠ .launched → c.state = .loaded → c.image = some img → params.length = img.params →
      c.pendW = [] →
      does (.klaunch cid params) (fun v => (v.ctx cid).state = .runnable ∧ (v.ctx cid).kstate = .launched ∧ (v.ctx cid).kparams = params ∧
        c.tenant ∈ v.qopen ∧ ∃ l, v.tasks = s.tasks ++ l ∧ l.length = c.group.map.length ∧ v.cards = s.cards + l.length ∧
          ∀ i, (h : i < l.length) → (k : i < c.group.map.length) →
          l[i].launch = true ∧ l[i].state = .ready ∧ l[i].cid = cid ∧ l[i].id = c.group.map[i].1 ∧ l[i].clu = c.group.map[i].1 / 4 ∧
            l[i].serial = s.cards + i ∧
          l[i].cmask = 2 ^ (c.group.map[i].1 % 4) ∧ l[i].prio = c.pcap)) ∧
    (∀ cid params, (s.ctx cid).kstate = .launched → busy (.klaunch cid params)) ∧
    (∀ cid params, (s.ctx cid).kstate ≠ .launched → (s.ctx cid).state = .created → refused (.klaunch cid params)) ∧
    (∀ cid c, alook s.ctxs cid = some c → c.state = .loaded ∨ (c.state = .runnable ∧ c.kstate = .retired) → c.ksegs = [] →
      does (.kunload cid) (fun v => (v.ctx cid).state = .created ∧ (v.ctx cid).kstate = .none ∧ (v.ctx cid).image = none ∧
        (v.ctx cid).kgroup = false ∧ (v.ctx cid).rega = 0 ∧ (v.ctx cid).regb = 0 ∧ (v.ctx cid).regs = 0)) ∧
    (∀ cid, (s.ctx cid).state = .created ∨ (s.ctx cid).state = .running → refused (.kunload cid)) ∧
    -- queues and dispensers
    (∀ tenant q card, tenant < 16 → q < 16 →
      (tenant ∉ s.qopen → exec (.qpush tenant q card) s = .next { s with status := some .full }) ∧
      (tenant ∈ s.qopen → s.hostCard tenant (decodeCard card) = none → refused (.qpush tenant q card)) ∧
      (∀ cid, tenant ∈ s.qopen → s.hostCard tenant (decodeCard card) = some cid →
        ((s.pqueue tenant q).length < 4096 → (s.ctx cid).state ≠ .draining → does (.qpush tenant q card) (fun v => v.pqueue tenant q = s.pqueue tenant q ++ [(card, cid)] ∧
          v.tasks = s.tasks ∧ ∀ t r, r < 16 → (t, r) ≠ (tenant, q) → v.pqueue t r = s.pqueue t r)) ∧
        (4096 ≤ (s.pqueue tenant q).length ∨ (s.ctx cid).state = .draining → exec (.qpush tenant q card) s = .next { s with status := some .full }))) ∧
    (∀ cid disp count width, (s.ctx cid).kgroup = true → disp < 16 → count < 2 ^ 32 → 0 < width → width ≤ 2 ^ 16 →
      does (.dspcfg cid disp count width) (fun v => (v.ctx cid).disp.find? (fun d => d.1 = disp) = some (disp, 0, count, width) ∧
        ∀ x, x ≠ disp → (v.ctx cid).disp.find? (fun d => d.1 = x) = (s.ctx cid).disp.find? (fun d => d.1 = x))) ∧
    (∀ cid disp count width, (s.ctx cid).kgroup = false ∨ 16 ≤ disp ∨ 2 ^ 32 ≤ count ∨ width = 0 ∨ 2 ^ 16 < width →
      refused (.dspcfg cid disp count width))

/-- The management window and the fabric's commands (R95, R107, R109, R279, R342, R343, R350, R351, R354, R361): reads and writes of the
spaces, links, groups, pools, partitions. The limits of a partition's shares and who may issue a command are the model's readings (log 23,
log 26), and so are the layout of the spaces that the spec does not state (log 16), that ldisable treats waiting packets as it treats the
replay buffer (log 21), and what the packets of PRESET and of responses carry (log 15). -/
def Obligations.WindowCommands : Prop :=
  (∀ s : State, s.serving = true → s.mgmtIn = [] →
    let refused := fun (i : Instr) => exec i s = .next { s with status := some .refused }
    let does := fun (i : Instr) (p : State → Prop) => Turns i s (fun v => v.status = some .done ∧ v.mem = s.mem ∧ p v)
    -- reads: 1 to 64 bytes inside the space, for its tenant or the fabric owner
    (∀ net sp off len bs, sp ≠ .frozenBits true → sp ≠ .frozenBits false → s.spaceBytes (s.seenBy net sp) = some bs →
      let may := net = 63 ∨ ∃ t, s.spaceTenant sp = some t ∧ s.fabTenant t = net
      (may → 0 < len → len ≤ 64 → off + len ≤ bs.length →
        exec (.mrd net sp off len) s = .next { s with out := (bs.drop off).take len, status := some .done }) ∧
      (len = 0 ∨ 64 < len ∨ ¬ may ∨ bs.length < off + len → refused (.mrd net sp off len))) ∧
    (∀ clu, clu < 64 → s.spaceBytes (.monitors clu) = some (bytesLE 2 (s.mon clu).temp.toNat ++ bytesLE 2 (s.mon clu).vcore.toNat ++
      bytesLE 2 (s.mon clu).vsram.toNat ++ bytesLE 2 (s.mon clu).proc.toNat)) ∧
    (∀ cid c, alook s.ctxs cid = some c → c.pendW = [] → s.spaceBytes (.ctxBlock cid) = some (bytesLE 64 (c.block cid).toNat)) ∧
    (∀ tid page t, s.tensor tid = some t → (∀ net, net = 63 ∨ t.tenant ∉ s.virt → s.seenBy net (.tileEntry tid page) = .tileEntry tid page) ∧
      (∀ net, net ≠ 63 → t.tenant ∈ s.virt → s.seenBy net (.tileEntry tid page) = .guestEntry tid page)) ∧
    -- writes
    (∀ cid off data c, alook s.ctxs cid = some c → c.frwait = [] → 0 < data.length → data.length ≤ 64 → off + data.length ≤ 64 →
      (let t := (bytesLE 64 (c.written cid).toNat).take off ++ data ++ (bytesLE 64 (c.written cid).toNat).drop (off + data.length)
       does (.mwr 63 (.ctxBlock cid) off data) (fun v =>
          (off < 20 → 16 < off + data.length → (v.ctx cid).quota = natLE ((t.drop 16).take 4)) ∧
          (off + data.length ≤ 16 ∨ 20 ≤ off → (v.ctx cid).quota = c.quota) ∧
          (off ≤ 24 → 24 < off + data.length → (v.ctx cid).frhead = natLE ((t.drop 24).take 1)) ∧
          (v.ctx cid).state = c.state ∧ (v.ctx cid).pcap = c.pcap ∧ (v.ctx cid).tenant = c.tenant ∧
          (off ≤ 2 → 2 < off + data.length → (16, 5, natLE ((t.drop 2).take 1) % 2 ^ 5) ∈ (v.ctx cid).pendW)))) ∧
    (∀ tenant b, tenant < 16 → does (.mwr 63 (.virtualised tenant) 0 [b])
      (fun v => (tenant ∈ v.virt ↔ b ≠ 0) ∧ ∀ x, x ≠ tenant → (x ∈ v.virt ↔ x ∈ s.virt))) ∧
    (∀ x y b, x < 63 → y < 63 → does (.mwr 63 (.peering x y) 0 [b]) (fun v => (v.peered x y = true ↔ x = y ∨ b ≠ 0) ∧ v.peered y x = v.peered x y)) ∧
    (∀ tenant (b : Byte), tenant < 16 → b.toNat < 63 → does (.mwr 63 (.fabricTenant tenant) 0 [b]) (fun v => v.fabTenant tenant = b.toNat ∧
      ∀ x, x ≠ tenant → v.fabTenant x = s.fabTenant x)) ∧
    (∀ sp off data, data = [] ∨ 64 < data.length → refused (.mwr 63 sp off data)) ∧
    -- a guest's write of its own tile table is left to its host
    (∀ net tid page off data t, s.tensor tid = some t → t.tenant ∈ s.virt → net ≠ 63 → s.fabTenant t.tenant = net → page < t.npage →
      0 < data.length → off + data.length ≤ 8 → Turns (.mwr net (.tileEntry tid page) off data) s (fun v => v.status = some .deferred ∧
        v.guestT = s.guestT ∧ v.mem = s.mem ∧ v.notices.length = s.notices.length + 1)) ∧
    -- a write to what is RO is ignored
    (∀ sp off data bs, (∃ c i, sp = .segDesc c i) ∨ (∃ c i t, sp = .segTile c i t) ∨ (∃ t p, sp = .tileEntry t p) ∨ (∃ t, sp = .tensorDesc t) ∨
        (∃ c u n, sp = .cell c u n) ∨ (∃ c n, sp = .dispenser c n) ∨ (∃ t i, sp = .slipLog t i) ∨ (∃ t, sp = .slipCount t) ∨
        (∃ c n, sp = .permit c n) ∨ (∃ l, sp = .linkBlock l) ∨ (∃ n, sp = .orphan n) ∨ (∃ c, sp = .monitors c) ∨ (∃ d, sp = .dualm d) →
      s.spaceBytes sp = some bs → 0 < data.length → data.length ≤ 64 → off + data.length ≤ bs.length →
      exec (.mwr 63 sp off data) s = .next { s with status := some .done }) ∧
    (∀ sp off data bs, sp ≠ .frozenBits true → sp ≠ .frozenBits false → s.spaceBytes sp = some bs → bs.length < off + data.length →
      refused (.mwr 63 sp off data)) ∧
    (∀ lp off data, 0 < data.length → data.length ≤ 64 → off + data.length ≤ (if lp then Config.lpFrames else s.hbmFrames) / 8 →
      does (.mwr 63 (.frozenBits lp) off data) (fun v => v.frozenBytes lp off data.length = data)) ∧
    (∀ cid data c, alook s.ctxs cid = some c → data.length = 64 → does (.mwr 63 (.breakpoints cid) 0 data) (fun v =>
      (v.ctx cid).bps = (List.range 8).map (fun i => (i, BitVec.ofNat 64 (breakWord (nfld (natLE data) (64 * i) 64)))) ∧ (v.ctx cid).state = c.state)) ∧
    (∀ n, n ≤ 1024 → does (.mwr 63 .timeRoot 0 (bytesLE 2 n)) (fun v => v.timeRoot = if n = 0 then none else some (n - 1))) ∧
    (∀ cid h g d c, alook s.ctxs cid = some c → c.frwait = [] → h < 256 → g < 2 ^ 16 → d < 256 →
      does (.frheadWrite cid (some h) (some g) (some d)) (fun v => (v.ctx cid).frhead = h ∧ (v.ctx cid).frseg.toNat = g ∧ (v.ctx cid).frdepth = d ∧
        (v.ctx cid).state = c.state)) ∧
    -- links
    (∀ l, l < 24 →
      let k := s.link l
      (k.state = 0 ∨ k.state = 4 → does (.lenable l) (fun v => v.link l = { k with state := 1, trains := 0 } ∧ ∀ x, x ≠ l → v.link x = s.link x)) ∧
      (k.state = 1 ∨ k.state = 2 ∨ k.state = 3 → refused (.lenable l)) ∧
      (k.replay = [] → k.waiting = [] → does (.ldisable l) (fun v => (v.link l).state = 0 ∧ (v.link l).sync = false ∧ v.orphans = s.orphans)) ∧
      (k.alt = none → does (.ldisable l) (fun v => (v.link l).state = 0 ∧ (v.link l).replay = [] ∧
        v.orphans.length = s.orphans.length + k.replay.length + k.waiting.length)) ∧
      does (.lclr l) (fun v => v.link l = { k with crcerr := 0, hcorr := 0, hunc := 0, replays := 0 } ∧ v.sent = s.sent)) ∧
    (∀ tenant grp members, tenant < 16 → grp < 64 → members ≠ [] → members.length ≤ 1024 → (∀ m ∈ members, m.1 < 1024 ∧ m.2 < 1024) →
      does (.collcfg tenant grp members) (fun v => alook v.groups (tenant * 64 + grp) = some members ∧ alook v.colls (tenant * 64 + grp) = some 0)) ∧
    (∀ tenant grp members, 16 ≤ tenant ∨ 64 ≤ grp ∨ members = [] ∨ 1024 < members.length ∨ (∃ m ∈ members, 1024 ≤ m.1 ∨ 1024 ≤ m.2) →
      refused (.collcfg tenant grp members)) ∧
    (∀ cid pool c, alook s.ctxs cid = some c → does (.pmcfg cid pool) (fun v => v.ctx cid = { c with pool := pool })) ∧
    (∀ part p, s.parts[part]? = some p → (∀ c ∈ s.ctxs, c.2.tenant = p.tenant → ∀ x ∈ (s.ctx c.1).permits, x.2.state = 0) →
      does (.preset part) (fun v => v.ctxs = s.ctxs ∧ v.sent = s.sent)) ∧
    (∀ part p cid n (c : Ctx) (x : Permit), s.parts[part]? = some p → s.ctxs = [(cid, c)] → c.tenant = p.tenant → c.permits = [(n, x)] → x.state ≠ 0 →
      does (.preset part) (fun v => (v.permit cid n).state = 0 ∧
        -- an answer that is still to come is not lost
        (x.state = 1 → ∃ a ∈ (v.ctx cid).asks, a.pmt = n ∧ a.opid = x.opid ∧ a.ask = x.ask ∧ a.rctx = x.rctx) ∧
        s.SendsOut v (fun q => q.info = [2, cid, n, x.rctx, x.credit, x.drawn, 1, x.rten] ∧ fld q.rw 0 11 = x.pkg % 2048))) ∧
    (∀ part, s.parts.length ≤ part → refused (.preset part)) ∧
    -- partitions
    (∀ (p : PartitionSpec), s.parts = [] → p.tenant < 16 → (∀ k ∈ p.cores, k < 256 ∧ (alook s.cstate (k / 4)).getD 0 ≠ 3) → p.shares = [] →
      p.links = [] → p.pipes = [] → p.qshare % 16 = 0 → p.qshare ≤ 1024 → p.jshare % 65536 = 0 → (∀ x ∈ p.linkMap, x.2 < 24) →
      (∀ e ∈ p.circ, e.1 < 64) →
      does (.partitionCreate p) (fun v => ∃ x, v.partOf p.tenant = some x ∧ x.f = s.frame ∧ x.qshare = p.qshare ∧ x.jshare = p.jshare ∧
        (∀ k, k ∈ x.cores ↔ k ∈ p.cores) ∧ x.cores.Nodup ∧ x.slip = none ∧ x.slipCnt = 0 ∧ x.linkMap = p.linkMap ∧ x.circ = p.circ)) ∧
    (∀ (p : PartitionSpec), (s.partOf p.tenant).isSome = true ∨ 16 ≤ p.tenant ∨ (∃ k ∈ p.cores, 256 ≤ k ∨ ∃ q ∈ s.parts, k ∈ q.cores) ∨
      p.qshare % 16 ≠ 0 ∨ p.jshare % 65536 ≠ 0 → refused (.partitionCreate p))) ∧
  -- a command that a SYS packet brought: its response, and whom it may concern
  (∀ (s : State) (q : MgmtReq) (rest : List MgmtReq) (cid pool : Nat) (c : Ctx), s.serving = true → s.mgmtIn = q :: rest → alook s.ctxs cid = some c →
    let back := fun (v : State) (n : Nat) => v.mgmtIn = rest ∧ s.SendsOut v (fun p => p.info = [n] ∧ fld p.rw 0 11 = q.srce % 2 ^ 11 ∧
      fld p.rw 22 6 = q.net % 2 ^ 6 ∧ fld p.rw 38 2 = 3 ∧ fld p.rw 40 4 = 5 ∧ fld p.rw 62 16 = q.opid % 2 ^ 16)
    (q.net = 63 ∨ q.net = s.fabTenant c.tenant →
      Turns (.pmcfg cid pool) s (fun v => v.status = some .done ∧ v.ctx cid = { c with pool := pool } ∧ back v 0)) ∧
    -- what acts on the package or the fabric as a whole is the fabric owner's alone
    (q.net ≠ 63 → ∀ i, (∃ l, i = Instr.lenable l) ∨ (∃ l, i = Instr.ldisable l) ∨ (∃ l, i = Instr.lclr l) ∨ (∃ p, i = Instr.partitionCreate p) ∨
        (∃ n f, i = Instr.poolcfg n f) ∨ (∃ b, i = Instr.dswap b) ∨ (∃ a b, i = Instr.pwrcap a b) →
      Turns i s (fun v => v.status = some .refused ∧ v.parts = s.parts ∧ v.throttle = s.throttle ∧ v.mem = s.mem ∧ back v 2)) ∧
    -- the bytes that MRD reads come with its response
    (∀ net sp off len bs, net = 63 → q.net = 63 → sp ≠ .frozenBits true → sp ≠ .frozenBits false → s.spaceBytes (s.seenBy net sp) = some bs →
      0 < len → len ≤ 64 → off + len ≤ bs.length → Turns (.mrd net sp off len) s (fun v => v.status = some .done ∧ v.mgmtIn = rest ∧
        s.SendsOut v (fun p => p.info = [0] ∧ p.data = (bs.drop off).take len ∧ fld p.rw 40 4 = 5 ∧ fld p.rw 62 16 = q.opid % 2 ^ 16))) ∧
    (q.net ≠ 63 → q.net ≠ s.fabTenant c.tenant → Turns (.pmcfg cid pool) s (fun v => v.status = some .refused ∧ v.ctxs = s.ctxs ∧ back v 2)))

/-- Power, bring-up and security (R355, R356, R358, R360): nothing but FWLOAD is served in DARK, BOOT and FWFAIL; the states follow one
another; power lost leaves only security storage and the firmware of the module. Which images verify, what a signature is and the layout
of a quote are left open (log 7); that POWER_GOOD authenticates at once and that the image outlasts power are the model's readings (log
23). -/
def Obligations.BringUp : Prop :=
  (∀ s : State, s.pstate = .dark ∨ s.pstate = .boot →
    let ok := firmwareValid s.vendorKey s.firmware = true
    (ok → Turns .powerGood s (fun v => v.pstate = .bringup ∧ (alook v.cstate 0).getD 0 = 1 ∧ v.links = s.links)) ∧
    (¬ ok → Turns .powerGood s (fun v => v.pstate = .fwfail ∧ v.cstate = s.cstate ∧ ∀ l, l < 24 → (s.link l).state = 0 ∨ (s.link l).state = 4 →
      (v.link l).state = 1 ∧ (v.link l).trains = 0))) ∧
  (∀ s : State, s.pstate ≠ .dark → s.pstate ≠ .boot → exec .powerGood s = .next s) ∧
  (∀ s : State, s.pstate = .fwfail → s.mgmtIn = [] → ∀ image,
    (firmwareValid s.vendorKey image = true → exec (.fwload image true) s = .next { s with firmware := image, pstate := .boot, status := some .done }) ∧
    (firmwareValid s.vendorKey image = false → exec (.fwload image true) s = .next { s with status := some .refused }) ∧
    exec (.fwload image false) s = .next { s with status := some .refused }) ∧
  (∀ s : State, s.pstate ≠ .fwfail → s.mgmtIn = [] → ∀ image owner, exec (.fwload image owner) s = .next { s with status := some .refused }) ∧
  (∀ s : State, s.pstate = .dark ∨ s.pstate = .boot ∨ s.pstate = .fwfail → s.mgmtIn = [] →
    ∀ i, (∃ a b, i = Instr.contextCreate a b) ∨ (∃ a b, i = Instr.kload a b) ∨ (∃ a b, i = Instr.klaunch a b) ∨ (∃ a b c, i = Instr.qpush a b c) ∨
      (∃ a b, i = Instr.pwrcap a b) ∨ (∃ a, i = Instr.attest a) ∨ (∃ a b c d, i = Instr.mrd a b c d) ∨ (∃ a b c d, i = Instr.mwr a b c d) ∨
      (∃ a, i = Instr.lenable a) ∨ (∃ a, i = Instr.partitionCreate a) ∨ (∃ a, i = Instr.preempt a) →
      exec i s = .next { s with status := some .refused }) ∧
  (∀ (clu : Nat) (s : State), clu < 64 → s.pstate = .bringup →
    let st := fun (c : Nat) => (alook s.cstate c).getD 0
    let only := fun (v : State) => ∀ c, c ≠ clu → (alook v.cstate c).getD 0 = st c
    (st clu = 0 → clu = 0 ∨ st (clu - 1) ≠ 0 → Turns (.clusterStart clu) s (fun v => (alook v.cstate clu).getD 0 = 1 ∧ only v)) ∧
    (st clu ≠ 0 ∨ (clu ≠ 0 ∧ st (clu - 1) = 0) → exec (.clusterStart clu) s = .next s) ∧
    -- a failed cluster is reported and left out of every partition
    (st clu = 1 → Turns (.selftestDone clu true) s (fun v => (alook v.cstate clu).getD 0 = 2 ∧ only v ∧ v.notices = s.notices ∧ v.parts = s.parts) ∧
      Turns (.selftestDone clu false) s (fun v => (alook v.cstate clu).getD 0 = 3 ∧ only v ∧ v.notices = s.notices ++ [.clusterFailed clu] ∧
        ∀ p ∈ v.parts, ∀ k ∈ p.cores, k / 4 ≠ clu)) ∧
    (st clu ≠ 1 → ∀ ok, exec (.selftestDone clu ok) s = .next s)) ∧
  -- a stack's word holds its failed trials above its result: 1 trained, 2 failed
  (∀ (stack : Nat) (s : State), stack < 8 → s.pstate = .bringup →
    let x := (alook s.hbm stack).getD 0
    x % 4 = 0 → (∀ k, k < stack → (alook s.hbm k).getD 0 % 4 ≠ 0) →
    Turns (.hbmTrainingDone stack true) s (fun v => (alook v.hbm stack).getD 0 % 4 = 1 ∧ v.notices = s.notices) ∧
    (x < 8 → Turns (.hbmTrainingDone stack false) s (fun v => (alook v.hbm stack).getD 0 = x + 4 ∧ v.notices = s.notices)) ∧
    (8 ≤ x → Turns (.hbmTrainingDone stack false) s (fun v => (alook v.hbm stack).getD 0 % 4 = 2 ∧
      v.notices = s.notices ++ [.stackFailed stack]))) ∧
  (∀ s : State, Turns .powerLost s (fun v => v.firmware = s.firmware ∧ v.leaf = s.leaf ∧ v.serial = s.serial ∧ v.vendorKey = s.vendorKey ∧
    v.pkgKey = s.pkgKey ∧ v.pstate = .dark ∧ v.mem = [] ∧
    v.ctxs = [] ∧ v.tasks = [] ∧ v.parts = [] ∧ v.core = State.reset.core ∧ v.parked = [] ∧ v.links = [])) ∧
  (∀ s : State, s.serving = true → s.mgmtIn = [] → ∀ cap floor,
    (500 ≤ cap → cap ≤ 2000 → floor ≤ 7 → Turns (.pwrcap cap floor) s (fun v => v.status = some .done ∧
      v.throttle.cap = cap ∧ v.throttle.floor = floor ∧
      v.throttle.step = s.throttle.step)) ∧
    (cap < 500 ∨ 2000 < cap ∨ 7 < floor → exec (.pwrcap cap floor) s = .next { s with status := some .refused })) ∧
  (∀ s : State, s.serving = true → s.mgmtIn = [] → ∀ nonce,
    (s.leaf < 2 ^ 20 → Turns (.attest nonce) s (fun v => v.status = some .done ∧ v.leaf = s.leaf + 1 ∧
      v.out = s.quoteBody nonce ++ Config.sign s.pkgKey s.leaf (s.quoteBody nonce))) ∧
    (2 ^ 20 ≤ s.leaf → exec (.attest nonce) s = .next { s with status := some .exhausted }))

/-! ### What every step keeps -/

/-- Memory stays in its canonical form (log 2): no step stores a byte that an unlisted address reads as, or an address twice. The form of
memory is the model's own. -/
def Obligations.MemoryStaysCanonical : Prop := ∀ s t : State, s.Inv → step s = .next t → t.Inv
end

