-- ==== Sys2Proof/Laws/Bits.lean ====
section
/-! SUPPORT. Bit fields as arithmetic. -/

namespace Sys2Proof.Machine

/-- Bits [lo+n-1 : lo] of a word, by division. -/
theorem fld_eq {w : Nat} (x : BitVec w) (lo n : Nat) : fld x lo n = x.toNat / 2 ^ lo % 2 ^ n := by
  simp [fld, BitVec.extractLsb'_toNat, Nat.shiftRight_eq_div_pow]

theorem nfld_eq (x lo n : Nat) : nfld x lo n = x / 2 ^ lo % 2 ^ n := by
  simp [nfld, Nat.shiftRight_eq_div_pow]

theorem fld_lt {w : Nat} (x : BitVec w) (lo n : Nat) : fld x lo n < 2 ^ n := (x.extractLsb' lo n).isLt

/-- A bit is set where its place of the number is odd. -/
theorem bit_eq {w : Nat} (x : BitVec w) (i : Nat) : bit x i = decide (x.toNat / 2 ^ i % 2 = 1) := by
  simp [bit, BitVec.getLsbD, Nat.testBit_eq_decide_div_mod_eq]

theorem b2n_lt (b : Bool) : b2n b < 2 := by cases b <;> decide

@[simp] theorem length_bytesLE (n v : Nat) : (bytesLE n v).length = n := by
  induction n generalizing v with
  | zero => rfl
  | succ n ih => simp [bytesLE, ih]

/-- A number of n bytes is read back from them. -/
theorem natLE_bytesLE (n v : Nat) : natLE (bytesLE n v) = v % 256 ^ n := by
  induction n generalizing v with
  | zero => simp [bytesLE, natLE, Nat.mod_one]
  | succ n ih =>
    simp only [bytesLE, natLE, ih, BitVec.toNat_ofNat]
    have h : v % 256 ^ (n + 1) = v % 256 + 256 * (v / 256 % 256 ^ n) := by
      rw [show 256 ^ (n + 1) = 256 * 256 ^ n from Nat.pow_succ', Nat.mod_mul]
    rw [h]

end Sys2Proof.Machine
end

