-- ==== Sys2Proof/Laws/State.lean ====
section
/-! SUPPORT. What each plain update leaves of each field of State and CoreSt. -/

namespace Sys2Proof.Machine

@[simp] theorem State.upd_cur (s : State) (f : CoreSt → CoreSt) : (s.upd f).cur = s.cur := rfl
@[simp] theorem State.upd_core (s : State) (f : CoreSt → CoreSt) : (s.upd f).core = f s.core := rfl
@[simp] theorem State.upd_parked (s : State) (f : CoreSt → CoreSt) : (s.upd f).parked = s.parked := rfl
@[simp] theorem State.upd_away (s : State) (f : CoreSt → CoreSt) : (s.upd f).away = s.away := rfl
@[simp] theorem State.upd_agenda (s : State) (f : CoreSt → CoreSt) : (s.upd f).agenda = s.agenda := rfl
@[simp] theorem State.upd_turns (s : State) (f : CoreSt → CoreSt) : (s.upd f).turns = s.turns := rfl
@[simp] theorem State.upd_fresh (s : State) (f : CoreSt → CoreSt) : (s.upd f).fresh = s.fresh := rfl
@[simp] theorem State.upd_mem (s : State) (f : CoreSt → CoreSt) : (s.upd f).mem = s.mem := rfl
@[simp] theorem State.upd_ctxs (s : State) (f : CoreSt → CoreSt) : (s.upd f).ctxs = s.ctxs := rfl
@[simp] theorem State.upd_tasks (s : State) (f : CoreSt → CoreSt) : (s.upd f).tasks = s.tasks := rfl
@[simp] theorem State.upd_parts (s : State) (f : CoreSt → CoreSt) : (s.upd f).parts = s.parts := rfl
@[simp] theorem State.upd_frame (s : State) (f : CoreSt → CoreSt) : (s.upd f).frame = s.frame := rfl
@[simp] theorem State.upd_qc (s : State) (f : CoreSt → CoreSt) : (s.upd f).qc = s.qc := rfl
@[simp] theorem State.upd_sub (s : State) (f : CoreSt → CoreSt) : (s.upd f).sub = s.sub := rfl
@[simp] theorem State.upd_throttle (s : State) (f : CoreSt → CoreSt) : (s.upd f).throttle = s.throttle := rfl
@[simp] theorem State.upd_mons (s : State) (f : CoreSt → CoreSt) : (s.upd f).mons = s.mons := rfl
@[simp] theorem State.upd_ppwr (s : State) (f : CoreSt → CoreSt) : (s.upd f).ppwr = s.ppwr := rfl
@[simp] theorem State.upd_pkge (s : State) (f : CoreSt → CoreSt) : (s.upd f).pkge = s.pkge := rfl
@[simp] theorem State.upd_pstate (s : State) (f : CoreSt → CoreSt) : (s.upd f).pstate = s.pstate := rfl
@[simp] theorem State.upd_cstate (s : State) (f : CoreSt → CoreSt) : (s.upd f).cstate = s.cstate := rfl
@[simp] theorem State.upd_hbm (s : State) (f : CoreSt → CoreSt) : (s.upd f).hbm = s.hbm := rfl
@[simp] theorem State.upd_firmware (s : State) (f : CoreSt → CoreSt) : (s.upd f).firmware = s.firmware := rfl
@[simp] theorem State.upd_leaf (s : State) (f : CoreSt → CoreSt) : (s.upd f).leaf = s.leaf := rfl
@[simp] theorem State.upd_serial (s : State) (f : CoreSt → CoreSt) : (s.upd f).serial = s.serial := rfl
@[simp] theorem State.upd_vendorKey (s : State) (f : CoreSt → CoreSt) : (s.upd f).vendorKey = s.vendorKey := rfl
@[simp] theorem State.upd_pkgKey (s : State) (f : CoreSt → CoreSt) : (s.upd f).pkgKey = s.pkgKey := rfl
@[simp] theorem State.upd_tensors (s : State) (f : CoreSt → CoreSt) : (s.upd f).tensors = s.tensors := rfl
@[simp] theorem State.upd_badPages (s : State) (f : CoreSt → CoreSt) : (s.upd f).badPages = s.badPages := rfl
@[simp] theorem State.upd_moves (s : State) (f : CoreSt → CoreSt) : (s.upd f).moves = s.moves := rfl
@[simp] theorem State.upd_poolSize (s : State) (f : CoreSt → CoreSt) : (s.upd f).poolSize = s.poolSize := rfl
@[simp] theorem State.upd_floors (s : State) (f : CoreSt → CoreSt) : (s.upd f).floors = s.floors := rfl
@[simp] theorem State.upd_dirtyH (s : State) (f : CoreSt → CoreSt) : (s.upd f).dirtyH = s.dirtyH := rfl
@[simp] theorem State.upd_dirtyL (s : State) (f : CoreSt → CoreSt) : (s.upd f).dirtyL = s.dirtyL := rfl
@[simp] theorem State.upd_splits (s : State) (f : CoreSt → CoreSt) : (s.upd f).splits = s.splits := rfl
@[simp] theorem State.upd_waitq (s : State) (f : CoreSt → CoreSt) : (s.upd f).waitq = s.waitq := rfl
@[simp] theorem State.upd_dualm (s : State) (f : CoreSt → CoreSt) : (s.upd f).dualm = s.dualm := rfl
@[simp] theorem State.upd_dcaches (s : State) (f : CoreSt → CoreSt) : (s.upd f).dcaches = s.dcaches := rfl
@[simp] theorem State.upd_virt (s : State) (f : CoreSt → CoreSt) : (s.upd f).virt = s.virt := rfl
@[simp] theorem State.upd_notices (s : State) (f : CoreSt → CoreSt) : (s.upd f).notices = s.notices := rfl
@[simp] theorem State.upd_guestT (s : State) (f : CoreSt → CoreSt) : (s.upd f).guestT = s.guestT := rfl
@[simp] theorem State.upd_pqueues (s : State) (f : CoreSt → CoreSt) : (s.upd f).pqueues = s.pqueues := rfl
@[simp] theorem State.upd_pqnext (s : State) (f : CoreSt → CoreSt) : (s.upd f).pqnext = s.pqnext := rfl
@[simp] theorem State.upd_qopen (s : State) (f : CoreSt → CoreSt) : (s.upd f).qopen = s.qopen := rfl
@[simp] theorem State.upd_cards (s : State) (f : CoreSt → CoreSt) : (s.upd f).cards = s.cards := rfl
@[simp] theorem State.upd_lateBooks (s : State) (f : CoreSt → CoreSt) : (s.upd f).lateBooks = s.lateBooks := rfl
@[simp] theorem State.upd_bins (s : State) (f : CoreSt → CoreSt) : (s.upd f).bins = s.bins := rfl
@[simp] theorem State.upd_gslots (s : State) (f : CoreSt → CoreSt) : (s.upd f).gslots = s.gslots := rfl
@[simp] theorem State.upd_gwait (s : State) (f : CoreSt → CoreSt) : (s.upd f).gwait = s.gwait := rfl
@[simp] theorem State.upd_regions (s : State) (f : CoreSt → CoreSt) : (s.upd f).regions = s.regions := rfl
@[simp] theorem State.upd_rowIn (s : State) (f : CoreSt → CoreSt) : (s.upd f).rowIn = s.rowIn := rfl
@[simp] theorem State.upd_links (s : State) (f : CoreSt → CoreSt) : (s.upd f).links = s.links := rfl
@[simp] theorem State.upd_sent (s : State) (f : CoreSt → CoreSt) : (s.upd f).sent = s.sent := rfl
@[simp] theorem State.upd_orphans (s : State) (f : CoreSt → CoreSt) : (s.upd f).orphans = s.orphans := rfl
@[simp] theorem State.upd_groups (s : State) (f : CoreSt → CoreSt) : (s.upd f).groups = s.groups := rfl
@[simp] theorem State.upd_tenMap (s : State) (f : CoreSt → CoreSt) : (s.upd f).tenMap = s.tenMap := rfl
@[simp] theorem State.upd_colls (s : State) (f : CoreSt → CoreSt) : (s.upd f).colls = s.colls := rfl
@[simp] theorem State.upd_timeRoot (s : State) (f : CoreSt → CoreSt) : (s.upd f).timeRoot = s.timeRoot := rfl
@[simp] theorem State.upd_mgmtIn (s : State) (f : CoreSt → CoreSt) : (s.upd f).mgmtIn = s.mgmtIn := rfl
@[simp] theorem State.upd_splitIn (s : State) (f : CoreSt → CoreSt) : (s.upd f).splitIn = s.splitIn := rfl
@[simp] theorem State.upd_peers (s : State) (f : CoreSt → CoreSt) : (s.upd f).peers = s.peers := rfl
@[simp] theorem State.upd_opids (s : State) (f : CoreSt → CoreSt) : (s.upd f).opids = s.opids := rfl
@[simp] theorem State.upd_pkg (s : State) (f : CoreSt → CoreSt) : (s.upd f).pkg = s.pkg := rfl
@[simp] theorem State.upd_signals (s : State) (f : CoreSt → CoreSt) : (s.upd f).signals = s.signals := rfl
@[simp] theorem State.upd_status (s : State) (f : CoreSt → CoreSt) : (s.upd f).status = s.status := rfl
@[simp] theorem State.upd_out (s : State) (f : CoreSt → CoreSt) : (s.upd f).out = s.out := rfl
@[simp] theorem State.upd_loadFail (s : State) (f : CoreSt → CoreSt) : (s.upd f).loadFail = s.loadFail := rfl
@[simp] theorem State.tickFresh_cur (s : State) : s.tickFresh.cur = s.cur := rfl
@[simp] theorem State.tickFresh_core (s : State) : s.tickFresh.core = s.core := rfl
@[simp] theorem State.tickFresh_parked (s : State) : s.tickFresh.parked = s.parked := rfl
@[simp] theorem State.tickFresh_away (s : State) : s.tickFresh.away = s.away := rfl
@[simp] theorem State.tickFresh_agenda (s : State) : s.tickFresh.agenda = s.agenda := rfl
@[simp] theorem State.tickFresh_turns (s : State) : s.tickFresh.turns = s.turns := rfl
@[simp] theorem State.tickFresh_fresh (s : State) : s.tickFresh.fresh = s.fresh + 1 := rfl
@[simp] theorem State.tickFresh_mem (s : State) : s.tickFresh.mem = s.mem := rfl
@[simp] theorem State.tickFresh_ctxs (s : State) : s.tickFresh.ctxs = s.ctxs := rfl
@[simp] theorem State.tickFresh_tasks (s : State) : s.tickFresh.tasks = s.tasks := rfl
@[simp] theorem State.tickFresh_parts (s : State) : s.tickFresh.parts = s.parts := rfl
@[simp] theorem State.tickFresh_frame (s : State) : s.tickFresh.frame = s.frame := rfl
@[simp] theorem State.tickFresh_qc (s : State) : s.tickFresh.qc = s.qc := rfl
@[simp] theorem State.tickFresh_sub (s : State) : s.tickFresh.sub = s.sub := rfl
@[simp] theorem State.tickFresh_throttle (s : State) : s.tickFresh.throttle = s.throttle := rfl
@[simp] theorem State.tickFresh_mons (s : State) : s.tickFresh.mons = s.mons := rfl
@[simp] theorem State.tickFresh_ppwr (s : State) : s.tickFresh.ppwr = s.ppwr := rfl
@[simp] theorem State.tickFresh_pkge (s : State) : s.tickFresh.pkge = s.pkge := rfl
@[simp] theorem State.tickFresh_pstate (s : State) : s.tickFresh.pstate = s.pstate := rfl
@[simp] theorem State.tickFresh_cstate (s : State) : s.tickFresh.cstate = s.cstate := rfl
@[simp] theorem State.tickFresh_hbm (s : State) : s.tickFresh.hbm = s.hbm := rfl
@[simp] theorem State.tickFresh_firmware (s : State) : s.tickFresh.firmware = s.firmware := rfl
@[simp] theorem State.tickFresh_leaf (s : State) : s.tickFresh.leaf = s.leaf := rfl
@[simp] theorem State.tickFresh_serial (s : State) : s.tickFresh.serial = s.serial := rfl
@[simp] theorem State.tickFresh_vendorKey (s : State) : s.tickFresh.vendorKey = s.vendorKey := rfl
@[simp] theorem State.tickFresh_pkgKey (s : State) : s.tickFresh.pkgKey = s.pkgKey := rfl
@[simp] theorem State.tickFresh_tensors (s : State) : s.tickFresh.tensors = s.tensors := rfl
@[simp] theorem State.tickFresh_badPages (s : State) : s.tickFresh.badPages = s.badPages := rfl
@[simp] theorem State.tickFresh_moves (s : State) : s.tickFresh.moves = s.moves := rfl
@[simp] theorem State.tickFresh_poolSize (s : State) : s.tickFresh.poolSize = s.poolSize := rfl
@[simp] theorem State.tickFresh_floors (s : State) : s.tickFresh.floors = s.floors := rfl
@[simp] theorem State.tickFresh_dirtyH (s : State) : s.tickFresh.dirtyH = s.dirtyH := rfl
@[simp] theorem State.tickFresh_dirtyL (s : State) : s.tickFresh.dirtyL = s.dirtyL := rfl
@[simp] theorem State.tickFresh_splits (s : State) : s.tickFresh.splits = s.splits := rfl
@[simp] theorem State.tickFresh_waitq (s : State) : s.tickFresh.waitq = s.waitq := rfl
@[simp] theorem State.tickFresh_dualm (s : State) : s.tickFresh.dualm = s.dualm := rfl
@[simp] theorem State.tickFresh_dcaches (s : State) : s.tickFresh.dcaches = s.dcaches := rfl
@[simp] theorem State.tickFresh_virt (s : State) : s.tickFresh.virt = s.virt := rfl
@[simp] theorem State.tickFresh_notices (s : State) : s.tickFresh.notices = s.notices := rfl
@[simp] theorem State.tickFresh_guestT (s : State) : s.tickFresh.guestT = s.guestT := rfl
@[simp] theorem State.tickFresh_pqueues (s : State) : s.tickFresh.pqueues = s.pqueues := rfl
@[simp] theorem State.tickFresh_pqnext (s : State) : s.tickFresh.pqnext = s.pqnext := rfl
@[simp] theorem State.tickFresh_qopen (s : State) : s.tickFresh.qopen = s.qopen := rfl
@[simp] theorem State.tickFresh_cards (s : State) : s.tickFresh.cards = s.cards := rfl
@[simp] theorem State.tickFresh_lateBooks (s : State) : s.tickFresh.lateBooks = s.lateBooks := rfl
@[simp] theorem State.tickFresh_bins (s : State) : s.tickFresh.bins = s.bins := rfl
@[simp] theorem State.tickFresh_gslots (s : State) : s.tickFresh.gslots = s.gslots := rfl
@[simp] theorem State.tickFresh_gwait (s : State) : s.tickFresh.gwait = s.gwait := rfl
@[simp] theorem State.tickFresh_regions (s : State) : s.tickFresh.regions = s.regions := rfl
@[simp] theorem State.tickFresh_rowIn (s : State) : s.tickFresh.rowIn = s.rowIn := rfl
@[simp] theorem State.tickFresh_links (s : State) : s.tickFresh.links = s.links := rfl
@[simp] theorem State.tickFresh_sent (s : State) : s.tickFresh.sent = s.sent := rfl
@[simp] theorem State.tickFresh_orphans (s : State) : s.tickFresh.orphans = s.orphans := rfl
@[simp] theorem State.tickFresh_groups (s : State) : s.tickFresh.groups = s.groups := rfl
@[simp] theorem State.tickFresh_tenMap (s : State) : s.tickFresh.tenMap = s.tenMap := rfl
@[simp] theorem State.tickFresh_colls (s : State) : s.tickFresh.colls = s.colls := rfl
@[simp] theorem State.tickFresh_timeRoot (s : State) : s.tickFresh.timeRoot = s.timeRoot := rfl
@[simp] theorem State.tickFresh_mgmtIn (s : State) : s.tickFresh.mgmtIn = s.mgmtIn := rfl
@[simp] theorem State.tickFresh_splitIn (s : State) : s.tickFresh.splitIn = s.splitIn := rfl
@[simp] theorem State.tickFresh_peers (s : State) : s.tickFresh.peers = s.peers := rfl
@[simp] theorem State.tickFresh_opids (s : State) : s.tickFresh.opids = s.opids := rfl
@[simp] theorem State.tickFresh_pkg (s : State) : s.tickFresh.pkg = s.pkg := rfl
@[simp] theorem State.tickFresh_signals (s : State) : s.tickFresh.signals = s.signals := rfl
@[simp] theorem State.tickFresh_status (s : State) : s.tickFresh.status = s.status := rfl
@[simp] theorem State.tickFresh_out (s : State) : s.tickFresh.out = s.out := rfl
@[simp] theorem State.tickFresh_loadFail (s : State) : s.tickFresh.loadFail = s.loadFail := rfl
@[simp] theorem State.signal_cur (s : State) (x : Signal) : (s.signal x).cur = s.cur := rfl
@[simp] theorem State.signal_core (s : State) (x : Signal) : (s.signal x).core = s.core := rfl
@[simp] theorem State.signal_parked (s : State) (x : Signal) : (s.signal x).parked = s.parked := rfl
@[simp] theorem State.signal_away (s : State) (x : Signal) : (s.signal x).away = s.away := rfl
@[simp] theorem State.signal_agenda (s : State) (x : Signal) : (s.signal x).agenda = s.agenda := rfl
@[simp] theorem State.signal_turns (s : State) (x : Signal) : (s.signal x).turns = s.turns := rfl
@[simp] theorem State.signal_fresh (s : State) (x : Signal) : (s.signal x).fresh = s.fresh := rfl
@[simp] theorem State.signal_mem (s : State) (x : Signal) : (s.signal x).mem = s.mem := rfl
@[simp] theorem State.signal_ctxs (s : State) (x : Signal) : (s.signal x).ctxs = s.ctxs := rfl
@[simp] theorem State.signal_tasks (s : State) (x : Signal) : (s.signal x).tasks = s.tasks := rfl
@[simp] theorem State.signal_parts (s : State) (x : Signal) : (s.signal x).parts = s.parts := rfl
@[simp] theorem State.signal_frame (s : State) (x : Signal) : (s.signal x).frame = s.frame := rfl
@[simp] theorem State.signal_qc (s : State) (x : Signal) : (s.signal x).qc = s.qc := rfl
@[simp] theorem State.signal_sub (s : State) (x : Signal) : (s.signal x).sub = s.sub := rfl
@[simp] theorem State.signal_throttle (s : State) (x : Signal) : (s.signal x).throttle = s.throttle := rfl
@[simp] theorem State.signal_mons (s : State) (x : Signal) : (s.signal x).mons = s.mons := rfl
@[simp] theorem State.signal_ppwr (s : State) (x : Signal) : (s.signal x).ppwr = s.ppwr := rfl
@[simp] theorem State.signal_pkge (s : State) (x : Signal) : (s.signal x).pkge = s.pkge := rfl
@[simp] theorem State.signal_pstate (s : State) (x : Signal) : (s.signal x).pstate = s.pstate := rfl
@[simp] theorem State.signal_cstate (s : State) (x : Signal) : (s.signal x).cstate = s.cstate := rfl
@[simp] theorem State.signal_hbm (s : State) (x : Signal) : (s.signal x).hbm = s.hbm := rfl
@[simp] theorem State.signal_firmware (s : State) (x : Signal) : (s.signal x).firmware = s.firmware := rfl
@[simp] theorem State.signal_leaf (s : State) (x : Signal) : (s.signal x).leaf = s.leaf := rfl
@[simp] theorem State.signal_serial (s : State) (x : Signal) : (s.signal x).serial = s.serial := rfl
@[simp] theorem State.signal_vendorKey (s : State) (x : Signal) : (s.signal x).vendorKey = s.vendorKey := rfl
@[simp] theorem State.signal_pkgKey (s : State) (x : Signal) : (s.signal x).pkgKey = s.pkgKey := rfl
@[simp] theorem State.signal_tensors (s : State) (x : Signal) : (s.signal x).tensors = s.tensors := rfl
@[simp] theorem State.signal_badPages (s : State) (x : Signal) : (s.signal x).badPages = s.badPages := rfl
@[simp] theorem State.signal_moves (s : State) (x : Signal) : (s.signal x).moves = s.moves := rfl
@[simp] theorem State.signal_poolSize (s : State) (x : Signal) : (s.signal x).poolSize = s.poolSize := rfl
@[simp] theorem State.signal_floors (s : State) (x : Signal) : (s.signal x).floors = s.floors := rfl
@[simp] theorem State.signal_dirtyH (s : State) (x : Signal) : (s.signal x).dirtyH = s.dirtyH := rfl
@[simp] theorem State.signal_dirtyL (s : State) (x : Signal) : (s.signal x).dirtyL = s.dirtyL := rfl
@[simp] theorem State.signal_splits (s : State) (x : Signal) : (s.signal x).splits = s.splits := rfl
@[simp] theorem State.signal_waitq (s : State) (x : Signal) : (s.signal x).waitq = s.waitq := rfl
@[simp] theorem State.signal_dualm (s : State) (x : Signal) : (s.signal x).dualm = s.dualm := rfl
@[simp] theorem State.signal_dcaches (s : State) (x : Signal) : (s.signal x).dcaches = s.dcaches := rfl
@[simp] theorem State.signal_virt (s : State) (x : Signal) : (s.signal x).virt = s.virt := rfl
@[simp] theorem State.signal_notices (s : State) (x : Signal) : (s.signal x).notices = s.notices := rfl
@[simp] theorem State.signal_guestT (s : State) (x : Signal) : (s.signal x).guestT = s.guestT := rfl
@[simp] theorem State.signal_pqueues (s : State) (x : Signal) : (s.signal x).pqueues = s.pqueues := rfl
@[simp] theorem State.signal_pqnext (s : State) (x : Signal) : (s.signal x).pqnext = s.pqnext := rfl
@[simp] theorem State.signal_qopen (s : State) (x : Signal) : (s.signal x).qopen = s.qopen := rfl
@[simp] theorem State.signal_cards (s : State) (x : Signal) : (s.signal x).cards = s.cards := rfl
@[simp] theorem State.signal_lateBooks (s : State) (x : Signal) : (s.signal x).lateBooks = s.lateBooks := rfl
@[simp] theorem State.signal_bins (s : State) (x : Signal) : (s.signal x).bins = s.bins := rfl
@[simp] theorem State.signal_gslots (s : State) (x : Signal) : (s.signal x).gslots = s.gslots := rfl
@[simp] theorem State.signal_gwait (s : State) (x : Signal) : (s.signal x).gwait = s.gwait := rfl
@[simp] theorem State.signal_regions (s : State) (x : Signal) : (s.signal x).regions = s.regions := rfl
@[simp] theorem State.signal_rowIn (s : State) (x : Signal) : (s.signal x).rowIn = s.rowIn := rfl
@[simp] theorem State.signal_links (s : State) (x : Signal) : (s.signal x).links = s.links := rfl
@[simp] theorem State.signal_sent (s : State) (x : Signal) : (s.signal x).sent = s.sent := rfl
@[simp] theorem State.signal_orphans (s : State) (x : Signal) : (s.signal x).orphans = s.orphans := rfl
@[simp] theorem State.signal_groups (s : State) (x : Signal) : (s.signal x).groups = s.groups := rfl
@[simp] theorem State.signal_tenMap (s : State) (x : Signal) : (s.signal x).tenMap = s.tenMap := rfl
@[simp] theorem State.signal_colls (s : State) (x : Signal) : (s.signal x).colls = s.colls := rfl
@[simp] theorem State.signal_timeRoot (s : State) (x : Signal) : (s.signal x).timeRoot = s.timeRoot := rfl
@[simp] theorem State.signal_mgmtIn (s : State) (x : Signal) : (s.signal x).mgmtIn = s.mgmtIn := rfl
@[simp] theorem State.signal_splitIn (s : State) (x : Signal) : (s.signal x).splitIn = s.splitIn := rfl
@[simp] theorem State.signal_peers (s : State) (x : Signal) : (s.signal x).peers = s.peers := rfl
@[simp] theorem State.signal_opids (s : State) (x : Signal) : (s.signal x).opids = s.opids := rfl
@[simp] theorem State.signal_pkg (s : State) (x : Signal) : (s.signal x).pkg = s.pkg := rfl
@[simp] theorem State.signal_signals (s : State) (x : Signal) : (s.signal x).signals = s.signals ++ [{ x with sent := s.turns }] := rfl
@[simp] theorem State.signal_status (s : State) (x : Signal) : (s.signal x).status = s.status := rfl
@[simp] theorem State.signal_out (s : State) (x : Signal) : (s.signal x).out = s.out := rfl
@[simp] theorem State.signal_loadFail (s : State) (x : Signal) : (s.signal x).loadFail = s.loadFail := rfl
@[simp] theorem State.stage_cur (s : State) (es : List Eff) : (s.stage es).cur = s.cur := rfl
@[simp] theorem State.stage_parked (s : State) (es : List Eff) : (s.stage es).parked = s.parked := rfl
@[simp] theorem State.stage_away (s : State) (es : List Eff) : (s.stage es).away = s.away := rfl
@[simp] theorem State.stage_agenda (s : State) (es : List Eff) : (s.stage es).agenda = s.agenda := rfl
@[simp] theorem State.stage_turns (s : State) (es : List Eff) : (s.stage es).turns = s.turns := rfl
@[simp] theorem State.stage_fresh (s : State) (es : List Eff) : (s.stage es).fresh = s.fresh := rfl
@[simp] theorem State.stage_mem (s : State) (es : List Eff) : (s.stage es).mem = s.mem := rfl
@[simp] theorem State.stage_ctxs (s : State) (es : List Eff) : (s.stage es).ctxs = s.ctxs := rfl
@[simp] theorem State.stage_tasks (s : State) (es : List Eff) : (s.stage es).tasks = s.tasks := rfl
@[simp] theorem State.stage_parts (s : State) (es : List Eff) : (s.stage es).parts = s.parts := rfl
@[simp] theorem State.stage_frame (s : State) (es : List Eff) : (s.stage es).frame = s.frame := rfl
@[simp] theorem State.stage_qc (s : State) (es : List Eff) : (s.stage es).qc = s.qc := rfl
@[simp] theorem State.stage_sub (s : State) (es : List Eff) : (s.stage es).sub = s.sub := rfl
@[simp] theorem State.stage_throttle (s : State) (es : List Eff) : (s.stage es).throttle = s.throttle := rfl
@[simp] theorem State.stage_mons (s : State) (es : List Eff) : (s.stage es).mons = s.mons := rfl
@[simp] theorem State.stage_ppwr (s : State) (es : List Eff) : (s.stage es).ppwr = s.ppwr := rfl
@[simp] theorem State.stage_pkge (s : State) (es : List Eff) : (s.stage es).pkge = s.pkge := rfl
@[simp] theorem State.stage_pstate (s : State) (es : List Eff) : (s.stage es).pstate = s.pstate := rfl
@[simp] theorem State.stage_cstate (s : State) (es : List Eff) : (s.stage es).cstate = s.cstate := rfl
@[simp] theorem State.stage_hbm (s : State) (es : List Eff) : (s.stage es).hbm = s.hbm := rfl
@[simp] theorem State.stage_firmware (s : State) (es : List Eff) : (s.stage es).firmware = s.firmware := rfl
@[simp] theorem State.stage_leaf (s : State) (es : List Eff) : (s.stage es).leaf = s.leaf := rfl
@[simp] theorem State.stage_serial (s : State) (es : List Eff) : (s.stage es).serial = s.serial := rfl
@[simp] theorem State.stage_vendorKey (s : State) (es : List Eff) : (s.stage es).vendorKey = s.vendorKey := rfl
@[simp] theorem State.stage_pkgKey (s : State) (es : List Eff) : (s.stage es).pkgKey = s.pkgKey := rfl
@[simp] theorem State.stage_tensors (s : State) (es : List Eff) : (s.stage es).tensors = s.tensors := rfl
@[simp] theorem State.stage_badPages (s : State) (es : List Eff) : (s.stage es).badPages = s.badPages := rfl
@[simp] theorem State.stage_moves (s : State) (es : List Eff) : (s.stage es).moves = s.moves := rfl
@[simp] theorem State.stage_poolSize (s : State) (es : List Eff) : (s.stage es).poolSize = s.poolSize := rfl
@[simp] theorem State.stage_floors (s : State) (es : List Eff) : (s.stage es).floors = s.floors := rfl
@[simp] theorem State.stage_dirtyH (s : State) (es : List Eff) : (s.stage es).dirtyH = s.dirtyH := rfl
@[simp] theorem State.stage_dirtyL (s : State) (es : List Eff) : (s.stage es).dirtyL = s.dirtyL := rfl
@[simp] theorem State.stage_splits (s : State) (es : List Eff) : (s.stage es).splits = s.splits := rfl
@[simp] theorem State.stage_waitq (s : State) (es : List Eff) : (s.stage es).waitq = s.waitq := rfl
@[simp] theorem State.stage_dualm (s : State) (es : List Eff) : (s.stage es).dualm = s.dualm := rfl
@[simp] theorem State.stage_dcaches (s : State) (es : List Eff) : (s.stage es).dcaches = s.dcaches := rfl
@[simp] theorem State.stage_virt (s : State) (es : List Eff) : (s.stage es).virt = s.virt := rfl
@[simp] theorem State.stage_notices (s : State) (es : List Eff) : (s.stage es).notices = s.notices := rfl
@[simp] theorem State.stage_guestT (s : State) (es : List Eff) : (s.stage es).guestT = s.guestT := rfl
@[simp] theorem State.stage_pqueues (s : State) (es : List Eff) : (s.stage es).pqueues = s.pqueues := rfl
@[simp] theorem State.stage_pqnext (s : State) (es : List Eff) : (s.stage es).pqnext = s.pqnext := rfl
@[simp] theorem State.stage_qopen (s : State) (es : List Eff) : (s.stage es).qopen = s.qopen := rfl
@[simp] theorem State.stage_cards (s : State) (es : List Eff) : (s.stage es).cards = s.cards := rfl
@[simp] theorem State.stage_lateBooks (s : State) (es : List Eff) : (s.stage es).lateBooks = s.lateBooks := rfl
@[simp] theorem State.stage_bins (s : State) (es : List Eff) : (s.stage es).bins = s.bins := rfl
@[simp] theorem State.stage_gslots (s : State) (es : List Eff) : (s.stage es).gslots = s.gslots := rfl
@[simp] theorem State.stage_gwait (s : State) (es : List Eff) : (s.stage es).gwait = s.gwait := rfl
@[simp] theorem State.stage_regions (s : State) (es : List Eff) : (s.stage es).regions = s.regions := rfl
@[simp] theorem State.stage_rowIn (s : State) (es : List Eff) : (s.stage es).rowIn = s.rowIn := rfl
@[simp] theorem State.stage_links (s : State) (es : List Eff) : (s.stage es).links = s.links := rfl
@[simp] theorem State.stage_sent (s : State) (es : List Eff) : (s.stage es).sent = s.sent := rfl
@[simp] theorem State.stage_orphans (s : State) (es : List Eff) : (s.stage es).orphans = s.orphans := rfl
@[simp] theorem State.stage_groups (s : State) (es : List Eff) : (s.stage es).groups = s.groups := rfl
@[simp] theorem State.stage_tenMap (s : State) (es : List Eff) : (s.stage es).tenMap = s.tenMap := rfl
@[simp] theorem State.stage_colls (s : State) (es : List Eff) : (s.stage es).colls = s.colls := rfl
@[simp] theorem State.stage_timeRoot (s : State) (es : List Eff) : (s.stage es).timeRoot = s.timeRoot := rfl
@[simp] theorem State.stage_mgmtIn (s : State) (es : List Eff) : (s.stage es).mgmtIn = s.mgmtIn := rfl
@[simp] theorem State.stage_splitIn (s : State) (es : List Eff) : (s.stage es).splitIn = s.splitIn := rfl
@[simp] theorem State.stage_peers (s : State) (es : List Eff) : (s.stage es).peers = s.peers := rfl
@[simp] theorem State.stage_opids (s : State) (es : List Eff) : (s.stage es).opids = s.opids := rfl
@[simp] theorem State.stage_pkg (s : State) (es : List Eff) : (s.stage es).pkg = s.pkg := rfl
@[simp] theorem State.stage_signals (s : State) (es : List Eff) : (s.stage es).signals = s.signals := rfl
@[simp] theorem State.stage_status (s : State) (es : List Eff) : (s.stage es).status = s.status := rfl
@[simp] theorem State.stage_out (s : State) (es : List Eff) : (s.stage es).out = s.out := rfl
@[simp] theorem State.stage_loadFail (s : State) (es : List Eff) : (s.stage es).loadFail = s.loadFail := rfl
@[simp] theorem State.stage_core_sregs (s : State) (es : List Eff) : (s.stage es).core.sregs = s.core.sregs := rfl
@[simp] theorem State.stage_core_vregs (s : State) (es : List Eff) : (s.stage es).core.vregs = s.core.vregs := rfl
@[simp] theorem State.stage_core_mregs (s : State) (es : List Eff) : (s.stage es).core.mregs = s.core.mregs := rfl
@[simp] theorem State.stage_core_dfile0 (s : State) (es : List Eff) : (s.stage es).core.dfile0 = s.core.dfile0 := rfl
@[simp] theorem State.stage_core_dfile1 (s : State) (es : List Eff) : (s.stage es).core.dfile1 = s.core.dfile1 := rfl
@[simp] theorem State.stage_core_guards (s : State) (es : List Eff) : (s.stage es).core.guards = s.core.guards := rfl
@[simp] theorem State.stage_core_masks (s : State) (es : List Eff) : (s.stage es).core.masks = s.core.masks := rfl
@[simp] theorem State.stage_core_perms (s : State) (es : List Eff) : (s.stage es).core.perms = s.core.perms := rfl
@[simp] theorem State.stage_core_rings (s : State) (es : List Eff) : (s.stage es).core.rings = s.core.rings := rfl
@[simp] theorem State.stage_core_nest (s : State) (es : List Eff) : (s.stage es).core.nest = s.core.nest := rfl
@[simp] theorem State.stage_core_nt (s : State) (es : List Eff) : (s.stage es).core.nt = s.core.nt := rfl
@[simp] theorem State.stage_core_ntp (s : State) (es : List Eff) : (s.stage es).core.ntp = s.core.ntp := rfl
@[simp] theorem State.stage_core_nxts (s : State) (es : List Eff) : (s.stage es).core.nxts = s.core.nxts := rfl
@[simp] theorem State.stage_core_fmt (s : State) (es : List Eff) : (s.stage es).core.fmt = s.core.fmt := rfl
@[simp] theorem State.stage_core_fmtq (s : State) (es : List Eff) : (s.stage es).core.fmtq = s.core.fmtq := rfl
@[simp] theorem State.stage_core_gen (s : State) (es : List Eff) : (s.stage es).core.gen = s.core.gen := rfl
@[simp] theorem State.stage_core_fst (s : State) (es : List Eff) : (s.stage es).core.fst = s.core.fst := rfl
@[simp] theorem State.stage_core_words (s : State) (es : List Eff) : (s.stage es).core.words = s.core.words := rfl
@[simp] theorem State.stage_core_lines (s : State) (es : List Eff) : (s.stage es).core.lines = s.core.lines := rfl
@[simp] theorem State.stage_core_spx (s : State) (es : List Eff) : (s.stage es).core.spx = s.core.spx := rfl
@[simp] theorem State.stage_core_inputs (s : State) (es : List Eff) : (s.stage es).core.inputs = s.core.inputs := rfl
@[simp] theorem State.stage_core_rt (s : State) (es : List Eff) : (s.stage es).core.rt = s.core.rt := rfl
@[simp] theorem State.stage_core_mks (s : State) (es : List Eff) : (s.stage es).core.mks = s.core.mks := rfl
@[simp] theorem State.stage_core_dix (s : State) (es : List Eff) : (s.stage es).core.dix = s.core.dix := rfl
@[simp] theorem State.stage_core_res (s : State) (es : List Eff) : (s.stage es).core.res = s.core.res := rfl
@[simp] theorem State.stage_core_res2 (s : State) (es : List Eff) : (s.stage es).core.res2 = s.core.res2 := rfl
@[simp] theorem State.stage_core_inflight (s : State) (es : List Eff) : (s.stage es).core.inflight = s.core.inflight := rfl
@[simp] theorem State.stage_core_xfers (s : State) (es : List Eff) : (s.stage es).core.xfers = s.core.xfers := rfl
@[simp] theorem State.stage_core_maskq (s : State) (es : List Eff) : (s.stage es).core.maskq = s.core.maskq := rfl
@[simp] theorem State.stage_core_permq (s : State) (es : List Eff) : (s.stage es).core.permq = s.core.permq := rfl
@[simp] theorem State.stage_core_mark (s : State) (es : List Eff) : (s.stage es).core.mark = s.core.mark := rfl
@[simp] theorem State.stage_core_shadow (s : State) (es : List Eff) : (s.stage es).core.shadow = s.core.shadow := rfl
@[simp] theorem State.stage_core_dshadow (s : State) (es : List Eff) : (s.stage es).core.dshadow = s.core.dshadow := rfl
@[simp] theorem State.stage_core_counted (s : State) (es : List Eff) : (s.stage es).core.counted = s.core.counted := rfl
@[simp] theorem State.stage_core_gated (s : State) (es : List Eff) : (s.stage es).core.gated = s.core.gated := rfl
@[simp] theorem State.stage_core_stores (s : State) (es : List Eff) : (s.stage es).core.stores = s.core.stores := rfl
@[simp] theorem State.stage_core_pc (s : State) (es : List Eff) : (s.stage es).core.pc = s.core.pc := rfl
@[simp] theorem State.stage_core_branches (s : State) (es : List Eff) : (s.stage es).core.branches = s.core.branches := rfl
@[simp] theorem State.stage_core_issued (s : State) (es : List Eff) : (s.stage es).core.issued = s.core.issued := rfl
@[simp] theorem State.stage_core_cycle (s : State) (es : List Eff) : (s.stage es).core.cycle = s.core.cycle := rfl
@[simp] theorem State.stage_core_gates (s : State) (es : List Eff) : (s.stage es).core.gates = s.core.gates := rfl
@[simp] theorem State.stage_core_skipBrk (s : State) (es : List Eff) : (s.stage es).core.skipBrk = s.core.skipBrk := rfl
@[simp] theorem State.stage_core_markNext (s : State) (es : List Eff) : (s.stage es).core.markNext = s.core.markNext := rfl
@[simp] theorem State.stage_core_istore (s : State) (es : List Eff) : (s.stage es).core.istore = s.core.istore := rfl
@[simp] theorem State.stage_core_tags (s : State) (es : List Eff) : (s.stage es).core.tags = s.core.tags := rfl
@[simp] theorem State.stage_core_reload (s : State) (es : List Eff) : (s.stage es).core.reload = s.core.reload := rfl
@[simp] theorem State.stage_core_coord (s : State) (es : List Eff) : (s.stage es).core.coord = s.core.coord := rfl
@[simp] theorem State.stage_core_owner (s : State) (es : List Eff) : (s.stage es).core.owner = s.core.owner := rfl
@[simp] theorem State.stage_core_seen (s : State) (es : List Eff) : (s.stage es).core.seen = s.core.seen := rfl
@[simp] theorem State.stage_core_run (s : State) (es : List Eff) : (s.stage es).core.run = s.core.run := rfl
@[simp] theorem State.stage_core_task (s : State) (es : List Eff) : (s.stage es).core.task = s.core.task := rfl
@[simp] theorem State.stage_core_fill (s : State) (es : List Eff) : (s.stage es).core.fill = s.core.fill := rfl
@[simp] theorem State.stage_core_dcache (s : State) (es : List Eff) : (s.stage es).core.dcache = s.core.dcache := rfl
@[simp] theorem State.stage_core_latch (s : State) (es : List Eff) : (s.stage es).core.latch = s.core.latch := rfl
@[simp] theorem State.stage_core_preempt (s : State) (es : List Eff) : (s.stage es).core.preempt = s.core.preempt := rfl
@[simp] theorem State.stage_core_safe (s : State) (es : List Eff) : (s.stage es).core.safe = s.core.safe := rfl
@[simp] theorem State.stage_core_journal (s : State) (es : List Eff) : (s.stage es).core.journal = s.core.journal := rfl
@[simp] theorem State.stage_core_jsigs (s : State) (es : List Eff) : (s.stage es).core.jsigs = s.core.jsigs := rfl
@[simp] theorem State.stage_core_oldj (s : State) (es : List Eff) : (s.stage es).core.oldj = s.core.oldj := rfl
@[simp] theorem State.stage_core_mat (s : State) (es : List Eff) : (s.stage es).core.mat = s.core.mat := rfl
@[simp] theorem State.stage_core_eng0 (s : State) (es : List Eff) : (s.stage es).core.eng0 = s.core.eng0 := rfl
@[simp] theorem State.stage_core_eng1 (s : State) (es : List Eff) : (s.stage es).core.eng1 = s.core.eng1 := rfl
@[simp] theorem State.stage_core_staged (s : State) (es : List Eff) : (s.stage es).core.staged = s.core.staged ++ es := rfl
@[simp] theorem State.stage_core_raised (s : State) (es : List Eff) : (s.stage es).core.raised = s.core.raised := rfl
@[simp] theorem State.stage_core_held (s : State) (es : List Eff) : (s.stage es).core.held = s.core.held := rfl
@[simp] theorem State.stage_core_ended (s : State) (es : List Eff) : (s.stage es).core.ended = s.core.ended := rfl
@[simp] theorem State.stage_core_holders (s : State) (es : List Eff) : (s.stage es).core.holders = s.core.holders := rfl
@[simp] theorem State.stage_core_holdsNow (s : State) (es : List Eff) : (s.stage es).core.holdsNow = s.core.holdsNow := rfl
@[simp] theorem CoreSt.setPerm_sregs (c : CoreSt) (i : Nat) (p : List Nat) : (c.setPerm i p).sregs = c.sregs := rfl
@[simp] theorem CoreSt.setPerm_vregs (c : CoreSt) (i : Nat) (p : List Nat) : (c.setPerm i p).vregs = c.vregs := rfl
@[simp] theorem CoreSt.setPerm_mregs (c : CoreSt) (i : Nat) (p : List Nat) : (c.setPerm i p).mregs = c.mregs := rfl
@[simp] theorem CoreSt.setPerm_dfile0 (c : CoreSt) (i : Nat) (p : List Nat) : (c.setPerm i p).dfile0 = c.dfile0 := rfl
@[simp] theorem CoreSt.setPerm_dfile1 (c : CoreSt) (i : Nat) (p : List Nat) : (c.setPerm i p).dfile1 = c.dfile1 := rfl
@[simp] theorem CoreSt.setPerm_guards (c : CoreSt) (i : Nat) (p : List Nat) : (c.setPerm i p).guards = c.guards := rfl
@[simp] theorem CoreSt.setPerm_masks (c : CoreSt) (i : Nat) (p : List Nat) : (c.setPerm i p).masks = c.masks := rfl
@[simp] theorem CoreSt.setPerm_perms (c : CoreSt) (i : Nat) (p : List Nat) : (c.setPerm i p).perms = sset idPerm c.perms i p := rfl
@[simp] theorem CoreSt.setPerm_rings (c : CoreSt) (i : Nat) (p : List Nat) : (c.setPerm i p).rings = c.rings := rfl
@[simp] theorem CoreSt.setPerm_nest (c : CoreSt) (i : Nat) (p : List Nat) : (c.setPerm i p).nest = c.nest := rfl
@[simp] theorem CoreSt.setPerm_nt (c : CoreSt) (i : Nat) (p : List Nat) : (c.setPerm i p).nt = c.nt := rfl
@[simp] theorem CoreSt.setPerm_ntp (c : CoreSt) (i : Nat) (p : List Nat) : (c.setPerm i p).ntp = c.ntp := rfl
@[simp] theorem CoreSt.setPerm_nxts (c : CoreSt) (i : Nat) (p : List Nat) : (c.setPerm i p).nxts = c.nxts := rfl
@[simp] theorem CoreSt.setPerm_fmt (c : CoreSt) (i : Nat) (p : List Nat) : (c.setPerm i p).fmt = c.fmt := rfl
@[simp] theorem CoreSt.setPerm_fmtq (c : CoreSt) (i : Nat) (p : List Nat) : (c.setPerm i p).fmtq = c.fmtq := rfl
@[simp] theorem CoreSt.setPerm_gen (c : CoreSt) (i : Nat) (p : List Nat) : (c.setPerm i p).gen = c.gen := rfl
@[simp] theorem CoreSt.setPerm_fst (c : CoreSt) (i : Nat) (p : List Nat) : (c.setPerm i p).fst = c.fst := rfl
@[simp] theorem CoreSt.setPerm_words (c : CoreSt) (i : Nat) (p : List Nat) : (c.setPerm i p).words = c.words := rfl
@[simp] theorem CoreSt.setPerm_lines (c : CoreSt) (i : Nat) (p : List Nat) : (c.setPerm i p).lines = c.lines := rfl
@[simp] theorem CoreSt.setPerm_spx (c : CoreSt) (i : Nat) (p : List Nat) : (c.setPerm i p).spx = c.spx := rfl
@[simp] theorem CoreSt.setPerm_inputs (c : CoreSt) (i : Nat) (p : List Nat) : (c.setPerm i p).inputs = c.inputs := rfl
@[simp] theorem CoreSt.setPerm_rt (c : CoreSt) (i : Nat) (p : List Nat) : (c.setPerm i p).rt = c.rt := rfl
@[simp] theorem CoreSt.setPerm_mks (c : CoreSt) (i : Nat) (p : List Nat) : (c.setPerm i p).mks = c.mks := rfl
@[simp] theorem CoreSt.setPerm_dix (c : CoreSt) (i : Nat) (p : List Nat) : (c.setPerm i p).dix = c.dix := rfl
@[simp] theorem CoreSt.setPerm_res (c : CoreSt) (i : Nat) (p : List Nat) : (c.setPerm i p).res = c.res := rfl
@[simp] theorem CoreSt.setPerm_res2 (c : CoreSt) (i : Nat) (p : List Nat) : (c.setPerm i p).res2 = c.res2 := rfl
@[simp] theorem CoreSt.setPerm_inflight (c : CoreSt) (i : Nat) (p : List Nat) : (c.setPerm i p).inflight = c.inflight := rfl
@[simp] theorem CoreSt.setPerm_xfers (c : CoreSt) (i : Nat) (p : List Nat) : (c.setPerm i p).xfers = c.xfers := rfl
@[simp] theorem CoreSt.setPerm_maskq (c : CoreSt) (i : Nat) (p : List Nat) : (c.setPerm i p).maskq = c.maskq := rfl
@[simp] theorem CoreSt.setPerm_permq (c : CoreSt) (i : Nat) (p : List Nat) : (c.setPerm i p).permq = c.permq := rfl
@[simp] theorem CoreSt.setPerm_mark (c : CoreSt) (i : Nat) (p : List Nat) : (c.setPerm i p).mark = c.mark := rfl
@[simp] theorem CoreSt.setPerm_shadow (c : CoreSt) (i : Nat) (p : List Nat) : (c.setPerm i p).shadow = c.shadow := rfl
@[simp] theorem CoreSt.setPerm_dshadow (c : CoreSt) (i : Nat) (p : List Nat) : (c.setPerm i p).dshadow = c.dshadow := rfl
@[simp] theorem CoreSt.setPerm_counted (c : CoreSt) (i : Nat) (p : List Nat) : (c.setPerm i p).counted = c.counted := rfl
@[simp] theorem CoreSt.setPerm_gated (c : CoreSt) (i : Nat) (p : List Nat) : (c.setPerm i p).gated = c.gated := rfl
@[simp] theorem CoreSt.setPerm_stores (c : CoreSt) (i : Nat) (p : List Nat) : (c.setPerm i p).stores = c.stores := rfl
@[simp] theorem CoreSt.setPerm_pc (c : CoreSt) (i : Nat) (p : List Nat) : (c.setPerm i p).pc = c.pc := rfl
@[simp] theorem CoreSt.setPerm_branches (c : CoreSt) (i : Nat) (p : List Nat) : (c.setPerm i p).branches = c.branches := rfl
@[simp] theorem CoreSt.setPerm_issued (c : CoreSt) (i : Nat) (p : List Nat) : (c.setPerm i p).issued = c.issued := rfl
@[simp] theorem CoreSt.setPerm_cycle (c : CoreSt) (i : Nat) (p : List Nat) : (c.setPerm i p).cycle = c.cycle := rfl
@[simp] theorem CoreSt.setPerm_gates (c : CoreSt) (i : Nat) (p : List Nat) : (c.setPerm i p).gates = c.gates := rfl
@[simp] theorem CoreSt.setPerm_skipBrk (c : CoreSt) (i : Nat) (p : List Nat) : (c.setPerm i p).skipBrk = c.skipBrk := rfl
@[simp] theorem CoreSt.setPerm_markNext (c : CoreSt) (i : Nat) (p : List Nat) : (c.setPerm i p).markNext = c.markNext := rfl
@[simp] theorem CoreSt.setPerm_istore (c : CoreSt) (i : Nat) (p : List Nat) : (c.setPerm i p).istore = c.istore := rfl
@[simp] theorem CoreSt.setPerm_tags (c : CoreSt) (i : Nat) (p : List Nat) : (c.setPerm i p).tags = c.tags := rfl
@[simp] theorem CoreSt.setPerm_reload (c : CoreSt) (i : Nat) (p : List Nat) : (c.setPerm i p).reload = c.reload := rfl
@[simp] theorem CoreSt.setPerm_coord (c : CoreSt) (i : Nat) (p : List Nat) : (c.setPerm i p).coord = c.coord := rfl
@[simp] theorem CoreSt.setPerm_owner (c : CoreSt) (i : Nat) (p : List Nat) : (c.setPerm i p).owner = c.owner := rfl
@[simp] theorem CoreSt.setPerm_seen (c : CoreSt) (i : Nat) (p : List Nat) : (c.setPerm i p).seen = c.seen := rfl
@[simp] theorem CoreSt.setPerm_run (c : CoreSt) (i : Nat) (p : List Nat) : (c.setPerm i p).run = c.run := rfl
@[simp] theorem CoreSt.setPerm_task (c : CoreSt) (i : Nat) (p : List Nat) : (c.setPerm i p).task = c.task := rfl
@[simp] theorem CoreSt.setPerm_fill (c : CoreSt) (i : Nat) (p : List Nat) : (c.setPerm i p).fill = c.fill := rfl
@[simp] theorem CoreSt.setPerm_dcache (c : CoreSt) (i : Nat) (p : List Nat) : (c.setPerm i p).dcache = c.dcache := rfl
@[simp] theorem CoreSt.setPerm_latch (c : CoreSt) (i : Nat) (p : List Nat) : (c.setPerm i p).latch = c.latch := rfl
@[simp] theorem CoreSt.setPerm_preempt (c : CoreSt) (i : Nat) (p : List Nat) : (c.setPerm i p).preempt = c.preempt := rfl
@[simp] theorem CoreSt.setPerm_safe (c : CoreSt) (i : Nat) (p : List Nat) : (c.setPerm i p).safe = c.safe := rfl
@[simp] theorem CoreSt.setPerm_journal (c : CoreSt) (i : Nat) (p : List Nat) : (c.setPerm i p).journal = c.journal := rfl
@[simp] theorem CoreSt.setPerm_jsigs (c : CoreSt) (i : Nat) (p : List Nat) : (c.setPerm i p).jsigs = c.jsigs := rfl
@[simp] theorem CoreSt.setPerm_oldj (c : CoreSt) (i : Nat) (p : List Nat) : (c.setPerm i p).oldj = c.oldj := rfl
@[simp] theorem CoreSt.setPerm_mat (c : CoreSt) (i : Nat) (p : List Nat) : (c.setPerm i p).mat = c.mat := rfl
@[simp] theorem CoreSt.setPerm_eng0 (c : CoreSt) (i : Nat) (p : List Nat) : (c.setPerm i p).eng0 = c.eng0 := rfl
@[simp] theorem CoreSt.setPerm_eng1 (c : CoreSt) (i : Nat) (p : List Nat) : (c.setPerm i p).eng1 = c.eng1 := rfl
@[simp] theorem CoreSt.setPerm_staged (c : CoreSt) (i : Nat) (p : List Nat) : (c.setPerm i p).staged = c.staged := rfl
@[simp] theorem CoreSt.setPerm_raised (c : CoreSt) (i : Nat) (p : List Nat) : (c.setPerm i p).raised = c.raised := rfl
@[simp] theorem CoreSt.setPerm_held (c : CoreSt) (i : Nat) (p : List Nat) : (c.setPerm i p).held = c.held := rfl
@[simp] theorem CoreSt.setPerm_ended (c : CoreSt) (i : Nat) (p : List Nat) : (c.setPerm i p).ended = c.ended := rfl
@[simp] theorem CoreSt.setPerm_holders (c : CoreSt) (i : Nat) (p : List Nat) : (c.setPerm i p).holders = c.holders := rfl
@[simp] theorem CoreSt.setPerm_holdsNow (c : CoreSt) (i : Nat) (p : List Nat) : (c.setPerm i p).holdsNow = c.holdsNow := rfl
@[simp] theorem CoreSt.setRing_sregs (c : CoreSt) (q : Nat) (r : Ring) : (c.setRing q r).sregs = c.sregs := rfl
@[simp] theorem CoreSt.setRing_vregs (c : CoreSt) (q : Nat) (r : Ring) : (c.setRing q r).vregs = c.vregs := rfl
@[simp] theorem CoreSt.setRing_mregs (c : CoreSt) (q : Nat) (r : Ring) : (c.setRing q r).mregs = c.mregs := rfl
@[simp] theorem CoreSt.setRing_dfile0 (c : CoreSt) (q : Nat) (r : Ring) : (c.setRing q r).dfile0 = c.dfile0 := rfl
@[simp] theorem CoreSt.setRing_dfile1 (c : CoreSt) (q : Nat) (r : Ring) : (c.setRing q r).dfile1 = c.dfile1 := rfl
@[simp] theorem CoreSt.setRing_guards (c : CoreSt) (q : Nat) (r : Ring) : (c.setRing q r).guards = c.guards := rfl
@[simp] theorem CoreSt.setRing_masks (c : CoreSt) (q : Nat) (r : Ring) : (c.setRing q r).masks = c.masks := rfl
@[simp] theorem CoreSt.setRing_perms (c : CoreSt) (q : Nat) (r : Ring) : (c.setRing q r).perms = c.perms := rfl
@[simp] theorem CoreSt.setRing_rings (c : CoreSt) (q : Nat) (r : Ring) : (c.setRing q r).rings = sset {} c.rings q r := rfl
@[simp] theorem CoreSt.setRing_nest (c : CoreSt) (q : Nat) (r : Ring) : (c.setRing q r).nest = c.nest := rfl
@[simp] theorem CoreSt.setRing_nt (c : CoreSt) (q : Nat) (r : Ring) : (c.setRing q r).nt = c.nt := rfl
@[simp] theorem CoreSt.setRing_ntp (c : CoreSt) (q : Nat) (r : Ring) : (c.setRing q r).ntp = c.ntp := rfl
@[simp] theorem CoreSt.setRing_nxts (c : CoreSt) (q : Nat) (r : Ring) : (c.setRing q r).nxts = c.nxts := rfl
@[simp] theorem CoreSt.setRing_fmt (c : CoreSt) (q : Nat) (r : Ring) : (c.setRing q r).fmt = c.fmt := rfl
@[simp] theorem CoreSt.setRing_fmtq (c : CoreSt) (q : Nat) (r : Ring) : (c.setRing q r).fmtq = c.fmtq := rfl
@[simp] theorem CoreSt.setRing_gen (c : CoreSt) (q : Nat) (r : Ring) : (c.setRing q r).gen = c.gen := rfl
@[simp] theorem CoreSt.setRing_fst (c : CoreSt) (q : Nat) (r : Ring) : (c.setRing q r).fst = c.fst := rfl
@[simp] theorem CoreSt.setRing_words (c : CoreSt) (q : Nat) (r : Ring) : (c.setRing q r).words = c.words := rfl
@[simp] theorem CoreSt.setRing_lines (c : CoreSt) (q : Nat) (r : Ring) : (c.setRing q r).lines = c.lines := rfl
@[simp] theorem CoreSt.setRing_spx (c : CoreSt) (q : Nat) (r : Ring) : (c.setRing q r).spx = c.spx := rfl
@[simp] theorem CoreSt.setRing_inputs (c : CoreSt) (q : Nat) (r : Ring) : (c.setRing q r).inputs = c.inputs := rfl
@[simp] theorem CoreSt.setRing_rt (c : CoreSt) (q : Nat) (r : Ring) : (c.setRing q r).rt = c.rt := rfl
@[simp] theorem CoreSt.setRing_mks (c : CoreSt) (q : Nat) (r : Ring) : (c.setRing q r).mks = c.mks := rfl
@[simp] theorem CoreSt.setRing_dix (c : CoreSt) (q : Nat) (r : Ring) : (c.setRing q r).dix = c.dix := rfl
@[simp] theorem CoreSt.setRing_res (c : CoreSt) (q : Nat) (r : Ring) : (c.setRing q r).res = c.res := rfl
@[simp] theorem CoreSt.setRing_res2 (c : CoreSt) (q : Nat) (r : Ring) : (c.setRing q r).res2 = c.res2 := rfl
@[simp] theorem CoreSt.setRing_inflight (c : CoreSt) (q : Nat) (r : Ring) : (c.setRing q r).inflight = c.inflight := rfl
@[simp] theorem CoreSt.setRing_xfers (c : CoreSt) (q : Nat) (r : Ring) : (c.setRing q r).xfers = c.xfers := rfl
@[simp] theorem CoreSt.setRing_maskq (c : CoreSt) (q : Nat) (r : Ring) : (c.setRing q r).maskq = c.maskq := rfl
@[simp] theorem CoreSt.setRing_permq (c : CoreSt) (q : Nat) (r : Ring) : (c.setRing q r).permq = c.permq := rfl
@[simp] theorem CoreSt.setRing_mark (c : CoreSt) (q : Nat) (r : Ring) : (c.setRing q r).mark = c.mark := rfl
@[simp] theorem CoreSt.setRing_shadow (c : CoreSt) (q : Nat) (r : Ring) : (c.setRing q r).shadow = c.shadow := rfl
@[simp] theorem CoreSt.setRing_dshadow (c : CoreSt) (q : Nat) (r : Ring) : (c.setRing q r).dshadow = c.dshadow := rfl
@[simp] theorem CoreSt.setRing_counted (c : CoreSt) (q : Nat) (r : Ring) : (c.setRing q r).counted = c.counted := rfl
@[simp] theorem CoreSt.setRing_gated (c : CoreSt) (q : Nat) (r : Ring) : (c.setRing q r).gated = c.gated := rfl
@[simp] theorem CoreSt.setRing_stores (c : CoreSt) (q : Nat) (r : Ring) : (c.setRing q r).stores = c.stores := rfl
@[simp] theorem CoreSt.setRing_pc (c : CoreSt) (q : Nat) (r : Ring) : (c.setRing q r).pc = c.pc := rfl
@[simp] theorem CoreSt.setRing_branches (c : CoreSt) (q : Nat) (r : Ring) : (c.setRing q r).branches = c.branches := rfl
@[simp] theorem CoreSt.setRing_issued (c : CoreSt) (q : Nat) (r : Ring) : (c.setRing q r).issued = c.issued := rfl
@[simp] theorem CoreSt.setRing_cycle (c : CoreSt) (q : Nat) (r : Ring) : (c.setRing q r).cycle = c.cycle := rfl
@[simp] theorem CoreSt.setRing_gates (c : CoreSt) (q : Nat) (r : Ring) : (c.setRing q r).gates = c.gates := rfl
@[simp] theorem CoreSt.setRing_skipBrk (c : CoreSt) (q : Nat) (r : Ring) : (c.setRing q r).skipBrk = c.skipBrk := rfl
@[simp] theorem CoreSt.setRing_markNext (c : CoreSt) (q : Nat) (r : Ring) : (c.setRing q r).markNext = c.markNext := rfl
@[simp] theorem CoreSt.setRing_istore (c : CoreSt) (q : Nat) (r : Ring) : (c.setRing q r).istore = c.istore := rfl
@[simp] theorem CoreSt.setRing_tags (c : CoreSt) (q : Nat) (r : Ring) : (c.setRing q r).tags = c.tags := rfl
@[simp] theorem CoreSt.setRing_reload (c : CoreSt) (q : Nat) (r : Ring) : (c.setRing q r).reload = c.reload := rfl
@[simp] theorem CoreSt.setRing_coord (c : CoreSt) (q : Nat) (r : Ring) : (c.setRing q r).coord = c.coord := rfl
@[simp] theorem CoreSt.setRing_owner (c : CoreSt) (q : Nat) (r : Ring) : (c.setRing q r).owner = c.owner := rfl
@[simp] theorem CoreSt.setRing_seen (c : CoreSt) (q : Nat) (r : Ring) : (c.setRing q r).seen = c.seen := rfl
@[simp] theorem CoreSt.setRing_run (c : CoreSt) (q : Nat) (r : Ring) : (c.setRing q r).run = c.run := rfl
@[simp] theorem CoreSt.setRing_task (c : CoreSt) (q : Nat) (r : Ring) : (c.setRing q r).task = c.task := rfl
@[simp] theorem CoreSt.setRing_fill (c : CoreSt) (q : Nat) (r : Ring) : (c.setRing q r).fill = c.fill := rfl
@[simp] theorem CoreSt.setRing_dcache (c : CoreSt) (q : Nat) (r : Ring) : (c.setRing q r).dcache = c.dcache := rfl
@[simp] theorem CoreSt.setRing_latch (c : CoreSt) (q : Nat) (r : Ring) : (c.setRing q r).latch = c.latch := rfl
@[simp] theorem CoreSt.setRing_preempt (c : CoreSt) (q : Nat) (r : Ring) : (c.setRing q r).preempt = c.preempt := rfl
@[simp] theorem CoreSt.setRing_safe (c : CoreSt) (q : Nat) (r : Ring) : (c.setRing q r).safe = c.safe := rfl
@[simp] theorem CoreSt.setRing_journal (c : CoreSt) (q : Nat) (r : Ring) : (c.setRing q r).journal = c.journal := rfl
@[simp] theorem CoreSt.setRing_jsigs (c : CoreSt) (q : Nat) (r : Ring) : (c.setRing q r).jsigs = c.jsigs := rfl
@[simp] theorem CoreSt.setRing_oldj (c : CoreSt) (q : Nat) (r : Ring) : (c.setRing q r).oldj = c.oldj := rfl
@[simp] theorem CoreSt.setRing_mat (c : CoreSt) (q : Nat) (r : Ring) : (c.setRing q r).mat = c.mat := rfl
@[simp] theorem CoreSt.setRing_eng0 (c : CoreSt) (q : Nat) (r : Ring) : (c.setRing q r).eng0 = c.eng0 := rfl
@[simp] theorem CoreSt.setRing_eng1 (c : CoreSt) (q : Nat) (r : Ring) : (c.setRing q r).eng1 = c.eng1 := rfl
@[simp] theorem CoreSt.setRing_staged (c : CoreSt) (q : Nat) (r : Ring) : (c.setRing q r).staged = c.staged := rfl
@[simp] theorem CoreSt.setRing_raised (c : CoreSt) (q : Nat) (r : Ring) : (c.setRing q r).raised = c.raised := rfl
@[simp] theorem CoreSt.setRing_held (c : CoreSt) (q : Nat) (r : Ring) : (c.setRing q r).held = c.held := rfl
@[simp] theorem CoreSt.setRing_ended (c : CoreSt) (q : Nat) (r : Ring) : (c.setRing q r).ended = c.ended := rfl
@[simp] theorem CoreSt.setRing_holders (c : CoreSt) (q : Nat) (r : Ring) : (c.setRing q r).holders = c.holders := rfl
@[simp] theorem CoreSt.setRing_holdsNow (c : CoreSt) (q : Nat) (r : Ring) : (c.setRing q r).holdsNow = c.holdsNow := rfl
@[simp] theorem CoreSt.setLevel_sregs (c : CoreSt) (l : Nat) (x : NestLevel) : (c.setLevel l x).sregs = c.sregs := rfl
@[simp] theorem CoreSt.setLevel_vregs (c : CoreSt) (l : Nat) (x : NestLevel) : (c.setLevel l x).vregs = c.vregs := rfl
@[simp] theorem CoreSt.setLevel_mregs (c : CoreSt) (l : Nat) (x : NestLevel) : (c.setLevel l x).mregs = c.mregs := rfl
@[simp] theorem CoreSt.setLevel_dfile0 (c : CoreSt) (l : Nat) (x : NestLevel) : (c.setLevel l x).dfile0 = c.dfile0 := rfl
@[simp] theorem CoreSt.setLevel_dfile1 (c : CoreSt) (l : Nat) (x : NestLevel) : (c.setLevel l x).dfile1 = c.dfile1 := rfl
@[simp] theorem CoreSt.setLevel_guards (c : CoreSt) (l : Nat) (x : NestLevel) : (c.setLevel l x).guards = c.guards := rfl
@[simp] theorem CoreSt.setLevel_masks (c : CoreSt) (l : Nat) (x : NestLevel) : (c.setLevel l x).masks = c.masks := rfl
@[simp] theorem CoreSt.setLevel_perms (c : CoreSt) (l : Nat) (x : NestLevel) : (c.setLevel l x).perms = c.perms := rfl
@[simp] theorem CoreSt.setLevel_rings (c : CoreSt) (l : Nat) (x : NestLevel) : (c.setLevel l x).rings = c.rings := rfl
@[simp] theorem CoreSt.setLevel_nest (c : CoreSt) (l : Nat) (x : NestLevel) : (c.setLevel l x).nest = sset {} c.nest l x := rfl
@[simp] theorem CoreSt.setLevel_nt (c : CoreSt) (l : Nat) (x : NestLevel) : (c.setLevel l x).nt = c.nt := rfl
@[simp] theorem CoreSt.setLevel_ntp (c : CoreSt) (l : Nat) (x : NestLevel) : (c.setLevel l x).ntp = c.ntp := rfl
@[simp] theorem CoreSt.setLevel_nxts (c : CoreSt) (l : Nat) (x : NestLevel) : (c.setLevel l x).nxts = c.nxts := rfl
@[simp] theorem CoreSt.setLevel_fmt (c : CoreSt) (l : Nat) (x : NestLevel) : (c.setLevel l x).fmt = c.fmt := rfl
@[simp] theorem CoreSt.setLevel_fmtq (c : CoreSt) (l : Nat) (x : NestLevel) : (c.setLevel l x).fmtq = c.fmtq := rfl
@[simp] theorem CoreSt.setLevel_gen (c : CoreSt) (l : Nat) (x : NestLevel) : (c.setLevel l x).gen = c.gen := rfl
@[simp] theorem CoreSt.setLevel_fst (c : CoreSt) (l : Nat) (x : NestLevel) : (c.setLevel l x).fst = c.fst := rfl
@[simp] theorem CoreSt.setLevel_words (c : CoreSt) (l : Nat) (x : NestLevel) : (c.setLevel l x).words = c.words := rfl
@[simp] theorem CoreSt.setLevel_lines (c : CoreSt) (l : Nat) (x : NestLevel) : (c.setLevel l x).lines = c.lines := rfl
@[simp] theorem CoreSt.setLevel_spx (c : CoreSt) (l : Nat) (x : NestLevel) : (c.setLevel l x).spx = c.spx := rfl
@[simp] theorem CoreSt.setLevel_inputs (c : CoreSt) (l : Nat) (x : NestLevel) : (c.setLevel l x).inputs = c.inputs := rfl
@[simp] theorem CoreSt.setLevel_rt (c : CoreSt) (l : Nat) (x : NestLevel) : (c.setLevel l x).rt = c.rt := rfl
@[simp] theorem CoreSt.setLevel_mks (c : CoreSt) (l : Nat) (x : NestLevel) : (c.setLevel l x).mks = c.mks := rfl
@[simp] theorem CoreSt.setLevel_dix (c : CoreSt) (l : Nat) (x : NestLevel) : (c.setLevel l x).dix = c.dix := rfl
@[simp] theorem CoreSt.setLevel_res (c : CoreSt) (l : Nat) (x : NestLevel) : (c.setLevel l x).res = c.res := rfl
@[simp] theorem CoreSt.setLevel_res2 (c : CoreSt) (l : Nat) (x : NestLevel) : (c.setLevel l x).res2 = c.res2 := rfl
@[simp] theorem CoreSt.setLevel_inflight (c : CoreSt) (l : Nat) (x : NestLevel) : (c.setLevel l x).inflight = c.inflight := rfl
@[simp] theorem CoreSt.setLevel_xfers (c : CoreSt) (l : Nat) (x : NestLevel) : (c.setLevel l x).xfers = c.xfers := rfl
@[simp] theorem CoreSt.setLevel_maskq (c : CoreSt) (l : Nat) (x : NestLevel) : (c.setLevel l x).maskq = c.maskq := rfl
@[simp] theorem CoreSt.setLevel_permq (c : CoreSt) (l : Nat) (x : NestLevel) : (c.setLevel l x).permq = c.permq := rfl
@[simp] theorem CoreSt.setLevel_mark (c : CoreSt) (l : Nat) (x : NestLevel) : (c.setLevel l x).mark = c.mark := rfl
@[simp] theorem CoreSt.setLevel_shadow (c : CoreSt) (l : Nat) (x : NestLevel) : (c.setLevel l x).shadow = c.shadow := rfl
@[simp] theorem CoreSt.setLevel_dshadow (c : CoreSt) (l : Nat) (x : NestLevel) : (c.setLevel l x).dshadow = c.dshadow := rfl
@[simp] theorem CoreSt.setLevel_counted (c : CoreSt) (l : Nat) (x : NestLevel) : (c.setLevel l x).counted = c.counted := rfl
@[simp] theorem CoreSt.setLevel_gated (c : CoreSt) (l : Nat) (x : NestLevel) : (c.setLevel l x).gated = c.gated := rfl
@[simp] theorem CoreSt.setLevel_stores (c : CoreSt) (l : Nat) (x : NestLevel) : (c.setLevel l x).stores = c.stores := rfl
@[simp] theorem CoreSt.setLevel_pc (c : CoreSt) (l : Nat) (x : NestLevel) : (c.setLevel l x).pc = c.pc := rfl
@[simp] theorem CoreSt.setLevel_branches (c : CoreSt) (l : Nat) (x : NestLevel) : (c.setLevel l x).branches = c.branches := rfl
@[simp] theorem CoreSt.setLevel_issued (c : CoreSt) (l : Nat) (x : NestLevel) : (c.setLevel l x).issued = c.issued := rfl
@[simp] theorem CoreSt.setLevel_cycle (c : CoreSt) (l : Nat) (x : NestLevel) : (c.setLevel l x).cycle = c.cycle := rfl
@[simp] theorem CoreSt.setLevel_gates (c : CoreSt) (l : Nat) (x : NestLevel) : (c.setLevel l x).gates = c.gates := rfl
@[simp] theorem CoreSt.setLevel_skipBrk (c : CoreSt) (l : Nat) (x : NestLevel) : (c.setLevel l x).skipBrk = c.skipBrk := rfl
@[simp] theorem CoreSt.setLevel_markNext (c : CoreSt) (l : Nat) (x : NestLevel) : (c.setLevel l x).markNext = c.markNext := rfl
@[simp] theorem CoreSt.setLevel_istore (c : CoreSt) (l : Nat) (x : NestLevel) : (c.setLevel l x).istore = c.istore := rfl
@[simp] theorem CoreSt.setLevel_tags (c : CoreSt) (l : Nat) (x : NestLevel) : (c.setLevel l x).tags = c.tags := rfl
@[simp] theorem CoreSt.setLevel_reload (c : CoreSt) (l : Nat) (x : NestLevel) : (c.setLevel l x).reload = c.reload := rfl
@[simp] theorem CoreSt.setLevel_coord (c : CoreSt) (l : Nat) (x : NestLevel) : (c.setLevel l x).coord = c.coord := rfl
@[simp] theorem CoreSt.setLevel_owner (c : CoreSt) (l : Nat) (x : NestLevel) : (c.setLevel l x).owner = c.owner := rfl
@[simp] theorem CoreSt.setLevel_seen (c : CoreSt) (l : Nat) (x : NestLevel) : (c.setLevel l x).seen = c.seen := rfl
@[simp] theorem CoreSt.setLevel_run (c : CoreSt) (l : Nat) (x : NestLevel) : (c.setLevel l x).run = c.run := rfl
@[simp] theorem CoreSt.setLevel_task (c : CoreSt) (l : Nat) (x : NestLevel) : (c.setLevel l x).task = c.task := rfl
@[simp] theorem CoreSt.setLevel_fill (c : CoreSt) (l : Nat) (x : NestLevel) : (c.setLevel l x).fill = c.fill := rfl
@[simp] theorem CoreSt.setLevel_dcache (c : CoreSt) (l : Nat) (x : NestLevel) : (c.setLevel l x).dcache = c.dcache := rfl
@[simp] theorem CoreSt.setLevel_latch (c : CoreSt) (l : Nat) (x : NestLevel) : (c.setLevel l x).latch = c.latch := rfl
@[simp] theorem CoreSt.setLevel_preempt (c : CoreSt) (l : Nat) (x : NestLevel) : (c.setLevel l x).preempt = c.preempt := rfl
@[simp] theorem CoreSt.setLevel_safe (c : CoreSt) (l : Nat) (x : NestLevel) : (c.setLevel l x).safe = c.safe := rfl
@[simp] theorem CoreSt.setLevel_journal (c : CoreSt) (l : Nat) (x : NestLevel) : (c.setLevel l x).journal = c.journal := rfl
@[simp] theorem CoreSt.setLevel_jsigs (c : CoreSt) (l : Nat) (x : NestLevel) : (c.setLevel l x).jsigs = c.jsigs := rfl
@[simp] theorem CoreSt.setLevel_oldj (c : CoreSt) (l : Nat) (x : NestLevel) : (c.setLevel l x).oldj = c.oldj := rfl
@[simp] theorem CoreSt.setLevel_mat (c : CoreSt) (l : Nat) (x : NestLevel) : (c.setLevel l x).mat = c.mat := rfl
@[simp] theorem CoreSt.setLevel_eng0 (c : CoreSt) (l : Nat) (x : NestLevel) : (c.setLevel l x).eng0 = c.eng0 := rfl
@[simp] theorem CoreSt.setLevel_eng1 (c : CoreSt) (l : Nat) (x : NestLevel) : (c.setLevel l x).eng1 = c.eng1 := rfl
@[simp] theorem CoreSt.setLevel_staged (c : CoreSt) (l : Nat) (x : NestLevel) : (c.setLevel l x).staged = c.staged := rfl
@[simp] theorem CoreSt.setLevel_raised (c : CoreSt) (l : Nat) (x : NestLevel) : (c.setLevel l x).raised = c.raised := rfl
@[simp] theorem CoreSt.setLevel_held (c : CoreSt) (l : Nat) (x : NestLevel) : (c.setLevel l x).held = c.held := rfl
@[simp] theorem CoreSt.setLevel_ended (c : CoreSt) (l : Nat) (x : NestLevel) : (c.setLevel l x).ended = c.ended := rfl
@[simp] theorem CoreSt.setLevel_holders (c : CoreSt) (l : Nat) (x : NestLevel) : (c.setLevel l x).holders = c.holders := rfl
@[simp] theorem CoreSt.setLevel_holdsNow (c : CoreSt) (l : Nat) (x : NestLevel) : (c.setLevel l x).holdsNow = c.holdsNow := rfl
@[simp] theorem CoreSt.setStream_sregs (c : CoreSt) (j : Nat) (x : W64) : (c.setStream j x).sregs = c.sregs := rfl
@[simp] theorem CoreSt.setStream_vregs (c : CoreSt) (j : Nat) (x : W64) : (c.setStream j x).vregs = c.vregs := rfl
@[simp] theorem CoreSt.setStream_mregs (c : CoreSt) (j : Nat) (x : W64) : (c.setStream j x).mregs = c.mregs := rfl
@[simp] theorem CoreSt.setStream_dfile0 (c : CoreSt) (j : Nat) (x : W64) : (c.setStream j x).dfile0 = c.dfile0 := rfl
@[simp] theorem CoreSt.setStream_dfile1 (c : CoreSt) (j : Nat) (x : W64) : (c.setStream j x).dfile1 = c.dfile1 := rfl
@[simp] theorem CoreSt.setStream_guards (c : CoreSt) (j : Nat) (x : W64) : (c.setStream j x).guards = c.guards := rfl
@[simp] theorem CoreSt.setStream_masks (c : CoreSt) (j : Nat) (x : W64) : (c.setStream j x).masks = c.masks := rfl
@[simp] theorem CoreSt.setStream_perms (c : CoreSt) (j : Nat) (x : W64) : (c.setStream j x).perms = c.perms := rfl
@[simp] theorem CoreSt.setStream_rings (c : CoreSt) (j : Nat) (x : W64) : (c.setStream j x).rings = c.rings := rfl
@[simp] theorem CoreSt.setStream_nest (c : CoreSt) (j : Nat) (x : W64) : (c.setStream j x).nest = c.nest := rfl
@[simp] theorem CoreSt.setStream_nt (c : CoreSt) (j : Nat) (x : W64) : (c.setStream j x).nt = c.nt := rfl
@[simp] theorem CoreSt.setStream_ntp (c : CoreSt) (j : Nat) (x : W64) : (c.setStream j x).ntp = c.ntp := rfl
@[simp] theorem CoreSt.setStream_nxts (c : CoreSt) (j : Nat) (x : W64) : (c.setStream j x).nxts = c.nxts := rfl
@[simp] theorem CoreSt.setStream_fmt (c : CoreSt) (j : Nat) (x : W64) : (c.setStream j x).fmt = c.fmt := rfl
@[simp] theorem CoreSt.setStream_fmtq (c : CoreSt) (j : Nat) (x : W64) : (c.setStream j x).fmtq = c.fmtq := rfl
@[simp] theorem CoreSt.setStream_gen (c : CoreSt) (j : Nat) (x : W64) : (c.setStream j x).gen = sset (seedStream 0 0 j) c.gen j x := rfl
@[simp] theorem CoreSt.setStream_fst (c : CoreSt) (j : Nat) (x : W64) : (c.setStream j x).fst = c.fst := rfl
@[simp] theorem CoreSt.setStream_words (c : CoreSt) (j : Nat) (x : W64) : (c.setStream j x).words = c.words := rfl
@[simp] theorem CoreSt.setStream_lines (c : CoreSt) (j : Nat) (x : W64) : (c.setStream j x).lines = c.lines := rfl
@[simp] theorem CoreSt.setStream_spx (c : CoreSt) (j : Nat) (x : W64) : (c.setStream j x).spx = c.spx := rfl
@[simp] theorem CoreSt.setStream_inputs (c : CoreSt) (j : Nat) (x : W64) : (c.setStream j x).inputs = c.inputs := rfl
@[simp] theorem CoreSt.setStream_rt (c : CoreSt) (j : Nat) (x : W64) : (c.setStream j x).rt = c.rt := rfl
@[simp] theorem CoreSt.setStream_mks (c : CoreSt) (j : Nat) (x : W64) : (c.setStream j x).mks = c.mks := rfl
@[simp] theorem CoreSt.setStream_dix (c : CoreSt) (j : Nat) (x : W64) : (c.setStream j x).dix = c.dix := rfl
@[simp] theorem CoreSt.setStream_res (c : CoreSt) (j : Nat) (x : W64) : (c.setStream j x).res = c.res := rfl
@[simp] theorem CoreSt.setStream_res2 (c : CoreSt) (j : Nat) (x : W64) : (c.setStream j x).res2 = c.res2 := rfl
@[simp] theorem CoreSt.setStream_inflight (c : CoreSt) (j : Nat) (x : W64) : (c.setStream j x).inflight = c.inflight := rfl
@[simp] theorem CoreSt.setStream_xfers (c : CoreSt) (j : Nat) (x : W64) : (c.setStream j x).xfers = c.xfers := rfl
@[simp] theorem CoreSt.setStream_maskq (c : CoreSt) (j : Nat) (x : W64) : (c.setStream j x).maskq = c.maskq := rfl
@[simp] theorem CoreSt.setStream_permq (c : CoreSt) (j : Nat) (x : W64) : (c.setStream j x).permq = c.permq := rfl
@[simp] theorem CoreSt.setStream_mark (c : CoreSt) (j : Nat) (x : W64) : (c.setStream j x).mark = c.mark := rfl
@[simp] theorem CoreSt.setStream_shadow (c : CoreSt) (j : Nat) (x : W64) : (c.setStream j x).shadow = c.shadow := rfl
@[simp] theorem CoreSt.setStream_dshadow (c : CoreSt) (j : Nat) (x : W64) : (c.setStream j x).dshadow = c.dshadow := rfl
@[simp] theorem CoreSt.setStream_counted (c : CoreSt) (j : Nat) (x : W64) : (c.setStream j x).counted = c.counted := rfl
@[simp] theorem CoreSt.setStream_gated (c : CoreSt) (j : Nat) (x : W64) : (c.setStream j x).gated = c.gated := rfl
@[simp] theorem CoreSt.setStream_stores (c : CoreSt) (j : Nat) (x : W64) : (c.setStream j x).stores = c.stores := rfl
@[simp] theorem CoreSt.setStream_pc (c : CoreSt) (j : Nat) (x : W64) : (c.setStream j x).pc = c.pc := rfl
@[simp] theorem CoreSt.setStream_branches (c : CoreSt) (j : Nat) (x : W64) : (c.setStream j x).branches = c.branches := rfl
@[simp] theorem CoreSt.setStream_issued (c : CoreSt) (j : Nat) (x : W64) : (c.setStream j x).issued = c.issued := rfl
@[simp] theorem CoreSt.setStream_cycle (c : CoreSt) (j : Nat) (x : W64) : (c.setStream j x).cycle = c.cycle := rfl
@[simp] theorem CoreSt.setStream_gates (c : CoreSt) (j : Nat) (x : W64) : (c.setStream j x).gates = c.gates := rfl
@[simp] theorem CoreSt.setStream_skipBrk (c : CoreSt) (j : Nat) (x : W64) : (c.setStream j x).skipBrk = c.skipBrk := rfl
@[simp] theorem CoreSt.setStream_markNext (c : CoreSt) (j : Nat) (x : W64) : (c.setStream j x).markNext = c.markNext := rfl
@[simp] theorem CoreSt.setStream_istore (c : CoreSt) (j : Nat) (x : W64) : (c.setStream j x).istore = c.istore := rfl
@[simp] theorem CoreSt.setStream_tags (c : CoreSt) (j : Nat) (x : W64) : (c.setStream j x).tags = c.tags := rfl
@[simp] theorem CoreSt.setStream_reload (c : CoreSt) (j : Nat) (x : W64) : (c.setStream j x).reload = c.reload := rfl
@[simp] theorem CoreSt.setStream_coord (c : CoreSt) (j : Nat) (x : W64) : (c.setStream j x).coord = c.coord := rfl
@[simp] theorem CoreSt.setStream_owner (c : CoreSt) (j : Nat) (x : W64) : (c.setStream j x).owner = c.owner := rfl
@[simp] theorem CoreSt.setStream_seen (c : CoreSt) (j : Nat) (x : W64) : (c.setStream j x).seen = c.seen := rfl
@[simp] theorem CoreSt.setStream_run (c : CoreSt) (j : Nat) (x : W64) : (c.setStream j x).run = c.run := rfl
@[simp] theorem CoreSt.setStream_task (c : CoreSt) (j : Nat) (x : W64) : (c.setStream j x).task = c.task := rfl
@[simp] theorem CoreSt.setStream_fill (c : CoreSt) (j : Nat) (x : W64) : (c.setStream j x).fill = c.fill := rfl
@[simp] theorem CoreSt.setStream_dcache (c : CoreSt) (j : Nat) (x : W64) : (c.setStream j x).dcache = c.dcache := rfl
@[simp] theorem CoreSt.setStream_latch (c : CoreSt) (j : Nat) (x : W64) : (c.setStream j x).latch = c.latch := rfl
@[simp] theorem CoreSt.setStream_preempt (c : CoreSt) (j : Nat) (x : W64) : (c.setStream j x).preempt = c.preempt := rfl
@[simp] theorem CoreSt.setStream_safe (c : CoreSt) (j : Nat) (x : W64) : (c.setStream j x).safe = c.safe := rfl
@[simp] theorem CoreSt.setStream_journal (c : CoreSt) (j : Nat) (x : W64) : (c.setStream j x).journal = c.journal := rfl
@[simp] theorem CoreSt.setStream_jsigs (c : CoreSt) (j : Nat) (x : W64) : (c.setStream j x).jsigs = c.jsigs := rfl
@[simp] theorem CoreSt.setStream_oldj (c : CoreSt) (j : Nat) (x : W64) : (c.setStream j x).oldj = c.oldj := rfl
@[simp] theorem CoreSt.setStream_mat (c : CoreSt) (j : Nat) (x : W64) : (c.setStream j x).mat = c.mat := rfl
@[simp] theorem CoreSt.setStream_eng0 (c : CoreSt) (j : Nat) (x : W64) : (c.setStream j x).eng0 = c.eng0 := rfl
@[simp] theorem CoreSt.setStream_eng1 (c : CoreSt) (j : Nat) (x : W64) : (c.setStream j x).eng1 = c.eng1 := rfl
@[simp] theorem CoreSt.setStream_staged (c : CoreSt) (j : Nat) (x : W64) : (c.setStream j x).staged = c.staged := rfl
@[simp] theorem CoreSt.setStream_raised (c : CoreSt) (j : Nat) (x : W64) : (c.setStream j x).raised = c.raised := rfl
@[simp] theorem CoreSt.setStream_held (c : CoreSt) (j : Nat) (x : W64) : (c.setStream j x).held = c.held := rfl
@[simp] theorem CoreSt.setStream_ended (c : CoreSt) (j : Nat) (x : W64) : (c.setStream j x).ended = c.ended := rfl
@[simp] theorem CoreSt.setStream_holders (c : CoreSt) (j : Nat) (x : W64) : (c.setStream j x).holders = c.holders := rfl
@[simp] theorem CoreSt.setStream_holdsNow (c : CoreSt) (j : Nat) (x : W64) : (c.setStream j x).holdsNow = c.holdsNow := rfl
@[simp] theorem CoreSt.setInput_sregs (c : CoreSt) (d : Dom) (b : Bool) (f : InFile) : (c.setInput d b f).sregs = c.sregs := rfl
@[simp] theorem CoreSt.setInput_vregs (c : CoreSt) (d : Dom) (b : Bool) (f : InFile) : (c.setInput d b f).vregs = c.vregs := rfl
@[simp] theorem CoreSt.setInput_mregs (c : CoreSt) (d : Dom) (b : Bool) (f : InFile) : (c.setInput d b f).mregs = c.mregs := rfl
@[simp] theorem CoreSt.setInput_dfile0 (c : CoreSt) (d : Dom) (b : Bool) (f : InFile) : (c.setInput d b f).dfile0 = c.dfile0 := rfl
@[simp] theorem CoreSt.setInput_dfile1 (c : CoreSt) (d : Dom) (b : Bool) (f : InFile) : (c.setInput d b f).dfile1 = c.dfile1 := rfl
@[simp] theorem CoreSt.setInput_guards (c : CoreSt) (d : Dom) (b : Bool) (f : InFile) : (c.setInput d b f).guards = c.guards := rfl
@[simp] theorem CoreSt.setInput_masks (c : CoreSt) (d : Dom) (b : Bool) (f : InFile) : (c.setInput d b f).masks = c.masks := rfl
@[simp] theorem CoreSt.setInput_perms (c : CoreSt) (d : Dom) (b : Bool) (f : InFile) : (c.setInput d b f).perms = c.perms := rfl
@[simp] theorem CoreSt.setInput_rings (c : CoreSt) (d : Dom) (b : Bool) (f : InFile) : (c.setInput d b f).rings = c.rings := rfl
@[simp] theorem CoreSt.setInput_nest (c : CoreSt) (d : Dom) (b : Bool) (f : InFile) : (c.setInput d b f).nest = c.nest := rfl
@[simp] theorem CoreSt.setInput_nt (c : CoreSt) (d : Dom) (b : Bool) (f : InFile) : (c.setInput d b f).nt = c.nt := rfl
@[simp] theorem CoreSt.setInput_ntp (c : CoreSt) (d : Dom) (b : Bool) (f : InFile) : (c.setInput d b f).ntp = c.ntp := rfl
@[simp] theorem CoreSt.setInput_nxts (c : CoreSt) (d : Dom) (b : Bool) (f : InFile) : (c.setInput d b f).nxts = c.nxts := rfl
@[simp] theorem CoreSt.setInput_fmt (c : CoreSt) (d : Dom) (b : Bool) (f : InFile) : (c.setInput d b f).fmt = c.fmt := rfl
@[simp] theorem CoreSt.setInput_fmtq (c : CoreSt) (d : Dom) (b : Bool) (f : InFile) : (c.setInput d b f).fmtq = c.fmtq := rfl
@[simp] theorem CoreSt.setInput_gen (c : CoreSt) (d : Dom) (b : Bool) (f : InFile) : (c.setInput d b f).gen = c.gen := rfl
@[simp] theorem CoreSt.setInput_fst (c : CoreSt) (d : Dom) (b : Bool) (f : InFile) : (c.setInput d b f).fst = c.fst := rfl
@[simp] theorem CoreSt.setInput_words (c : CoreSt) (d : Dom) (b : Bool) (f : InFile) : (c.setInput d b f).words = c.words := rfl
@[simp] theorem CoreSt.setInput_lines (c : CoreSt) (d : Dom) (b : Bool) (f : InFile) : (c.setInput d b f).lines = c.lines := rfl
@[simp] theorem CoreSt.setInput_spx (c : CoreSt) (d : Dom) (b : Bool) (f : InFile) : (c.setInput d b f).spx = c.spx := rfl
@[simp] theorem CoreSt.setInput_inputs (c : CoreSt) (d : Dom) (b : Bool) (f : InFile) : (c.setInput d b f).inputs = sset (emptyIn d) c.inputs (inKey d b) f := rfl
@[simp] theorem CoreSt.setInput_rt (c : CoreSt) (d : Dom) (b : Bool) (f : InFile) : (c.setInput d b f).rt = c.rt := rfl
@[simp] theorem CoreSt.setInput_mks (c : CoreSt) (d : Dom) (b : Bool) (f : InFile) : (c.setInput d b f).mks = c.mks := rfl
@[simp] theorem CoreSt.setInput_dix (c : CoreSt) (d : Dom) (b : Bool) (f : InFile) : (c.setInput d b f).dix = c.dix := rfl
@[simp] theorem CoreSt.setInput_res (c : CoreSt) (d : Dom) (b : Bool) (f : InFile) : (c.setInput d b f).res = c.res := rfl
@[simp] theorem CoreSt.setInput_res2 (c : CoreSt) (d : Dom) (b : Bool) (f : InFile) : (c.setInput d b f).res2 = c.res2 := rfl
@[simp] theorem CoreSt.setInput_inflight (c : CoreSt) (d : Dom) (b : Bool) (f : InFile) : (c.setInput d b f).inflight = c.inflight := rfl
@[simp] theorem CoreSt.setInput_xfers (c : CoreSt) (d : Dom) (b : Bool) (f : InFile) : (c.setInput d b f).xfers = c.xfers := rfl
@[simp] theorem CoreSt.setInput_maskq (c : CoreSt) (d : Dom) (b : Bool) (f : InFile) : (c.setInput d b f).maskq = c.maskq := rfl
@[simp] theorem CoreSt.setInput_permq (c : CoreSt) (d : Dom) (b : Bool) (f : InFile) : (c.setInput d b f).permq = c.permq := rfl
@[simp] theorem CoreSt.setInput_mark (c : CoreSt) (d : Dom) (b : Bool) (f : InFile) : (c.setInput d b f).mark = c.mark := rfl
@[simp] theorem CoreSt.setInput_shadow (c : CoreSt) (d : Dom) (b : Bool) (f : InFile) : (c.setInput d b f).shadow = c.shadow := rfl
@[simp] theorem CoreSt.setInput_dshadow (c : CoreSt) (d : Dom) (b : Bool) (f : InFile) : (c.setInput d b f).dshadow = c.dshadow := rfl
@[simp] theorem CoreSt.setInput_counted (c : CoreSt) (d : Dom) (b : Bool) (f : InFile) : (c.setInput d b f).counted = c.counted := rfl
@[simp] theorem CoreSt.setInput_gated (c : CoreSt) (d : Dom) (b : Bool) (f : InFile) : (c.setInput d b f).gated = c.gated := rfl
@[simp] theorem CoreSt.setInput_stores (c : CoreSt) (d : Dom) (b : Bool) (f : InFile) : (c.setInput d b f).stores = c.stores := rfl
@[simp] theorem CoreSt.setInput_pc (c : CoreSt) (d : Dom) (b : Bool) (f : InFile) : (c.setInput d b f).pc = c.pc := rfl
@[simp] theorem CoreSt.setInput_branches (c : CoreSt) (d : Dom) (b : Bool) (f : InFile) : (c.setInput d b f).branches = c.branches := rfl
@[simp] theorem CoreSt.setInput_issued (c : CoreSt) (d : Dom) (b : Bool) (f : InFile) : (c.setInput d b f).issued = c.issued := rfl
@[simp] theorem CoreSt.setInput_cycle (c : CoreSt) (d : Dom) (b : Bool) (f : InFile) : (c.setInput d b f).cycle = c.cycle := rfl
@[simp] theorem CoreSt.setInput_gates (c : CoreSt) (d : Dom) (b : Bool) (f : InFile) : (c.setInput d b f).gates = c.gates := rfl
@[simp] theorem CoreSt.setInput_skipBrk (c : CoreSt) (d : Dom) (b : Bool) (f : InFile) : (c.setInput d b f).skipBrk = c.skipBrk := rfl
@[simp] theorem CoreSt.setInput_markNext (c : CoreSt) (d : Dom) (b : Bool) (f : InFile) : (c.setInput d b f).markNext = c.markNext := rfl
@[simp] theorem CoreSt.setInput_istore (c : CoreSt) (d : Dom) (b : Bool) (f : InFile) : (c.setInput d b f).istore = c.istore := rfl
@[simp] theorem CoreSt.setInput_tags (c : CoreSt) (d : Dom) (b : Bool) (f : InFile) : (c.setInput d b f).tags = c.tags := rfl
@[simp] theorem CoreSt.setInput_reload (c : CoreSt) (d : Dom) (b : Bool) (f : InFile) : (c.setInput d b f).reload = c.reload := rfl
@[simp] theorem CoreSt.setInput_coord (c : CoreSt) (d : Dom) (b : Bool) (f : InFile) : (c.setInput d b f).coord = c.coord := rfl
@[simp] theorem CoreSt.setInput_owner (c : CoreSt) (d : Dom) (b : Bool) (f : InFile) : (c.setInput d b f).owner = c.owner := rfl
@[simp] theorem CoreSt.setInput_seen (c : CoreSt) (d : Dom) (b : Bool) (f : InFile) : (c.setInput d b f).seen = c.seen := rfl
@[simp] theorem CoreSt.setInput_run (c : CoreSt) (d : Dom) (b : Bool) (f : InFile) : (c.setInput d b f).run = c.run := rfl
@[simp] theorem CoreSt.setInput_task (c : CoreSt) (d : Dom) (b : Bool) (f : InFile) : (c.setInput d b f).task = c.task := rfl
@[simp] theorem CoreSt.setInput_fill (c : CoreSt) (d : Dom) (b : Bool) (f : InFile) : (c.setInput d b f).fill = c.fill := rfl
@[simp] theorem CoreSt.setInput_dcache (c : CoreSt) (d : Dom) (b : Bool) (f : InFile) : (c.setInput d b f).dcache = c.dcache := rfl
@[simp] theorem CoreSt.setInput_latch (c : CoreSt) (d : Dom) (b : Bool) (f : InFile) : (c.setInput d b f).latch = c.latch := rfl
@[simp] theorem CoreSt.setInput_preempt (c : CoreSt) (d : Dom) (b : Bool) (f : InFile) : (c.setInput d b f).preempt = c.preempt := rfl
@[simp] theorem CoreSt.setInput_safe (c : CoreSt) (d : Dom) (b : Bool) (f : InFile) : (c.setInput d b f).safe = c.safe := rfl
@[simp] theorem CoreSt.setInput_journal (c : CoreSt) (d : Dom) (b : Bool) (f : InFile) : (c.setInput d b f).journal = c.journal := rfl
@[simp] theorem CoreSt.setInput_jsigs (c : CoreSt) (d : Dom) (b : Bool) (f : InFile) : (c.setInput d b f).jsigs = c.jsigs := rfl
@[simp] theorem CoreSt.setInput_oldj (c : CoreSt) (d : Dom) (b : Bool) (f : InFile) : (c.setInput d b f).oldj = c.oldj := rfl
@[simp] theorem CoreSt.setInput_mat (c : CoreSt) (d : Dom) (b : Bool) (f : InFile) : (c.setInput d b f).mat = c.mat := rfl
@[simp] theorem CoreSt.setInput_eng0 (c : CoreSt) (d : Dom) (b : Bool) (f : InFile) : (c.setInput d b f).eng0 = c.eng0 := rfl
@[simp] theorem CoreSt.setInput_eng1 (c : CoreSt) (d : Dom) (b : Bool) (f : InFile) : (c.setInput d b f).eng1 = c.eng1 := rfl
@[simp] theorem CoreSt.setInput_staged (c : CoreSt) (d : Dom) (b : Bool) (f : InFile) : (c.setInput d b f).staged = c.staged := rfl
@[simp] theorem CoreSt.setInput_raised (c : CoreSt) (d : Dom) (b : Bool) (f : InFile) : (c.setInput d b f).raised = c.raised := rfl
@[simp] theorem CoreSt.setInput_held (c : CoreSt) (d : Dom) (b : Bool) (f : InFile) : (c.setInput d b f).held = c.held := rfl
@[simp] theorem CoreSt.setInput_ended (c : CoreSt) (d : Dom) (b : Bool) (f : InFile) : (c.setInput d b f).ended = c.ended := rfl
@[simp] theorem CoreSt.setInput_holders (c : CoreSt) (d : Dom) (b : Bool) (f : InFile) : (c.setInput d b f).holders = c.holders := rfl
@[simp] theorem CoreSt.setInput_holdsNow (c : CoreSt) (d : Dom) (b : Bool) (f : InFile) : (c.setInput d b f).holdsNow = c.holdsNow := rfl

theorem State.upd_upd (s : State) (f g : CoreSt → CoreSt) : (s.upd f).upd g = s.upd (fun c => g (f c)) := rfl

theorem State.stage_stage (s : State) (es fs : List Eff) : (s.stage es).stage fs = s.stage (es ++ fs) := by
  simp [State.stage, State.upd, List.append_assoc]

theorem State.stage_nil (s : State) : s.stage [] = s := by simp [State.stage, State.upd]

end Sys2Proof.Machine
end

