-- ==== Sys2Proof/Laws/Moves.lean ====
section
/-! SUPPORT. What the shared shapes of a move do: with a false guard, with a readable source, as a trigger that may run; and that the
issue of a bundle runs each move by the meaning that `exec` gives it. -/

namespace Sys2Proof.Machine

theorem State.withSrc_off {s : State} {sl : Slot} {g : Guard} (h : s.core.guard g.toNat = false) (src : Src) (vec : Bool)
    (k : Val → List Nat → State) : s.withSrc sl g src vec k = s := by
  simp [State.withSrc, h]

theorem State.withSrc_reads {s : State} {sl : Slot} {g : Guard} {src : Src} {vec : Bool} {v : Val} {t : List Nat}
    (h : s.Reads sl g src vec v t) (k : Val → List Nat → State) : s.withSrc sl g src vec k = k v t := by
  obtain ⟨hg, sk, hk, hr⟩ := h
  simp [State.withSrc, hg, hk, hr]

theorem State.trigger_off {s : State} {d : Dom} {g : Guard} (h : s.core.guard g.toNat = false) (src : Src) (reads : Nat)
    (lat : Option Nat) (k : Trig → State) : s.trigger d g src reads lat k = s :=
  State.withSrc_off h src _ _

/-- A trigger that may run runs its operation on what it samples. -/
theorem State.trigger_ready {s : State} {d : Dom} {g : Guard} {src : Src} {lat : Option Nat} {v : Val} {t : List Nat}
    (h : s.Ready d g src lat v t) (reads : Nat) (k : Trig → State) :
    s.trigger d g src reads lat k = k (s.trigAt d v t reads) := by
  cases lat with
  | none => exact State.withSrc_reads h _
  | some l =>
    obtain ⟨hc, w, t1, t2, hr, ht, rfl⟩ := h
    simp only [State.trigger]
    rw [State.withSrc_reads hr]
    simp [hc, ht]

theorem State.moveInto_off {s : State} {sl : Slot} {g : Guard} (h : s.core.guard g.toNat = false) (d : Dst) (src : Src) :
    s.moveInto sl g d src = s := State.withSrc_off h src _ _

theorem State.transferInto_off {s : State} {sl : Slot} {g : Guard} (h : s.core.guard g.toNat = false) (d : Dst) (src : Src) :
    s.transferInto sl g d src = s := State.withSrc_off h src _ _

/-- What an operation that delivers stages. -/
theorem State.deliver_eq (s : State) (tr : Trig) (lat : Nat) (v : Val) (v2 : Option Val) (fl : Flags) (mem : Bool) (act : LandAct)
    (mask : Mask) (more : List Eff) :
    s.deliver tr lat v v2 fl mem act mask more =
      s.stage (tr.took ++ [Eff.result ⟨tr.now + lat, tr.now, tr.dom, v, v2, tr.rt, mask, fl, mem, act, 0, 0⟩] ++ s.reserve tr.rt ++ more) := rfl

/-- The issue runs a move by the meaning that `exec` gives it. -/
theorem runMove_eq {i : Instr} (h : isMove i = true) (s : State) : runMove i s = nextOr s (exec i s) := by
  cases i <;> first | exact Bool.noConfusion h | rfl

/-- A meaning that answers a next state is what the issue runs. -/
theorem runMove_next {i : Instr} (h : isMove i = true) {s t : State} (he : exec i s = .next t) : runMove i s = t := by
  rw [runMove_eq h, he]; rfl

end Sys2Proof.Machine
end

