-- ==== Sys2Proof/Laws/Commands.lean ====
section
/-! SUPPORT. What a C trigger that joins the queue does, once for all of them. -/

namespace Sys2Proof.Machine

/-- The checks of R236, as a condition on the word and the group. -/
theorem State.legal_iff (s : State) (use : CmdUse) (c : Cmd) :
    s.Legal use c ↔ ((s.core.task.cm && uncommitted.contains c.op) || s.cmdIllegal use c) = false := by
  have h1 : (s.core.task.cm = true → c.op ∉ uncommitted) ↔ (s.core.task.cm && uncommitted.contains c.op) = false := by
    cases s.core.task.cm <;> simp
  have h2 : (use.shape = true → 0 < c.rows ∧ 0 < c.rowb) ↔ (use.shape && (decide (c.rows = 0) || decide (c.rowb = 0))) = false := by
    cases use.shape <;> simp <;> omega
  have h3 : (use.sig = true → sigSrcm c.sigw ≠ 3 ∧ s.me.group.hasClu (sigCcl c.sigw) = true) ↔
      (use.sig && (decide (sigSrcm c.sigw = 3) || !s.me.group.hasClu (sigCcl c.sigw))) = false := by
    cases use.sig <;> simp
  have h4 : ∀ (b : Bool) (w : W64) (x y : Bool), (b = true → okEnd w x y) ↔ (b && wrongKind w x y) = false := by
    intro b w x y
    unfold okEnd wrongKind
    cases b <;> cases epT w <;> cases x <;> cases y <;> simp
  rw [State.Legal, State.cmdIllegal, h1, h2, h3, h4, h4]
  simp only [Bool.or_eq_false_iff, and_assoc]

/-- A trigger that is `State.command` queues as `Queues` says. -/
theorem queues_of {op : Nat} {mk : CUnit → Guard → Src → Instr} {use : CmdUse} {legal : State → CUnit → Cmd → Prop}
    {fill : State → CUnit → Cmd → Cmd} {more : CUnit → Cmd → List Eff} {stalls : State → Cmd → Prop} {reads : Nat}
    (bad : State → CUnit → Cmd → Bool) (stall : State → CUnit → Cmd → Bool)
    (he : ∀ u g src s, exec (mk u g src) s =
      .next (s.command u g src op use (bad s u) (more u) (fill s u) reads (stall s u)))
    (hop : ∀ s u c, (fill s u c).op = c.op)
    (hb : ∀ s u c, bad s u c = false ↔ legal s u c) (hs : ∀ s u c, stall s u c = true ↔ stalls s c) :
    Queues op mk use legal fill more stalls reads := by
  intro u s g src v t h
  have e := he u g src s
  simp only [State.command, State.trigger_ready h] at e
  intro r c0 c ok stall'
  have hc : c.op = op := hop s u _
  have hok : ok ↔ ((s.core.task.cm && uncommitted.contains op) || s.cmdIllegal use c || bad s u c) = false := by
    have hl := s.legal_iff use c
    rw [hc] at hl
    show s.Legal use c ∧ legal s u c ↔ _
    rw [hl, ← hb, Bool.or_eq_false_iff (x := _ || _)]
  have hst : stall' ↔ (s.core.task.timed && stall s u c) = true := by
    show _ ∧ _ ↔ _
    rw [← hs s u c]; simp
  have e : exec (mk u g src) s = .next
      (if ((s.core.task.cm && uncommitted.contains op) || s.cmdIllegal use c || bad s u c) = true then
        s.raise { cause := .illegalMove, unit := u.dom.slot.num }
      else if (s.core.task.timed && stall s u c) = true then s.raise { cause := .timedStall, unit := u.dom.slot.num }
      else if 32 ≤ s.waitingCmds u then s.holdMove u.dom.slot.num
      else s.plus (r.took ++ ([Eff.cmd u c use.joins, .commit] ++ more u c))) := e
  rw [hok, hst, e]
  clear_value c
  refine ⟨fun h1 h2 h3 => ?_, fun h1 => ?_, fun h1 h2 => ?_, fun h1 h2 h3 => ?_⟩
  · rw [if_neg (by rw [h1]; simp), if_neg h2, if_neg (by omega)]
  · rw [if_pos (by simpa only [Bool.not_eq_false] using h1)]
  · rw [if_neg (by rw [h1]; simp), if_pos h2]
  · rw [if_neg (by rw [h1]; simp), if_neg h2, if_pos h3]

end Sys2Proof.Machine
end

