-- ==== Sys2Proof/Laws/Decode.lean ====
section
/-! SUPPORT. The fields of a move's word (R51): what each field of a word built from fields is, and that the fields say the whole
word. -/

namespace Sys2Proof

/-- A bit of a word built from its fields. -/
theorem bit_mk (g : BitVec 3) (d : BitVec 10) (s : BitVec 11) (i : Nat) :
    (mkMove g d s).getLsbD i = if i < 11 then s.getLsbD i else if i - 11 < 10 then d.getLsbD (i - 11) else g.getLsbD (i - 11 - 10) := by
  unfold mkMove
  rw [BitVec.getLsbD_append, BitVec.getLsbD_append]
theorem moveG_mk (g : Guard) (d : DstNum) (s : Src) : moveG (mkMove g d s) = g := by
  apply BitVec.eq_of_getLsbD_eq; intro i hi
  simp only [moveG, BitVec.getLsbD_extractLsb', bit_mk, hi, decide_true, Bool.true_and]
  rw [if_neg (by omega), if_neg (by omega)]; congr 1; omega
theorem moveDst_mk (g : Guard) (d : DstNum) (s : Src) : moveDst (mkMove g d s) = d := by
  apply BitVec.eq_of_getLsbD_eq; intro i hi
  simp only [moveDst, BitVec.getLsbD_extractLsb', bit_mk, hi, decide_true, Bool.true_and]
  rw [if_neg (by omega), if_pos (by omega)]; congr 1; omega
theorem moveSrc_mk (g : Guard) (d : DstNum) (s : Src) : moveSrc (mkMove g d s) = s := by
  apply BitVec.eq_of_getLsbD_eq; intro i hi
  simp only [moveSrc, BitVec.getLsbD_extractLsb', bit_mk, hi, decide_true, Bool.true_and]
  rw [if_pos (by omega)]; congr 1; omega
/-- The three fields are the whole word. -/
theorem mk_fields (w : BitVec 24) : mkMove (moveG w) (moveDst w) (moveSrc w) = w := by
  apply BitVec.eq_of_getLsbD_eq; intro i hi
  simp only [bit_mk, moveG, moveDst, moveSrc, BitVec.getLsbD_extractLsb']
  by_cases h1 : i < 11
  · simp only [h1, if_true, decide_true, Bool.true_and]; congr 1; omega
  · by_cases h2 : i - 11 < 10
    · simp only [h1, h2, if_true, if_false, decide_true, Bool.true_and]; congr 1; omega
    · have h3 : i - 11 - 10 < 3 := by omega
      simp only [h1, h2, h3, if_false, decide_true, Bool.true_and]; congr 1; omega
/-- A word with a field that is not zero is not the all-zero move. -/
theorem mk_ne {g : Guard} {d : DstNum} {s : Src} (h : d ≠ 0 ∨ g ≠ 0 ∨ s ≠ 0) : mkMove g d s ≠ 0#24 := by
  intro h0
  have h1 := moveG_mk g d s; have h2 := moveDst_mk g d s; have h3 := moveSrc_mk g d s
  rw [h0] at h1 h2 h3
  have e1 : moveG 0#24 = 0 := by decide
  have e2 : moveDst 0#24 = 0 := by decide
  have e3 : moveSrc 0#24 = 0 := by decide
  rw [e1] at h1; rw [e2] at h2; rw [e3] at h3
  rcases h with h | h | h
  · exact h h2.symm
  · exact h h1.symm
  · exact h h3.symm

end Sys2Proof
end

