-- ==== Sys2Proof/Laws/Sparse.lean ====
section
/-! SUPPORT. Sparse lists: what a key reads as after a write, and that every memory operation keeps the canonical form. -/

namespace Sys2Proof.Machine

section records
variable {α : Type}

theorem alook_aput_same (m : List (Nat × α)) (k : Nat) (v : α) : alook (aput m k v) k = some v := by
  induction m with
  | nil => simp [aput, alook]
  | cons p m ih =>
    obtain ⟨a, w⟩ := p
    by_cases h : a = k
    · simp [aput, alook, h]
    · by_cases h2 : k < a <;> simp [aput, alook, h, h2, ih]

theorem alook_aput_other (m : List (Nat × α)) {k j : Nat} (hj : j ≠ k) (v : α) : alook (aput m k v) j = alook m j := by
  induction m with
  | nil => simp [aput, alook, Ne.symm hj]
  | cons p m ih =>
    obtain ⟨a, w⟩ := p
    by_cases h : a = k
    · subst h; simp [aput, alook, Ne.symm hj]
    · by_cases h2 : k < a
      · simp [aput, alook, h, h2, Ne.symm hj]
      · simp [aput, alook, h, h2, ih]

theorem alook_filter (m : List (Nat × α)) (p : Nat → Bool) (k : Nat) :
    alook (m.filter (fun e => p e.1)) k = if p k then alook m k else none := by
  induction m with
  | nil => simp [alook]
  | cons q m ih =>
    obtain ⟨a, v⟩ := q
    by_cases hak : a = k
    · subst hak
      by_cases hp : p a = true
      · simp [hp, alook]
      · simp only [List.filter, hp]; rw [ih]; simp [hp]
    · by_cases hp : p a = true
      · simp only [List.filter, hp, alook, hak, if_false]; exact ih
      · simp only [List.filter, hp, alook, hak, if_false]; rw [ih]

theorem alook_adel_same (m : List (Nat × α)) (k : Nat) : alook (adel m k) k = none := by
  simpa [adel] using alook_filter m (fun a => decide (a ≠ k)) k

theorem alook_adel_other (m : List (Nat × α)) {k j : Nat} (hj : j ≠ k) : alook (adel m k) j = alook m j := by
  simpa [adel, hj] using alook_filter m (fun a => decide (a ≠ k)) j

theorem sget_eq_alook (d : α) (m : List (Nat × α)) (k : Nat) : sget d m k = (alook m k).getD d := by
  induction m with
  | nil => rfl
  | cons p m ih =>
    obtain ⟨a, v⟩ := p
    by_cases h : a = k <;> simp [sget, alook, h, ih]

/-- Dropping entries by key: the keys that stay read as before, the others as the default. -/
theorem sget_filter (d : α) (m : List (Nat × α)) (p : Nat → Bool) (k : Nat) :
    sget d (m.filter (fun e => p e.1)) k = if p k then sget d m k else d := by
  rw [sget_eq_alook, sget_eq_alook, alook_filter]
  split <;> rfl

end records

section sparse
variable {α : Type} [DecidableEq α] {d : α}

theorem sset_eq (m : List (Nat × α)) (k : Nat) (v : α) : sset d m k v = if v = d then adel m k else aput m k v := by
  cases m <;> rfl

/-- What is written is read back. -/
theorem sget_sset_same (m : List (Nat × α)) (k : Nat) (v : α) : sget d (sset d m k v) k = v := by
  by_cases h : v = d
  · simp [sget_eq_alook, sset_eq, h, alook_adel_same]
  · simp [sget_eq_alook, sset_eq, h, alook_aput_same]

/-- A write leaves every other key alone. -/
theorem sget_sset_other (m : List (Nat × α)) {k j : Nat} (hj : j ≠ k) (v : α) : sget d (sset d m k v) j = sget d m j := by
  by_cases h : v = d
  · simp [sget_eq_alook, sset_eq, h, alook_adel_other m hj]
  · simp [sget_eq_alook, sset_eq, h, alook_aput_other m hj]

/-- Both at once. -/
theorem sget_sset (m : List (Nat × α)) (k j : Nat) (v : α) : sget d (sset d m k v) j = if j = k then v else sget d m j := by
  by_cases h : j = k
  · subst h; simp [sget_sset_same]
  · simp [h, sget_sset_other m h]

/-- A list whose keys lie at or above `lo` lists nothing below it. -/
theorem sget_below {m : List (Nat × α)} {lo k : Nat} (h : swfFrom d lo m = true) (hk : k < lo) : sget d m k = d := by
  induction m generalizing lo with
  | nil => rfl
  | cons p m ih =>
    obtain ⟨a, v⟩ := p
    simp only [swfFrom, Bool.and_eq_true, decide_eq_true_eq] at h
    have : ¬ a = k := by omega
    simp [sget, this, ih h.2 (show k < a + 1 by omega)]

theorem swfFrom_mono {m : List (Nat × α)} {lo lo' : Nat} (h : swfFrom d lo m = true) (hle : lo' ≤ lo) : swfFrom d lo' m = true := by
  cases m with
  | nil => rfl
  | cons p m =>
    obtain ⟨a, v⟩ := p
    simp only [swfFrom, Bool.and_eq_true, decide_eq_true_eq] at h ⊢
    exact ⟨⟨by omega, h.1.2⟩, h.2⟩

theorem swfFrom_filter {m : List (Nat × α)} {lo : Nat} (h : swfFrom d lo m = true) (p : Nat × α → Bool) :
    swfFrom d lo (m.filter p) = true := by
  induction m generalizing lo with
  | nil => rfl
  | cons q m ih =>
    obtain ⟨a, v⟩ := q
    simp only [swfFrom, Bool.and_eq_true, decide_eq_true_eq] at h
    simp only [List.filter]
    split
    · simp [swfFrom, h.1.1, h.1.2, ih h.2]
    · exact swfFrom_mono (ih h.2) (by omega)

theorem swfFrom_aput {m : List (Nat × α)} {lo k : Nat} (h : swfFrom d lo m = true) (hk : lo ≤ k) {v : α} (hv : v ≠ d) :
    swfFrom d lo (aput m k v) = true := by
  induction m generalizing lo with
  | nil => simp [aput, swfFrom, hv, hk]
  | cons p m ih =>
    obtain ⟨a, w⟩ := p
    simp only [swfFrom, Bool.and_eq_true, decide_eq_true_eq] at h
    unfold aput
    split
    · subst a; simp [swfFrom, hv, hk, h.2]
    · split
      · simp [swfFrom, hv, hk, h.1.2, h.2, show k + 1 ≤ a by omega]
      · simp [swfFrom, h.1.1, h.1.2, ih h.2 (by omega : a + 1 ≤ k)]

theorem swf_sset {m : List (Nat × α)} (h : swf d m = true) (k : Nat) (v : α) : swf d (sset d m k v) = true := by
  rw [sset_eq]
  split
  · exact swfFrom_filter h _
  · rename_i hv; exact swfFrom_aput h (Nat.zero_le k) hv

end sparse

/-! ### Memory -/

theorem Memory.wf_set {m : Memory} (h : m.wf = true) (a : Nat) (b : Byte) : (m.set a b).wf = true := swf_sset h a b

theorem Memory.get_set_same (m : Memory) (a : Nat) (b : Byte) : (m.set a b).get a = b := sget_sset_same m a b

theorem Memory.get_set_other (m : Memory) {a j : Nat} (hj : j ≠ a) (b : Byte) : (m.set a b).get j = m.get j :=
  sget_sset_other m hj b

theorem Memory.wf_write {m : Memory} (h : m.wf = true) (a : Nat) (bs : List Byte) : (m.write a bs).wf = true := by
  induction bs generalizing m a with
  | nil => exact h
  | cons b bs ih => exact ih (wf_set h a b) (a + 1)

/-- Outside the bytes written, memory reads as before. -/
theorem Memory.get_write_outside (m : Memory) (a : Nat) (bs : List Byte) {j : Nat} (hj : j < a ∨ a + bs.length ≤ j) :
    (m.write a bs).get j = m.get j := by
  induction bs generalizing m a with
  | nil => rfl
  | cons b bs ih =>
    simp only [List.length_cons] at hj
    rw [Memory.write, ih (m.set a b) (a + 1) (by omega), get_set_other m (by omega)]

/-- The bytes written are read back. -/
theorem Memory.get_write_inside (m : Memory) (a : Nat) (bs : List Byte) (i : Nat) (hi : i < bs.length) :
    (m.write a bs).get (a + i) = bs[i] := by
  induction bs generalizing m a i with
  | nil => simp at hi
  | cons b bs ih =>
    cases i with
    | zero =>
      rw [Memory.write, get_write_outside (m.set a b) (a + 1) bs (by omega), Nat.add_zero, get_set_same]
      rfl
    | succ i =>
      simp only [List.length_cons] at hi
      have := ih (m.set a b) (a + 1) i (by omega)
      rw [Memory.write, show a + (i + 1) = a + 1 + i by omega, this]
      rfl

theorem Memory.wf_clear {m : Memory} (h : m.wf = true) (a n : Nat) : (m.clear a n).wf = true := swfFrom_filter h _

/-- Cleared bytes read as zero, the others as before. -/
theorem Memory.get_clear (m : Memory) (a n j : Nat) :
    (m.clear a n).get j = if a ≤ j ∧ j < a + n then 0 else m.get j := by
  have := sget_filter (0 : Byte) m (fun k => !(decide (a ≤ k) && decide (k < a + n))) j
  unfold Memory.clear Memory.get
  rw [this]
  by_cases h1 : a ≤ j <;> by_cases h2 : j < a + n <;> simp [h1, h2]

theorem Memory.wf_lay {m : Memory} (h : m.wf = true) (a : Nat) (l : List (Nat × Byte)) : (m.lay a l).wf = true := by
  unfold Memory.lay
  induction l generalizing m with
  | nil => exact h
  | cons p l ih => exact ih (wf_set h _ _)

theorem Memory.wf_copy {m : Memory} (h : m.wf = true) (src dst n : Nat) : (m.copy src dst n).wf = true :=
  wf_lay (wf_clear h dst n) dst _

theorem Memory.length_read (m : Memory) (a n : Nat) : (m.read a n).length = n := by simp [Memory.read]

/-- What a write laid down is read back whole. -/
theorem Memory.read_write (m : Memory) (a : Nat) (bs : List Byte) : (m.write a bs).read a bs.length = bs := by
  apply List.ext_getElem
  · simp [Memory.read]
  · intro i h1 h2
    simp only [Memory.read, List.getElem_map, List.getElem_range]
    exact get_write_inside m a bs i h2

end Sys2Proof.Machine
end

