-- ==== Sys2Proof/Laws/Memory.lean ====
section
/-! SUPPORT. Memory stays canonical: every operation of the machine that writes on-chip bytes, bytes of a tensor or an entry of a tile
table keeps `Memory.wf`. -/

namespace Sys2Proof.Machine

theorem State.dirty_mem (s : State) (lp : Bool) (pfn : Nat) : (s.dirty lp pfn).mem = s.mem := by
  cases lp <;> rfl

@[simp] theorem State.onCtx_mem (s : State) (cid : Nat) (f : Ctx → Ctx) : (s.onCtx cid f).mem = s.mem := by
  simp only [State.onCtx]; split <;> rfl

@[simp] theorem State.onSeg_mem (s : State) (cid idx : Nat) (f : Seg → Seg) : (s.onSeg cid idx f).mem = s.mem := s.onCtx_mem _ _

/-- An entry that changes is eight bytes of the HBM tier. -/
theorem State.putEntry_wf {s : State} (h : s.mem.wf = true) (a : Nat) (p : Page) : (s.putEntry a p).mem.wf = true := by
  simp only [State.putEntry]
  split
  · exact h
  · rw [State.dirty_mem]; exact Memory.wf_write h _ _

theorem State.onPage_wf {s : State} (h : s.mem.wf = true) (tid page : Nat) (f : Page → Page) : (s.onPage tid page f).mem.wf = true := by
  simp only [State.onPage]
  split
  · exact State.putEntry_wf h _ _
  · exact h

@[simp] theorem State.sendDec_mem (s : State) (cid clu n src : Nat) : (s.sendDec cid clu n src).mem = s.mem := rfl

/-- A fold of steps that leave memory alone leaves it alone. -/
theorem foldl_mem {α : Type} (f : State → α → State) (hf : ∀ s a, (f s a).mem = s.mem) :
    ∀ (l : List α) (s : State), (l.foldl f s).mem = s.mem
  | [], _ => rfl
  | a :: l, s => (foldl_mem f hf l (f s a)).trans (hf s a)

/-! ### Placement moves no byte -/

@[simp] theorem State.startPush_mem (s : State) (cid idx : Nat) (d : Bool) (sig : List (Nat × Nat)) :
    (s.startPush cid idx d sig).mem = s.mem := by simp [State.startPush]

@[simp] theorem State.startMove_mem (s : State) (m : Nat × Nat × Nat) : (s.startMove m).mem = s.mem := by simp [State.startMove]

@[simp] theorem State.dropWait_mem (s : State) (w : Nat × Nat) : (s.dropWait w).mem = s.mem := rfl

@[simp] theorem State.placeAt_mem (s : State) (cid idx b : Nat) : (s.placeAt cid idx b).mem = s.mem := by simp [State.placeAt]

@[simp] theorem State.pumpGo_mem (tenant pclu : Nat) : ∀ (q : List (Nat × Nat)) (s : State), (State.pumpGo tenant pclu q s).mem = s.mem
  | [], _ => rfl
  | (cid, i) :: q, s => by
    simp only [State.pumpGo]
    split
    · exact State.pumpGo_mem tenant pclu q s
    · split
      · rw [State.pumpGo_mem tenant pclu q, State.dropWait_mem]
      · split
        · rw [State.pumpGo_mem tenant pclu q, State.placeAt_mem]
        · split
          · simp
          · split
            · rfl
            · split <;> simp

@[simp] theorem State.pump_mem (s : State) (tenant pclu : Nat) : (s.pump tenant pclu).mem = s.mem := by
  simp only [State.pump]; split <;> simp

@[simp] theorem State.pumpFor_mem (s : State) (cid idx : Nat) : (s.pumpFor cid idx).mem = s.mem := by simp [State.pumpFor]

@[simp] theorem State.compact_mem (s : State) (tenant pclu : Nat) : (s.compact tenant pclu).mem = s.mem := by
  simp only [State.compact]
  split
  · rfl
  · split <;> simp

@[simp] theorem State.batchDone_mem (s : State) (cid idx : Nat) (freed : Bool) : (s.batchDone cid idx freed).mem = s.mem := by
  simp only [State.batchDone, State.onCtx_mem]
  exact foldl_mem _ (fun s i => s.onSeg_mem cid i _) _ s

@[simp] theorem State.freeSeg_mem (s : State) (cid idx : Nat) : (s.freeSeg cid idx).mem = s.mem := by simp [State.freeSeg]

@[simp] theorem State.freeNow_mem (s : State) (cid idx : Nat) : (s.freeNow cid idx).mem = s.mem := by simp [State.freeNow]

@[simp] theorem State.countFell_mem (s : State) (cid idx : Nat) : (s.countFell cid idx).mem = s.mem := by
  simp only [State.countFell]
  split
  · split <;> simp
  · rfl

@[simp] theorem State.becameResident_mem (s : State) (cid idx : Nat) : (s.becameResident cid idx).mem = s.mem := by
  simp only [State.becameResident]
  rw [foldl_mem]
  · simp
  · intro s a; split <;> simp

/-! ### What writes bytes keeps the form -/

theorem reset_mem_wf : State.reset.mem.wf = true := rfl

theorem State.tensorWrite_wf (tid : Nat) : ∀ (bs : List Byte) (s : State) (off : Nat), s.mem.wf = true →
    (State.tensorWrite tid s off bs).mem.wf = true
  | [], _, _, h => h
  | b :: bs, s, off, h => by
    apply State.tensorWrite_wf tid bs
    split
    · rw [State.dirty_mem]; exact Memory.wf_set h _ _
    · exact h

/-- A fold of steps that keep the form keeps the form. -/
theorem foldl_wf {α : Type} (f : State → α → State) (hf : ∀ s a, s.mem.wf = true → (f s a).mem.wf = true) :
    ∀ (l : List α) (s : State), s.mem.wf = true → (l.foldl f s).mem.wf = true
  | [], _, h => h
  | a :: l, s, h => foldl_wf f hf l (f s a) (hf s a h)

theorem State.toTensor_wf (tid : Nat) {s : State} (h : s.mem.wf = true) (addr off n : Nat) :
    (State.toTensor tid s addr off n).mem.wf = true := by
  simp only [State.toTensor]
  split
  · exact h
  · refine foldl_wf _ (fun s k hs => ?_) _ s h
    split
    · rw [State.dirty_mem]; exact Memory.wf_copy hs _ _ _
    · exact hs

theorem State.fromTensor_wf (tid : Nat) {s : State} (h : s.mem.wf = true) (addr off n : Nat) :
    (State.fromTensor tid s addr off n).mem.wf = true := by
  simp only [State.fromTensor]
  split
  · exact h
  · refine foldl_wf _ (fun s k hs => ?_) _ s h
    split
    · exact Memory.wf_copy hs _ _ _
    · exact Memory.wf_clear hs _ _

theorem State.tensorPut_wf (tid : Nat) {s : State} (h : s.mem.wf = true) (off : Nat) (bs : List Byte) :
    (State.tensorPut tid s off bs).mem.wf = true := by
  refine foldl_wf _ (fun s k hs => ?_) _ s h
  simp only
  split
  · rw [State.dirty_mem]; exact Memory.wf_lay (Memory.wf_clear hs _ _) _ _
  · exact hs

theorem State.writeRuns_wf (tid : Nat) : ∀ (runs : List (Nat × Nat)) (bs : List Byte) (s : State), s.mem.wf = true →
    (State.writeRuns tid runs bs s).mem.wf = true
  | [], _, _, h => h
  | _ :: l, _, s, h => State.writeRuns_wf tid l _ _ (State.tensorWrite_wf tid _ s _ h)

theorem State.segWrite_wf {s : State} (h : s.mem.wf = true) (cid idx off : Nat) (bs : List Byte) :
    (s.segWrite cid idx off bs).mem.wf = true := by
  simp only [State.segWrite]
  split
  · exact Memory.wf_write h _ _
  · split
    · refine State.tensorWrite_wf _ _ _ _ ?_
      split
      · rw [State.onSeg_mem]; exact State.tensorWrite_wf _ _ _ _ h
      · exact h
    · exact h

/-- A store that was checked before its segment was freed. -/
theorem State.oldWrite_wf {s : State} (h : s.mem.wf = true) (a : Nat) (bs : List Byte) : (s.oldWrite a bs).mem.wf = true := by
  simp only [State.oldWrite]
  split
  · exact h
  · exact Memory.wf_write h _ _

theorem State.pushDone_wf {s : State} (h : s.mem.wf = true) (cid idx : Nat) : (s.pushDone cid idx).mem.wf = true := by
  have signals : ∀ (l : List (Nat × Nat)) (s : State) (src : Nat),
      (l.foldl (fun s x => if x.2 < 4096 then s.sendDec cid x.1 x.2 src else s) s).mem = s.mem :=
    fun l s _ => foldl_mem _ (fun s x => by split <;> simp) l s
  simp only [State.pushDone]
  split
  · exact h
  · split
    · simp only [State.freeNow_mem, State.onSeg_mem, signals]
      split
      · split
        · exact h
        · exact State.toTensor_wf _ h _ _ _
      · exact h
    · rw [State.compact_mem]
      split <;> (simp only [State.onCtx_mem, State.onSeg_mem, signals])
      all_goals
        split
        · split
          · exact h
          · exact State.toTensor_wf _ h _ _ _
        · exact h

theorem State.recallDone_wf {s : State} (h : s.mem.wf = true) (cid idx : Nat) (bad : Option Nat) :
    (s.recallDone cid idx bad).mem.wf = true := by
  simp only [State.recallDone]
  split
  · exact h
  · split
    · rw [State.freeNow_mem]
      split
      · exact State.fromTensor_wf _ h _ _ _
      · exact Memory.wf_clear h _ _
    · split
      · rw [State.batchDone_mem, State.becameResident_mem, State.onSeg_mem]
        split
        · exact State.fromTensor_wf _ h _ _ _
        · exact Memory.wf_clear h _ _
      · rw [State.batchDone_mem, State.onSeg_mem]
        split
        · exact State.fromTensor_wf _ h _ _ _
        · exact Memory.wf_clear h _ _

theorem State.moveEnd_wf {s : State} (h : s.mem.wf = true) (cid idx : Nat) : (s.moveEnd cid idx).mem.wf = true := by
  have := Memory.wf_copy h (s.segAddr cid idx 0) (storeAddr ((s.ctx cid).group.pclu ((s.ctx cid).seg idx).home) + ((s.ctx cid).seg idx).newBase * 64)
    (((s.ctx cid).seg idx).size * 64)
  simp only [State.moveEnd]
  split
  · simpa using this
  · split <;> simpa using this

theorem State.moveDone_wf {s : State} (h : s.mem.wf = true) (cid idx : Nat) : (s.moveDone cid idx).mem.wf = true := by
  simp only [State.moveDone]
  split
  · exact h
  · rw [State.compact_mem]; exact State.moveEnd_wf h cid idx

/-- A compaction run to its end copies granules, and no more. -/
theorem State.compacted_wf (tenant pclu : Nat) : ∀ (n : Nat) {s : State}, s.mem.wf = true → (State.compacted tenant pclu n s).mem.wf = true
  | 0, _, h => h
  | n + 1, s, h => by
    simp only [State.compacted]
    split
    · exact State.compacted_wf tenant pclu n (State.moveEnd_wf h _ _)
    · split
      · exact State.compacted_wf tenant pclu n (by rw [State.startMove_mem]; exact h)
      · exact h

theorem State.makeRoom_wf {s t : State} (h : s.mem.wf = true) {cid home n b : Nat} {self : Option Nat}
    (hm : s.makeRoom cid home n self = some (t, b)) : t.mem.wf = true := by
  simp only [State.makeRoom] at hm
  split at hm
  · cases hm; exact h
  · obtain ⟨_, _, he⟩ := Option.map_eq_some_iff.mp hm
    cases he
    exact State.compacted_wf _ _ _ h

theorem State.salloc_wf {s t : State} (h : s.mem.wf = true) {cid bytes home : Nat} {empty : Bool} {name : W16} {st : Nat}
    (hm : s.salloc cid bytes home empty = .made t name st) : t.mem.wf = true := by
  simp only [State.salloc] at hm
  split at hm
  · exact absurd hm (by simp)
  · split at hm
    · exact absurd hm (by simp)
    · split at hm
      · exact absurd hm (by simp)
      · split at hm
        · exact absurd hm (by simp)
        · split at hm
          · rename_i hr
            have hw := State.makeRoom_wf (s := s.tickFresh) h hr
            cases hm
            split
            · rw [State.onCtx_mem]; exact hw
            · exact Memory.wf_clear (by rw [State.onCtx_mem]; exact hw) _ _
          · cases hm
            rw [State.pumpFor_mem]
            simpa using h

theorem State.layPages_wf (tid : Nat) (d : TensorDecl) : ∀ (l : List Nat) (s : State), s.mem.wf = true →
    (State.layPages tid d l s).1.mem.wf = true
  | [], _, h => h
  | p :: l, s, h => by
    simp only [State.layPages]
    split
    · exact h
    · exact State.layPages_wf tid d l _ (by rw [State.dirty_mem]; exact State.onPage_wf (Memory.wf_clear h _ _) _ _ _)

end Sys2Proof.Machine
end

