-- ==== Sys2Proof/Tests/Slice0.lean ====
section
/-! SUPPORT. Tests: ill-formed terms, words written out from the spec's encodings, one step of an instruction on a small state with the
result worked out from its rule, and for every statement with hypotheses a state and operands that meet them. -/

open Sys2Proof Sys2Proof.Machine

namespace Sys2Proof.Tests

set_option Elab.async false

/-! ### Terms that are no instruction: one for each check of `Instr.wf` -/

theorem test_wf_refuses_moves :
    ([.move .s 0 0 0, .move .s 0 5 5, .move .v0 0 1023 5, .move .s 0 708 5, .transfer .x0 0 0 0, .transfer .x0 0 826 5,
      .sysResume 0 1026, .sysAbort 0 1024] : List Instr).all (fun i => !i.wf) = true := by decide

theorem test_wf_refuses_micro_ops :
    ([.microNop 5 0, .microNop 0 4, .aget 8 0 0 0 0, .aget 0 4 0 0 0, .aget 0 0 (2 ^ 24) 0 0, .aget 0 0 (2 ^ 16) 0 0, .waitt 16 0 0,
      .stream 8 0 512 0 0, .stream 0 1024 512 0 0, .stream 0 0 (2 ^ 19 + 512) 0 0, .stream 0 0 0 0 0, .stream 0 0 (257 * 512) 0 0,
      .accw 8 0 0 0 0, .accw 0 8 0 0 0, .accw 0 0 (2 ^ 16) 0 0, .accadd 8 0 0 0 0, .accadd 0 8 0 0 0, .accadd 0 0 (2 ^ 16) 0 0] :
      List Instr).all (fun i => !i.wf) = true := by decide

theorem test_wf_refuses_more_micro_ops :
    ([.escale 8 0 0 0, .escale 0 4 0 0, .ebias 8 0 0 0, .ebias 0 4 0 0, .eact 128 0 0, .eact 3 0 0, .eact 4 0 0, .eqnt 8 0 0 0,
      .eqnt 0 2 0 0, .estore 8 0 0 0 0, .estore 0 8 0 0 0, .estore 0 0 (2 ^ 16) 0 0, .sig (2 ^ 13) 0 0, .bflip 5 0, .bflip 0 4,
      .mloop 0 1 0 0, .mloop 4 1 0 0, .mloop 1 0 0 0, .mloop 1 (2 ^ 24) 0 0, .mjmp (2 ^ 11) 0 0, .mparm 8 0 0 0 0, .mparm 0 8 0 0 0,
      .mparm 0 0 (2 ^ 24) 0 0, .mend 5 0, .mend 0 4] : List Instr).all (fun i => !i.wf) = true := by decide

theorem test_wf_refuses_core_turns :
    ([.agetFillDone 4, .subPush .c0 8, .subReturn .c1 8, .signalApply 1024 0 0 [1], .signalApply 0 64 0 [1], .signalApply 0 0 4096 [1],
      .depidRead 1024 0, .depidRead 0 (2 ^ 32), .packageForward 16, .dispatch 64 0, .dispatch 0 16, .dispenserServe 1024 0,
      .dispenserServe 0 16, .taskRetire 1024 0, .taskRetire 0 (2 ^ 32), .permitExpire 1024 0, .permitExpire 0 256, .timedClearStart 1024 0,
      .timedClearStart 0 (2 ^ 32), .timedTaskStart 1024 0, .timedTaskStart 0 (2 ^ 32), .pushComplete 1024 0, .pushComplete 0 4096,
      .segmentMoveComplete 1024 0, .segmentMoveComplete 0 4096, .recallComplete 1024 0 none, .recallComplete 0 4096 none,
      .hazelWaitRetry 1024, .softError 1024 0 0, .softError 0 4096 0, .softError 0 0 393216, .descriptorCacheFill 4096,
      .overlayRegionReload 16] : List Instr).all (fun i => !i.wf) = true := by decide

theorem test_wf_refuses_package_turns :
    ([.evictionComplete 65536 0, .evictionComplete 0 (2 ^ 32), .fetchComplete 65536 0 true, .fetchComplete 0 (2 ^ 32) true,
      .poolRetry 65536 0, .poolRetry 0 (2 ^ 32), .tsplitDone 65536 0, .ganderElement 4 0, .ganderElement 0 16, .rowPacketReceive 4,
      .pullReceive 4, .retPacketReceive 4, .freeReceive 4, .freeAckReceive 4, .permitAnswerReceive 1024 0 true,
      .permitAnswerReceive 0 (2 ^ 24) true, .flitReceive 24 default, .replayRequest 24 0, .timeBeacon 24 0 0, .linkTrainingDone 24 true 0 0,
      .schedUnclaimed 24 0, .clusterStart 64, .selftestDone 64 true, .hbmTrainingDone 8 true] : List Instr).all (fun i => !i.wf) = true := by
  decide

theorem test_wf_refuses_commands :
    ([.contextCreate 1024 0, .contextCreate 0 16, .contextDestroy 1024, .contextDestroyed 1024, .preempt 1024, .hostResume 1024 none,
      .hostAbort 1024 none, .kload 1024 default, .klaunch 1024 [], .kunload 1024, .qpush 16 0 0, .qpush 0 16 0, .dspcfg 1024 0 0 0,
      .dspcfg 0 16 0 0, .ttw 65536 0 0 none, .ttw 0 (2 ^ 32) 0 none, .tsplit 65536 0, .mgmtPload 65536 0 0, .mgmtPload 0 (2 ^ 32) 0,
      .lenable 24, .ldisable 24, .lclr 24, .collcfg 16 0 [], .collcfg 0 64 [], .pmcfg 1024 0, .frheadWrite 1024 none none none,
      .tensorDescriptorWrite 65536 default none] : List Instr).all (fun i => !i.wf) = true := by decide

theorem test_wf_accepts :
    ([.nop, .move .s 0 645 644, .transfer .x0 7 0 0, .add 0 644, .sysAbort 0 1026, .stream 1 1023 (256 * 512 + 511) 4 3, .mloop 3 1 0 0,
      .signalApply 1023 63 4095 [0, 1], .ganderElement 3 15, .contextCreate 1023 15, .overlayRegionReload 15] : List Instr).all Instr.wf = true := by
  decide

/-! ### Words, bit by bit from R51 and R62 to R65: guard, destination, source -/

/-- The spec's own examples: fmul.b16 is written to DST 814, vclt.i8 has opcode 146 (R63). -/
theorem test_decode_spec_examples :
    decodeMove .v0 (0b000#3 ++ 0b1100101110#10 ++ 0b00000000101#11) = .ok (.fmul .v0 .b16 0 5) ∧
    decodeMove .v1 (0b000#3 ++ 0b1101100010#10 ++ 0b00101000101#11) = .ok (.vclt .v1 .i8 0 325) := by
  refine ⟨?_, ?_⟩ <;> rfl

/-- One word of each family of the S map, R62: opcode 0 stands at DST 720, s4 at source 644, guard 3. -/
theorem test_decode_s_families :
    decodeMove .s (0b011#3 ++ 0b1011010000#10 ++ 0b01010000100#11) = .ok (.add 3 644) ∧          -- 0
    decodeMove .s (0b011#3 ++ 0b1011010101#10 ++ 0b01010000100#11) = .ok (.div 3 644) ∧          -- 5
    decodeMove .s (0b011#3 ++ 0b1011110010#10 ++ 0b01010000100#11) = .ok (.pass 3 644) ∧         -- 34
    decodeMove .s (0b011#3 ++ 0b1011110011#10 ++ 0b01010000100#11) = .ok (.ceq 3 644) ∧          -- 35
    decodeMove .s (0b011#3 ++ 0b1011111001#10 ++ 0b01010000100#11) = .ok (.ld8 3 644) ∧          -- 41
    decodeMove .s (0b011#3 ++ 0b1100001101#10 ++ 0b01010000100#11) = .ok (.acas 3 644) ∧         -- 61
    decodeMove .s (0b011#3 ++ 0b1100010011#10 ++ 0b10000000010#11) = .ok (.sysAbort 3 1026) ∧    -- 67, FUNC 2
    decodeMove .s (0b011#3 ++ 0b1100010011#10 ++ 0b01010000100#11) = .ok (.sysResume 3 644) ∧    -- 67
    decodeMove .s (0b011#3 ++ 0b1100010111#10 ++ 0b01010000100#11) = .ok (.nbrk 3 644) ∧         -- 71
    decodeMove .s (0b011#3 ++ 0b1100011000#10 ++ 0b01010000100#11) = .ok (.sld 3 644) ∧          -- 72
    decodeMove .s (0b011#3 ++ 0b1100100010#10 ++ 0b01010000100#11) = .ok (.sstat 3 644) ∧        -- 82
    decodeMove .s (0b011#3 ++ 0b1100100011#10 ++ 0b01010000100#11) = .error .unassignedTrigger := by
  refine ⟨?_, ?_, ?_, ?_, ?_, ?_, ?_, ?_, ?_, ?_, ?_, ?_⟩ <;> rfl  -- 83

/-- One word of each family of the V map, R63; a5 is source 5. -/
theorem test_decode_v_families :
    decodeMove .v0 (0b000#3 ++ 0b1011010010#10 ++ 0b00000000101#11) = .ok (.vadd .v0 .i8 0 5) ∧   -- 2
    decodeMove .v0 (0b000#3 ++ 0b1011010011#10 ++ 0b00000000101#11) = .error .unassignedTrigger ∧ -- 3: I has no fourth suffix
    decodeMove .v0 (0b000#3 ++ 0b1101111100#10 ++ 0b00000000101#11) = .ok (.rmax .v0 .i32 0 5) ∧  -- 172
    decodeMove .v0 (0b000#3 ++ 0b1110001000#10 ++ 0b00000000101#11) = .ok (.vsel .v0 0 5) ∧       -- 184
    decodeMove .v0 (0b000#3 ++ 0b1110001011#10 ++ 0b00000000101#11) = .ok (.qnt .v0 0 5) ∧        -- 187
    decodeMove .v0 (0b000#3 ++ 0b1110010011#10 ++ 0b00000000101#11) = .ok (.vins .v0 0 5) ∧       -- 195
    decodeMove .v0 (0b000#3 ++ 0b1110011001#10 ++ 0b00000000101#11) = .ok (.vsct .v0 0 5) ∧       -- 201
    decodeMove .v0 (0b000#3 ++ 0b1110100110#10 ++ 0b00000000101#11) = .ok (.porder .v0 0 5) ∧     -- 214
    decodeMove .v0 (0b000#3 ++ 0b1110101100#10 ++ 0b00000000101#11) = .ok (.mfirst .v0 0 5) ∧     -- 220
    decodeMove .v0 (0b000#3 ++ 0b1110110000#10 ++ 0b00000000101#11) = .ok (.rlvl .v0 0 5) ∧       -- 224
    decodeMove .v0 (0b000#3 ++ 0b1110110001#10 ++ 0b00000000101#11) = .error .unassignedTrigger ∧ -- 225
    decodeMove .v0 (0b000#3 ++ 0b1011000011#10 ++ 0b10000000001#11) = .ok (.mkWrite .v0 0 1025) := by
  refine ⟨?_, ?_, ?_, ?_, ?_, ?_, ?_, ?_, ?_, ?_, ?_, ?_⟩ <;> rfl

/-- M, C0, C1, X0 and the moves into registers and ports: R53, R55, R57, R64, R65; 1025 is the short immediate 1. -/
theorem test_decode_other_slots :
    decodeMove .m (0b000#3 ++ 0b1011010110#10 ++ 0b10000000001#11) = .ok (.mstat 0 1025) ∧        -- 6
    decodeMove .m (0b000#3 ++ 0b1011010111#10 ++ 0b10000000001#11) = .error .unassignedTrigger ∧  -- 7
    decodeMove .c1 (0b000#3 ++ 0b1011111000#10 ++ 0b10000000001#11) = .ok (.calq .c1 0 1025) ∧    -- 40
    decodeMove .c1 (0b000#3 ++ 0b1011111001#10 ++ 0b10000000001#11) = .error .unassignedTrigger ∧ -- 41
    decodeMove .c0 (0b000#3 ++ 0b1011000100#10 ++ 0b10000000001#11) = .ok (.dixWrite .c0 0 1025) ∧
    decodeMove .c0 (0b000#3 ++ 0b1011000101#10 ++ 0b10000000001#11) = .ok (.dwr .c0 0 1025) ∧
    decodeMove .m (0b000#3 ++ 0b1011001011#10 ++ 0b10000000001#11) = .ok (.move .m 0 715 1025) ∧
    decodeMove .s (0b000#3 ++ 0b1010000101#10 ++ 0b10000000001#11) = .ok (.move .s 0 645 1025) ∧
    decodeMove .v1 (0b000#3 ++ 0b1011000000#10 ++ 0b00101000101#11) = .ok (.o0Append .v1 0 325) ∧
    decodeMove .s (0b000#3 ++ 0b1011000001#10 ++ 0b10000000001#11) = .ok (.o1Append .s 0 1025) ∧
    decodeMove .s (0b000#3 ++ 0b1011000010#10 ++ 0b10000000001#11) = .ok (.rtWrite .s 0 1025) ∧
    decodeMove .x1 (0b000#3 ++ 0b1100111010#10 ++ 0b10000000001#11) = .ok (.spx .x1 0 1025) ∧
    decodeMove .x1 (0b000#3 ++ 0b1100111011#10 ++ 0b10000000001#11) = .ok (.spd .x1 0 1025) ∧
    decodeMove .x0 (0b000#3 ++ 0b1100011010#10 ++ 0b10000000001#11) = .ok (.transfer .x0 0 794 1025) := by
  refine ⟨?_, ?_, ?_, ?_, ?_, ?_, ?_, ?_, ?_, ?_, ?_, ?_, ?_, ?_⟩ <;> rfl

/-- Micro-words, R223 and R225: OP in bits 95 to 90, F1, F2, a zero, IMM, COND, CL, 31 zeros. -/
theorem test_decode_micro_words :
    decodeMicro (3#6 ++ 2#10 ++ 513#10 ++ 0#10 ++ 1024#24 ++ 4#3 ++ 1#2 ++ 0#31) = some ⟨3, 2, 513, 1024, 4, 1⟩ ∧
    decodeMicro (16#6 ++ 0#10 ++ 0#10 ++ 0#10 ++ 0#24 ++ 0#3 ++ 0#2 ++ 0#31) = some ⟨16, 0, 0, 0, 0, 0⟩ ∧
    decodeMicro (16#6 ++ 0#10 ++ 0#10 ++ 1#10 ++ 0#24 ++ 0#3 ++ 0#2 ++ 0#31) = none ∧
    decodeMicro (16#6 ++ 0#10 ++ 0#10 ++ 0#10 ++ 0#24 ++ 5#3 ++ 0#2 ++ 0#31) = none ∧
    decodeMicro (17#6 ++ 0#10 ++ 0#10 ++ 0#10 ++ 0#24 ++ 0#3 ++ 0#2 ++ 0#31) = none := by decide

/-! ### A small state to run one move on -/

/-- A segment of 64 KiB that lies in the core's cluster; index 3, generation 2. -/
def seg3 : Seg := { gen := 2, state := .resident, size := 1024, placed := true }

def name3 : W16 := segName 3 2

/-- The address word of an offset in that segment (R120). -/
def at3 (off : Nat) : W64 := BitVec.ofNat 64 (name3.toNat + 2 ^ 16 * off)

def ctx0 : Ctx :=
  { regs := 64, rega := 320, regb := 320, quota := 393216, state := .running, kgroup := true, segs := [(3, seg3)],
    group := { d := 1, c := 1, k := 1, map := [(0, 0)] } }

/-- The core runs; domain `d` finds x at its res port, a in o0, b in o1. -/
def st (d : Dom) (x a b : Val) (f : CoreSt → CoreSt := id) (g : Ctx → Ctx := id) : State :=
  let c : CoreSt := { CoreSt.reset with run := .running, res := [(d.num, x)] }
  let c : CoreSt := { c with inputs := [(2 * d.num, { last := a }), (2 * d.num + 1, { last := b })] }
  { State.reset with core := f c, ctxs := [(0, g ctx0)] }

/-- A trigger from the res port (source 704) may run where nothing is in flight and rt is off. -/
theorem ready {s : State} {d : Dom} {x : Val} (lat : Option Nat) (h1 : s.core.inflight = []) (h2 : s.core.rt = [])
    (h3 : s.core.resOf d = x) : s.Ready d 0 704 lat x [] := by
  have hr : s.Reads d.slot 0 704 d.vu?.isSome x [] := by
    refine ⟨rfl, .res d, by cases d <;> rfl, ?_⟩
    simp [State.readSrc, h3]
  cases lat with
  | none => exact hr
  | some l =>
    refine ⟨by simp [CoreSt.collides, h1], .sc 0, [], [], hr, ?_, rfl⟩
    simp [State.checkTarget, CoreSt.rtOf, h2, sget, rtKind, fld]

/-- What a trigger with word x and operands a and b meets. -/
abbrev Meets (d : Dom) (lat : Option Nat) (reads : Nat) (x a b : Val) (p : State → Trig → Prop) (f : CoreSt → CoreSt := id)
    (g : Ctx → Ctx := id) : Prop :=
  (st d x a b f g).Ready d 0 704 lat x [] ∧ p (st d x a b f g) ((st d x a b f g).trigAt d x [] reads)

/-- A scalar, and a vector whose lanes 0 and 1 are x and y. -/
abbrev sc (n : Nat) : Val := .sc (BitVec.ofNat 64 n)
def vc (x y : Nat) : Val := .vec (vecOf (fun i => if i = 0 then BitVec.ofNat 32 x else if i = 1 then BitVec.ofNat 32 y else 0))

/-! ### What meets the hypotheses: encodings and steps -/

theorem witness_DecodeEncode :
    (Instr.rlvl .v1 7 2047).wf = true ∧ encode (.rlvl .v1 7 2047) = some (.v1, 7#3 ++ 944#10 ++ 2047#11) ∧
    (Instr.transfer .x1 7 825 2047).wf = true ∧ encode (.transfer .x1 7 825 2047) = some (.x1, 7#3 ++ 825#10 ++ 2047#11) := by
  refine ⟨?_, ?_, ?_, ?_⟩ <;> rfl

theorem witness_EncodeDecode :
    decodeMove .v1 (7#3 ++ 944#10 ++ 2047#11) = .ok (.rlvl .v1 7 2047) ∧ Instr.rlvl .v1 7 2047 ≠ .nop := by
  refine ⟨?_, by decide⟩; rfl

theorem witness_MicroWords :
    MicroWord.ok ⟨3, 7, 1023, 256 * 512 + 511, 4, 3⟩ = true ∧
    decodeMicro (3#6 ++ 7#10 ++ 1023#10 ++ 0#10 ++ 131583#24 ++ 4#3 ++ 3#2 ++ 0#31) = some ⟨3, 7, 1023, 256 * 512 + 511, 4, 3⟩ := by decide

/-- `add` with source s4 stands as the next bundle. -/
def placed : State := State.reset.withFetchWord 24 0x168284

theorem witness_StepRunsTurns_issue :
    State.reset.agenda = [] ∧ placed.core.run = .running ∧ placed.core.reload = [] ∧ placed.core.fill = [] ∧
    placed.startBundle.before = .pass := by
  refine ⟨rfl, ?_, ?_, ?_, ?_⟩ <;> decide +kernel

theorem witness_StepRunsTurns_passes :
    let u := if placed.startBundle.core.markNext then placed.startBundle.takeMark else placed.startBundle
    let h := decodeHeader (headerBits (u.core.bundle u.core.pc))
    let w := State.execSlots (u.core.bundle u.core.pc) (if h.k then u.takeMark else u)
    u.checks = .pass ∧ w.stopped = false ∧ w.missing = [] ∧ w.core.shadowFull h = false ∧ w.journalFull = false := by decide +kernel

theorem witness_StepRunsTurns_events :
    ({ State.reset with agenda := [.core 255] } : State).agenda = [.core 255] ∧
    ({ State.reset with agenda := [.event 255 .quantumBoundary] } : State).agenda = [.event 255 .quantumBoundary] ∧
    isMove .quantumBoundary = false := ⟨rfl, rfl, rfl⟩

theorem witness_OneMoveBundle :
    (Instr.move .s 0 645 1025).wf = true ∧ (∃ w, encode (.move .s 0 645 1025) = some (.s, w)) ∧ State.reset.stopped = false ∧
    ∃ t, exec (.move .s 0 645 1025) State.reset = .next t ∧ t.stopped = false := by
  exact ⟨rfl, ⟨_, rfl⟩, rfl, _, rfl, rfl⟩

theorem witness_MovesStage :
    isMove (.add 0 645) = true ∧ (Instr.add 0 645).wf = true ∧ ∃ t, exec (.add 0 645) State.reset = .next t ∧ t.stopped = false :=
  ⟨rfl, rfl, _, rfl, rfl⟩

theorem witness_StepsGoOn :
    State.reset.safe = true ∧ ({ State.reset with agenda := [.event 255 (.signalApply 1023 63 4095 [0])] } : State).safe = true := by decide

theorem witness_FalseGuard :
    (Instr.add 7 645).wf = true ∧ moveFields (.add 7 645) = some (.s, 7, 720, 645) ∧ State.reset.core.guard 7 = false := by
  refine ⟨?_, ?_, ?_⟩ <;> decide

theorem witness_MemoryLaws :
    Memory.wf [(3, 7#8), (4, 1#8)] = true ∧ [1#8, 2#8].length = 2 ∧ (5 < 6 ∨ 6 + 2 ≤ 5) ∧ (8 < 6 ∨ 6 + [1#8, 2#8].length ≤ 8) ∧
    ∀ a, Memory.get [(3, 7#8)] a = Memory.get [(3, 7#8)] a := ⟨by decide, rfl, by decide, by decide, fun _ => rfl⟩

/-! ### Moves -/

theorem witness_RegisterMoves_writes :
    wfMove .s 0 645 1025 = true ∧ dstOf .s 645 = some (.sreg 5) ∧ (st .s (sc 1) (sc 0) (sc 0)).Reads .s 0 1025 false (.sc 1) [] ∧
    (st .s (sc 1) (sc 0) (sc 0)).dstVector (.sreg 5) = false := by
  exact ⟨rfl, rfl, ⟨rfl, _, rfl, rfl⟩, rfl⟩

/-- An input file with three unread entries takes one more, with four none (R17). -/
theorem witness_RegisterMoves_append :
    (((st .s (sc 1) (sc 0) (sc 0) (fun c => { c with inputs := [(0, { q := List.replicate 3 (sc 1, 0) })] })).core.input .s false).q.length < 4) ∧
    (4 ≤ ((st .s (sc 1) (sc 0) (sc 0) (fun c => { c with inputs := [(0, { q := List.replicate 4 (sc 1, 0) })] })).core.input .s false).q.length) := by
  decide

/-- rt values: off, −32, and −33, which names nothing (R18). -/
theorem witness_RegisterMoves_rt :
    let s := st .s (sc 1) (sc 0) (sc 0)
    (∃ w, decodeRt (s.me.ownRegs .s) 0 = some w) ∧ (decodeRt (s.me.ownRegs .s) (BitVec.ofInt 64 (-32))).isSome = true ∧
    decodeRt (s.me.ownRegs .s) (BitVec.ofInt 64 (-33)) = none ∧
    s.Reads .s 0 1024 false (.sc 0) [] ∧ s.Reads .s 0 2015 false (.sc (BitVec.ofInt 64 (-33))) [] ∧
    s.Reads .c0 0 1024 false (.sc 0) [] ∧ s.Reads .v0 0 1024 false (.sc 0) [] := by
  refine ⟨⟨_, rfl⟩, by decide, by decide, ⟨rfl, _, rfl, rfl⟩, ⟨rfl, _, rfl, by decide⟩, ⟨rfl, _, rfl, rfl⟩, ⟨rfl, _, rfl, rfl⟩⟩

theorem witness_Transfers :
    let s := st .s (sc 1) (sc 0) (sc 0) (fun c => { c with rings := [(2, { store := 0, base := 8, depM1 := 3, tp := 5, ten := true })] })
    srcKind .x0 645 = some (.sreg 5) ∧ s.Reads .x0 0 645 false (.sc 0) [] ∧
    dstOf .x0 704 = some (.input .s false) ∧ (s.core.input .s false).q.length < 4 ∧ dstOf .x0 823 = some (.tail 5) ∧
    s.checkDst (.tail 5) (.sc 0) = .val (.sc 0) [] ∧ dstOf .x0 706 = some (.rt .s) ∧ (decodeRt (s.me.ownRegs .s) 0).isSome = true ∧
    dstOf .x0 825 = some (.tail 7) ∧ dstOf .x0 801 = some (.guard 7) ∧ zeroMove 0 801 645 = false := by
  refine ⟨by decide, ⟨rfl, .sreg 5, by decide, by decide⟩, ?_, ?_, ?_, ?_, ?_, ?_, ?_, ?_, ?_⟩ <;> decide

/-! ### Slot S -/

theorem witness_ScalarArithmetic :
    Meets .s (some 1) 1 (sc 0) (sc 0) (sc 0) (fun _ _ => True) ∧ Meets .s (some 3) 1 (sc 0) (sc 0) (sc 0) (fun _ _ => True) ∧
    Meets .s (some 18) 1 (sc 1) (sc 7) (sc 0) (fun _ r => r.t.scalar ≠ 0) ∧
    Meets .s (some 18) 1 (sc 0) (sc 7) (sc 0) (fun _ r => r.t.scalar = 0) := by
  refine ⟨⟨ready _ rfl rfl rfl, ?_⟩, ⟨ready _ rfl rfl rfl, ?_⟩, ⟨ready _ rfl rfl rfl, ?_⟩, ⟨ready _ rfl rfl rfl, ?_⟩⟩ <;> decide

theorem witness_ScalarCompares : (st .s (sc 5) (sc 5) (sc 0)).Ready .s 0 704 (some 1) (sc 5) [] := ready _ rfl rfl rfl

/-- Every outcome of an access has its state (R121, R123). -/
theorem witness_SlotAccess :
    let on := fun (f : Seg → Seg) (c : CoreSt → CoreSt) =>
      (st .s (sc 0) (sc 0) (sc 0) c (fun x => { x with segs := [(3, f seg3)] })).slotAccess [⟨name3, 65528, 8⟩] true
    on id id = .val (.sc 0) [3] ∧
    (∃ f, on (fun g => { g with gen := 3 }) id = .fault f ∧ f.cause = .segStale) ∧
    (∃ f, on (fun g => { g with size := 1023 }) id = .fault f ∧ f.cause = .segBounds) ∧
    (∃ f, on id (fun c => { c with task := { timed := true } }) = .fault f ∧ f.cause = .segUndeclared) ∧
    (∃ f, on (fun g => { g with home := 1 }) id = .fault f ∧ f.cause = .segBounds) ∧
    (∃ f, on (fun g => { g with state := .poisoned }) id = .fault f ∧ f.cause = .tilePoison) ∧
    (∃ f, on (fun g => { g with state := .away }) id = .fault f ∧ f.cause = .segAbsent) ∧
    on (fun g => { g with state := .moving }) id = .hold ∧ on (fun g => { g with tiles := [(3, { st := .filling })] }) id = .hold := by
  refine ⟨rfl, ⟨_, rfl, rfl⟩, ⟨_, rfl, rfl⟩, ⟨_, rfl, rfl⟩, ⟨_, rfl, rfl⟩, ⟨_, rfl, rfl⟩, ⟨_, rfl, rfl⟩, rfl, rfl⟩

theorem witness_ScalarMemory :
    Meets .s (some 7) 0 (.sc (at3 65535)) (sc 0) (sc 0) (fun _ r => addrOff r.t.scalar % 2 ≠ 0) ∧
    Meets .s (some 7) 0 (.sc (at3 65528)) (sc 0) (sc 0) (fun s r => addrOff r.t.scalar % 8 = 0 ∧
      s.slotAccess [⟨addrName r.t.scalar, addrOff r.t.scalar, 8⟩] true = .val (.sc 0) [3]) ∧
    Meets .s none 1 (.sc (at3 65528)) (sc 0) (sc 0) (fun _ r => addrOff r.t.scalar % 8 = 0) ∧
    Meets .s none 1 (.sc (at3 65529)) (sc 0) (sc 0) (fun _ r => addrOff r.t.scalar % 8 ≠ 0) := by
  refine ⟨⟨ready _ rfl rfl rfl, ?_⟩, ⟨ready _ rfl rfl rfl, ?_⟩, ⟨ready _ rfl rfl rfl, ?_⟩, ⟨ready _ rfl rfl rfl, ?_⟩⟩ <;> decide +kernel

theorem witness_Control :
    Meets .s none 0 (sc 8191) (sc 0) (sc 0) (fun s r => 0 ≤ (s.core.pc : Int) + r.t.scalar.toInt ∧ (s.core.pc : Int) + r.t.scalar.toInt < 8192) ∧
    Meets .s none 0 (sc 8192) (sc 0) (sc 0) (fun s r => ¬ (0 ≤ (s.core.pc : Int) + r.t.scalar.toInt ∧ (s.core.pc : Int) + r.t.scalar.toInt < 8192)) ∧
    Meets .s none 0 (sc 0) (sc 0) (sc 0) (fun s r => 0 ≤ r.t.scalar.toInt ∧ 63 < s.me.regs) ∧
    Meets .s none 0 (sc 0) (sc 0) (sc 0) (fun s _ => s.me.regs ≤ 63) id (fun x => { x with regs := 63 }) ∧
    Meets .s none 0 (sc 0) (sc 0) (sc 0) (fun s _ => 0 ≤ (s.core.sreg 63).toInt ∧ (s.core.sreg 63).toInt < 8192) (fun c => { c with sregs := [(63, 8191)] }) ∧
    Meets .s none 0 (sc 0) (sc 0) (sc 0) (fun s _ => ¬ (s.core.sreg 63).toInt < 8192) (fun c => { c with sregs := [(63, 8192)] }) ∧
    Meets .s (some 7) 1 (sc 1) (sc 0) (sc 0) (fun _ _ => True) := by
  refine ⟨⟨ready _ rfl rfl rfl, ?_⟩, ⟨ready _ rfl rfl rfl, ?_⟩, ⟨ready _ rfl rfl rfl, ?_⟩, ⟨ready _ rfl rfl rfl, ?_⟩,
    ⟨ready _ rfl rfl rfl, ?_⟩, ⟨ready _ rfl rfl rfl, ?_⟩, ⟨ready _ rfl rfl rfl, ?_⟩⟩ <;> decide

theorem witness_NestOperations :
    Meets .s none 0 (sc 6) (sc 0) (sc 0) (fun _ r => r.t.scalar.toNat % 8 ≠ 0 ∧ r.t.scalar.toNat % 8 ≠ 7) ∧
    Meets .s none 0 (sc 7) (sc 0) (sc 0) (fun _ r => r.t.scalar.toNat % 8 = 0 ∨ r.t.scalar.toNat % 8 = 7) ∧
    Meets .s none 0 (sc (1 + 64 + 63 * 256)) (sc 0) (sc 0) (fun s r => r.t.scalar.toNat / 64 % 4 = 1 ∧ r.t.scalar.toNat / 256 % 64 < s.me.regs) ∧
    Meets .s none 0 (sc (1 + 128 + 31 * 256)) (sc 0) (sc 0) (fun _ r => 2 ≤ r.t.scalar.toNat / 64 % 4 ∧ r.t.scalar.toNat / 256 % 64 < 32) ∧
    Meets .s none 0 (sc (1 + 128 + 32 * 256)) (sc 0) (sc 0) (fun _ r => 2 ≤ r.t.scalar.toNat / 64 % 4 ∧ 32 ≤ r.t.scalar.toNat / 256 % 64) ∧
    Meets .s none 0 (sc 6) (sc 0) (sc 0) (fun s r => (s.core.level (r.t.scalar.toNat % 8)).arm = true) (fun c => { c with nest := [(6, { arm := true })] }) ∧
    Meets .s none 0 (sc 6) (sc 0) (sc 0) (fun s r => (s.core.level (r.t.scalar.toNat % 8)).arm = false) := by
  refine ⟨⟨ready _ rfl rfl rfl, ?_⟩, ⟨ready _ rfl rfl rfl, ?_⟩, ⟨ready _ rfl rfl rfl, ?_⟩, ⟨ready _ rfl rfl rfl, ?_⟩,
    ⟨ready _ rfl rfl rfl, ?_⟩, ⟨ready _ rfl rfl rfl, ?_⟩, ⟨ready _ rfl rfl rfl, ?_⟩⟩ <;> decide

/-- The numbers where the clauses of srd, swr and enrd meet; each stands in one clause. -/
theorem witness_SystemRegisters :
    (∀ n ∈ ([0, 1, 2, 3, 4, 5, 6, 8, 15, 17, 22, 32, 40, 63, 7, 16, 23, 31, 64, 255] : List Nat),
      (st .s (sc n) (sc 0) (sc 0)).Ready .s 0 704 (some 1) (sc n) [] ∧ ((st .s (sc n) (sc 0) (sc 0)).trigAt .s (sc n) [] 0).t.scalar.toNat % 256 = n) ∧
    (∀ n ∈ ([0, 255, 256, 257, 258, 511] : List Nat), ((st .s (sc n) (sc 0) (sc 0)).trigAt .s (sc n) [] 0).t.scalar.toNat % 512 = n) ∧
    Meets .s none 1 (sc 1) (sc 0) (sc 0) (fun _ r => r.t.scalar.toNat % 256 = 1) ∧
    Meets .s none 1 (sc 6) (sc 0) (sc 0) (fun _ r => r.t.scalar.toNat % 256 = 6) ∧
    Meets .s none 1 (sc 0) (sc 0) (sc 0) (fun _ r => r.t.scalar.toNat % 256 ≠ 1 ∧ r.t.scalar.toNat % 256 ≠ 6) := by
  refine ⟨fun n hn => ⟨ready _ rfl rfl rfl, ?_⟩, by decide, ⟨ready _ rfl rfl rfl, by decide⟩, ⟨ready _ rfl rfl rfl, by decide⟩,
    ⟨ready _ rfl rfl rfl, by decide⟩⟩
  revert n; decide

theorem witness_QueueOperations :
    Meets .s none 0 (sc 15) (sc 0) (sc 0) (fun s _ => s.core.task.timed = false ∧ s.core.nxts.length < 4)
      (fun c => { c with nxts := List.replicate 3 (0, 0, none, 0) }) ∧
    Meets .s none 0 (sc 15) (sc 0) (sc 0) (fun s _ => s.core.task.timed = false ∧ 4 ≤ s.core.nxts.length)
      (fun c => { c with nxts := List.replicate 4 (0, 0, none, 0) }) ∧
    Meets .s none 0 (sc 15) (sc 0) (sc 0) (fun s _ => s.core.task.timed = true) (fun c => { c with task := { timed := true } }) ∧
    Meets .s (some 7) 1 (.sc (at3 65472)) (sc 0) (sc 0) (fun s r => (s.core.task.timed = true → r.a.scalar.toNat % 64 = s.lclu) ∧
      addrOff r.t.scalar % 64 = 0 ∧ s.slotAccess [⟨addrName r.t.scalar, addrOff r.t.scalar, 64⟩] false = .val (.sc 0) [3])
      (fun c => { c with task := { timed := true, pins := [3] } }) ∧
    Meets .s (some 7) 1 (.sc (at3 0)) (sc 1) (sc 0) (fun s r => s.core.task.timed = true ∧ r.a.scalar.toNat % 64 ≠ s.lclu)
      (fun c => { c with task := { timed := true } }) := by
  refine ⟨⟨ready _ rfl rfl rfl, ?_⟩, ⟨ready _ rfl rfl rfl, ?_⟩, ⟨ready _ rfl rfl rfl, ?_⟩, ⟨ready _ rfl rfl rfl, ?_⟩,
    ⟨ready _ rfl rfl rfl, ?_⟩⟩ <;> decide +kernel

theorem witness_SegmentOperations :
    Meets .s (some 7) 1 (sc 64) (sc 0) (sc 0) (fun s _ => s.core.task.timed = false) ∧
    Meets .s (some 7) 1 (sc 64) (sc 0) (sc 0) (fun s _ => s.core.task.timed = true) (fun c => { c with task := { timed := true } }) ∧
    Meets .s (some 7) 0 (.sc (name3.setWidth 64)) (sc 0) (sc 0) (fun s r => s.core.task.timed = false ∧ s.me.stale (addrName r.t.scalar) = false) ∧
    Meets .s (some 7) 0 (sc 3) (sc 0) (sc 0) (fun s r => s.core.task.timed = false ∧ s.me.stale (addrName r.t.scalar) = true) := by
  refine ⟨⟨ready _ rfl rfl rfl, ?_⟩, ⟨ready _ rfl rfl rfl, ?_⟩, ⟨ready _ rfl rfl rfl, ?_⟩, ⟨ready _ rfl rfl rfl, ?_⟩⟩ <;> decide +kernel

/-- The largest segment, created at the lowest free index. -/
theorem witness_SegmentCreation :
    let s := st .s (sc 0) (sc 0) (sc 0) id (fun x => { x with segs := [(0, { state := .resident }), (1, { state := .away })] })
    (alook s.ctxs 0).isSome = true ∧ 0 < 25165824 ∧ (25165824 + 63) / 64 ≤ 393216 ∧ (s.ctx 0).group.hasClu 0 = true ∧
    (25165824 + 63) / 64 ≤ (s.ctx 0).quota ∧ (∀ i, i < 2 → ((s.ctx 0).seg i).state ≠ .free) ∧ ((s.ctx 0).seg 2).state = .free := by decide +kernel

/-! ### Slots V0 and V1 -/

/-- The readiness that every V clause asks for, in both units and at each latency. -/
theorem witness_VectorReady (v : VUnit) (lat : Option Nat) :
    (st v.dom (vc 1 2) (vc 3 4) (vc 5 6)).Ready v.dom 0 704 lat (vc 1 2) [] := ready lat rfl rfl (by cases v <;> rfl)

/-- FA and FO inside and outside the MX formats, where cvt, qnt, dqt and pack part. -/
theorem witness_FormatOperations :
    let w := fun (fa fo : Nat) => BitVec.ofNat 40 (fa * 2 ^ 35 + fo * 2 ^ 20)
    let f := fun (fa fo : Nat) (c : CoreSt) => { c with fmt := w fa fo }
    let fa := fun (s : State) => s.core.fmt.toNat / 2 ^ 35
    let fo := fun (s : State) => s.core.fmt.toNat / 2 ^ 20 % 32
    Meets .v0 (some 4) 0 (vc 1 2) (vc 0 0) (vc 0 0) (fun s _ => 17 ≤ fo s ∧ fo s ≤ 23) (f 15 17) ∧
    Meets .v0 (some 4) 0 (vc 1 2) (vc 0 0) (vc 0 0) (fun s _ => ¬ (17 ≤ fa s ∧ fa s ≤ 23) ∧ ¬ (17 ≤ fo s ∧ fo s ≤ 23)) (f 16 24) ∧
    Meets .v1 (some 4) 1 (vc 1 2) (vc 0 0) (vc 0 0) (fun s r => (fa s = 15 ∨ fa s = 13) ∧ 17 ≤ fo s ∧ fo s ≤ 23 ∧ r.scp ≤ 2) (f 13 23) ∧
    Meets .v1 (some 4) 1 (vc 1 2) (vc 0 0) (vc 0 0) (fun s _ => (17 ≤ fa s ∧ fa s ≤ 23) ∨ fa s = 10) (f 10 15) ∧
    Meets .v1 (some 4) 1 (vc 1 2) (vc 0 0) (vc 0 0) (fun s _ => ¬ ((17 ≤ fa s ∧ fa s ≤ 23) ∨ fa s = 10)) (f 24 15) ∧
    Meets .v0 (some 6) 0 (vc 1 2) (vc 0 0) (vc 0 0) (fun _ r => (r.fa = 15 ∨ r.fa = 13) ∧ 17 ≤ r.fo ∧ r.fo ≤ 23 ∧ r.scp ≤ 2) (f 15 17) := by
  refine ⟨⟨ready _ rfl rfl rfl, ?_⟩, ⟨ready _ rfl rfl rfl, ?_⟩, ⟨ready _ rfl rfl rfl, ?_⟩, ⟨ready _ rfl rfl rfl, ?_⟩,
    ⟨ready _ rfl rfl rfl, ?_⟩, ⟨ready _ rfl rfl rfl, ?_⟩⟩ <;> decide +kernel

/-- The largest finite FP16, the smallest subnormal FP64. -/
theorem witness_VectorFloats_rounding :
    decodeFP fp16 0x7BFF = .fin false 65504 1 ∧ 0x7BFF < 2 ^ (1 + fp16.eb + fp16.m) ∧ decodeFP fp64 1 = .fin false 1 (2 ^ 1074) := by
  decide +kernel

/-- An unaligned offset of an enabled lane; an access to two lanes; no lane enabled. -/
theorem witness_VectorMemory :
    let s := st .v0 (vc 1 2) (vc 3 4) (vc 5 6)
    let m : Mask := 3
    (∃ i, i < 256 ∧ bit m i = true ∧ (fun i => 4 * i + i) i % 4 ≠ 0) ∧
    (∀ i, i < 256 → bit m i = true → (fun i => 64 * i) i % 4 = 0) ∧ laneOffs m (fun i => 64 * i) = [(0, 0), (1, 64)] ∧
    s.slotAccess [⟨name3, 0, 4⟩, ⟨name3, 64, 4⟩] true = .val (.sc 0) [3] ∧ portCount (laneOffs m (fun i => 64 * i)) ≤ 8 ∧
    8 < portCount (laneOffs (511 : Mask) (fun i => 2048 * i)) ∧ laneOffs 0 (fun i => 64 * i) = [] ∧ s.core.task.timed = false := by
  refine ⟨⟨1, by decide⟩, ?_, ?_, ?_, ?_, ?_, ?_, ?_⟩ <;> decide +kernel

/-- A register that holds a bijection; an index form that is one, and one that is not. -/
theorem witness_Permutations :
    let s := st .v0 (vc 0x10 0) (vc 0 0) (vc 0 0)
    Bijection (s.core.perm 1) ∧ (s.core.perm 1).length = 256 ∧
    Bijection (((vecOf (fun i => BitVec.ofNat 32 (255 - i))).map (fun (y : BitVec 32) => y.toNat % 256))) ∧
    ¬ Bijection ((vecOf (fun _ => 7)).map (fun (y : BitVec 32) => y.toNat % 256)) := by
  unfold Bijection
  refine ⟨?_, ?_, ?_, ?_⟩ <;> decide +kernel

theorem witness_MasksAndRings :
    let q := fun (c : CoreSt) => { c with rings := [(2, { store := 0, base := 8, depM1 := 3, hl := 7, hen := true, tp := 7, ten := true })] }
    let w := fun (x : Val) => (lane x.vector 0).toNat
    Meets .v0 none 0 (vc (7 + 8 * 64) 0) (vc 0 0) (vc 0 0) (fun s r => w r.t / 8 % 128 ≤ 64 ∧ (s.core.headRing (w r.t % 8)).isSome = true) q ∧
    Meets .v0 none 0 (vc (7 + 8 * 65) 0) (vc 0 0) (vc 0 0) (fun s r => 64 < w r.t / 8 % 128 ∨ s.core.headRing (w r.t % 8) = none) q ∧
    Meets .v1 none 0 (vc (7 + 8 * 64) 0) (vc 0 0) (vc 0 0) (fun s r => w r.t / 8 % 128 ≤ 64 ∧ (s.core.tailRing (w r.t % 8)).isSome = true) q ∧
    Meets .v1 none 0 (vc 6 0) (vc 0 0) (vc 0 0) (fun s r => 64 < w r.t / 8 % 128 ∨ s.core.tailRing (w r.t % 8) = none) q := by
  refine ⟨⟨ready _ rfl rfl rfl, ?_⟩, ⟨ready _ rfl rfl rfl, ?_⟩, ⟨ready _ rfl rfl rfl, ?_⟩, ⟨ready _ rfl rfl rfl, ?_⟩⟩ <;> decide +kernel

/-- rbind: a ring of four entries at a8, and what it refuses: the first entry at a0, a bare depth past the file, scalar registers. -/
theorem witness_MasksAndRings_bind :
    let ok := fun (base depM1 store : Nat) =>
      exec (.rbind .v0 0 704) (st .v0 (vc 0 0) (vc (base + 2 ^ 16 * store + 2 ^ 18 * depM1) 0) (vc 0 0))
    (∃ t, ok 8 3 0 = .next t ∧ t.stopped = false) ∧ (∃ t, ok 0 3 0 = .next t ∧ t.stopped = true) ∧
    (∃ t, ok 317 3 0 = .next t ∧ t.stopped = true) ∧ (∃ t, ok 316 3 0 = .next t ∧ t.stopped = false) ∧
    (∃ t, ok 8 3 2 = .next t ∧ t.stopped = true) := by
  refine ⟨⟨_, rfl, ?_⟩, ⟨_, rfl, ?_⟩, ⟨_, rfl, ?_⟩, ⟨_, rfl, ?_⟩, ⟨_, rfl, ?_⟩⟩ <;> decide +kernel

/-! ### The matrix engine -/

theorem witness_MatrixTriggers :
    let w := fun (r : Trig) => r.t.scalar.toNat
    let full := fun (c : CoreSt) => { c with mat := { c.mat with queue := List.replicate 8 { kind := .accz, seq := 0 } } }
    let seven := fun (c : CoreSt) => { c with mat := { c.mat with queue := List.replicate 7 { kind := .accz, seq := 0 } } }
    let fm := fun (n : Nat) (c : CoreSt) => { c with fmt := BitVec.ofNat 40 n }
    let callOk := fun (s : State) (r : Trig) => w r / 2 ^ 20 % 256 &&& w r / 2 ^ 12 % 256 = w r / 2 ^ 20 % 256 ∧ (s.mCmd r .call).badFormat = false
    let loadOk := fun (r : Trig) => 1 ≤ w r / 2 ^ 12 % 2 ^ 11 ∧ w r % 2 ^ 11 + w r / 2 ^ 12 % 2 ^ 11 ≤ 2048
    Meets .m none 0 (sc (2 ^ 12 + 2 ^ 20)) (sc 0) (sc 0) (fun s r => callOk s r ∧ s.core.mat.waiting < 8) seven ∧
    Meets .m none 0 (sc (2 ^ 12 + 2 ^ 20)) (sc 0) (sc 0) (fun s r => callOk s r ∧ 8 ≤ s.core.mat.waiting) full ∧
    Meets .m none 0 (sc (2 ^ 12 + 2 ^ 21)) (sc 0) (sc 0) (fun _ r => w r / 2 ^ 20 % 256 &&& w r / 2 ^ 12 % 256 ≠ w r / 2 ^ 20 % 256) ∧
    Meets .m none 0 (sc 0) (sc 0) (sc 0) (fun s r => (s.mCmd r .call).badFormat = true) (fm (24 * 2 ^ 35)) ∧
    Meets .m none 1 (sc (2047 + 2 ^ 12)) (sc 0) (sc 0) (fun s r => loadOk r ∧ s.core.mat.waiting < 8) seven ∧
    Meets .m none 1 (sc (2047 + 2 * 2 ^ 12)) (sc 0) (sc 0) (fun _ r => ¬ loadOk r) ∧
    Meets .m none 1 (sc (2047 + 2 ^ 12)) (sc 0) (sc 0) (fun s r => loadOk r ∧ 8 ≤ s.core.mat.waiting) full := by
  refine ⟨⟨ready _ rfl rfl rfl, ?_⟩, ⟨ready _ rfl rfl rfl, ?_⟩, ⟨ready _ rfl rfl rfl, ?_⟩, ⟨ready _ rfl rfl rfl, ?_⟩,
    ⟨ready _ rfl rfl rfl, ?_⟩, ⟨ready _ rfl rfl rfl, ?_⟩, ⟨ready _ rfl rfl rfl, ?_⟩⟩ <;> decide +kernel

/-- bload in FP32: class 3 has 64 K-blocks; NKB 1 from 63 fits, 2 from 63 does not; format 24 raises. -/
theorem witness_MatrixTriggers_bload :
    let w := fun (r : Trig) => r.t.scalar.toNat
    let fa := fun (s : State) => s.core.fmt.toNat / 2 ^ 35
    let bOk := fun (s : State) (r : Trig) => fa s < 24 ∧ 1 ≤ w r % 512 ∧ w r % 512 ≤ 256 ∧ w r / 512 % 512 ≤ 255 ∧
      w r / 512 % 512 + w r % 512 ≤ clsBlocks (s.mCmd r .bload).cls
    Meets .m none 2 (sc (1 + 63 * 512)) (sc 0) (sc 0) (fun s r => bOk s r ∧ s.core.mat.waiting < 8) ∧
    Meets .m none 2 (sc (2 + 63 * 512)) (sc 0) (sc 0) (fun s r => fa s < 24 ∧ ¬ bOk s r) ∧
    Meets .m none 2 (sc (1 + 63 * 512)) (sc 0) (sc 0) (fun s _ => 24 ≤ fa s) (fun c => { c with fmt := BitVec.ofNat 40 (24 * 2 ^ 35) }) := by
  refine ⟨⟨ready _ rfl rfl rfl, ?_⟩, ⟨ready _ rfl rfl rfl, ?_⟩, ⟨ready _ rfl rfl rfl, ?_⟩⟩ <;> decide +kernel

theorem witness_MatrixStatus :
    ∀ n ∈ ([0, 1, 2, 3, 4, 7] : List Nat), (st .m (sc n) (sc 0) (sc 0)).Ready .m 0 704 (some 1) (sc n) [] ∧
      ((st .m (sc n) (sc 0) (sc 0)).trigAt .m (sc n) [] 0).t.scalar.toNat % 8 = n := by
  intro n hn
  refine ⟨ready _ rfl rfl rfl, ?_⟩
  revert n; decide

/-- A state whose M queue holds one command. -/
def queued (k : MCmd) (f : CoreSt → CoreSt := id) (g : Ctx → Ctx := id) : State :=
  st .m (sc 0) (sc 0) (sc 0) (fun c => f { c with mat := { c.mat with queue := [k] } }) g

/-- An mload of the last word; the segment holds zeros, and the zero word is nop. -/
def loadCmd : MCmd := { kind := .mload, seq := 5, o0 := at3 0, word := BitVec.ofNat 64 (2047 + 2 ^ 12) }

theorem witness_MatrixLanes_mload :
    let s := queued loadCmd
    s.mHead .mload = some loadCmd ∧ loadCmd.word.toNat / 2 ^ 12 % 2 ^ 11 = 1 ∧
    (s.ctx loadCmd.cid).acquire loadCmd.pinsFor none true [⟨epName loadCmd.o0, epOff loadCmd.o0, 16⟩] = .ok [3] ∧
    (s.seg loadCmd.cid (nameIdx (epName loadCmd.o0))).tilesOk (epOff loadCmd.o0) 16 false = true ∧
    (decodeMicro (BitVec.ofNat 96 (natLE (((s.mRead loadCmd (epName loadCmd.o0) (epOff loadCmd.o0) 16).drop 0).take 12)))).isSome = true := by
  refine ⟨?_, ?_, ?_, ?_, ?_⟩ <;> decide +kernel

/-- A bload of K-block 1 of FP32 rows into a half that holds one. -/
def bCmd : MCmd := { kind := .bload, seq := 5, o0 := at3 0, word := BitVec.ofNat 64 (1 + 512), fmt := fmtReset }

theorem witness_MatrixLanes_bload :
    let s := queued bCmd (fun c => { c with mat := { c.mat with halves := ({}, { cls := 3, fb := 15, kbv := 1 }) } })
    s.core.mat.loadHead = some bCmd ∧ s.mReady bCmd = true ∧ isMX bCmd.fb = false ∧ bCmd.cls = 3 ∧ bCmd.fb = 15 ∧
    s.core.mat.halves.2.kbv = 1 ∧ (s.ctx bCmd.cid).acquire bCmd.pinsFor none true [⟨epName bCmd.o0, epOff bCmd.o0, 1 * 16 * bRowBytes bCmd⟩] = .ok [3] ∧
    (s.seg bCmd.cid (nameIdx (epName bCmd.o0))).tilesOk (epOff bCmd.o0) (1 * 16 * bRowBytes bCmd) false = true := by
  refine ⟨?_, ?_, ?_, ?_, ?_, ?_, ?_, ?_⟩ <;> decide +kernel

theorem witness_MatrixLanes_others :
    let k := fun (n : MKind) => ({ kind := n, seq := 5, word := 255 } : MCmd)
    (queued (k .bswap)).mHead .bswap = some (k .bswap) ∧ (queued (k .accz)).mHead .accz = some (k .accz) ∧
    (queued (k .accrel)).mHead .accrel = some (k .accrel) ∧ ∀ x ∈ (queued (k .bswap)).core.mat.queue, x.kind ≠ .bload := by decide +kernel

/-- A call at word 2,047 with wp0 in its set and its store range. -/
def callCmd : MCmd :=
  { kind := .call, seq := 5, word := BitVec.ofNat 64 (2047 + 2 ^ 12 + 2 ^ 20), wps := at3 0 :: List.replicate 7 0, fmt := fmtReset }

theorem witness_CallDispatch :
    let s := queued callCmd
    let r : Routine := { call := callCmd, mpc := 2047, wp := callCmd.wps, held := [3], ranges := [(3, 0, 65536)] }
    s.mHead .call = some callCmd ∧ (s.ctx callCmd.cid).acquire callCmd.pinsFor none true [⟨epName (at3 0), epOff (at3 0), 0⟩] = .ok [3] ∧
    ∀ p ∈ r.tiles, ((s.seg callCmd.cid p.1).tile p.2).st = .ready := by
  refine ⟨?_, ?_, ?_⟩ <;> decide +kernel

/-- A routine that stands at a micro-word. -/
def atWord (w : MicroWord) (f : Routine → Routine := id) (g : Matrix → Matrix := id) : State :=
  let r : Routine := f { call := callCmd, mpc := 0, wp := callCmd.wps, held := [3], ranges := [(3, 0, 65536)] }
  st .m (sc 0) (sc 0) (sc 0) (fun c => { c with mat := g { c.mat with routine := some r, micro := [(0, encodeMicro w)] } })

def routineOf (s : State) : Routine := s.core.mat.routine.getD { call := callCmd }

/-- The routine stands at each of these words, and COND 0 holds. -/
theorem witness_MicroControl :
    ∀ w ∈ ([⟨0, 0, 0, 0, 0, 0⟩, ⟨2, 0, 0, 0, 0, 0⟩, ⟨13, 3, 0, 1, 0, 0⟩, ⟨14, 0, 0, 2047, 0, 0⟩, ⟨15, 7, 7, 2 ^ 24 - 1, 0, 0⟩, ⟨8, 0, 0, 3 + 4 * 31, 0, 0⟩,
      ⟨9, 7, 0, 0, 0, 0⟩, ⟨6, 0, 2, 0, 0, 0⟩, ⟨7, 0, 3, 0, 0, 0⟩, ⟨6, 0, 1, 0, 0, 0⟩, ⟨11, 0, 0, 8191, 0, 0⟩, ⟨11, 0, 0, 4095, 0, 0⟩, ⟨12, 0, 0, 0, 0, 0⟩,
      ⟨16, 0, 0, 0, 0, 0⟩, ⟨10, 0, 7, 0, 0, 0⟩, ⟨1, 0, 3, 0, 0, 0⟩, ⟨3, 0, 0, 512, 0, 0⟩, ⟨4, 0, 7, 0, 0, 0⟩, ⟨5, 0, 7, 0, 0, 0⟩] : List MicroWord),
      (atWord w).core.mat.microAt w = some (routineOf (atWord w)) ∧ (routineOf (atWord w)).cond w.cond = true ∧ (routineOf (atWord w)).skip = 0 := by
  decide +kernel

theorem witness_MicroControl_scale :
    (routineOf (atWord ⟨6, 0, 3, 0, 0, 0⟩)).member (at3 0) = true ∧ clsCols callCmd.cls = 32 ∧
    epOff (at3 0) + 4 * 256 ≤ ((atWord ⟨6, 0, 3, 0, 0, 0⟩).seg 0 3).size * 64 ∧
    ((atWord ⟨6, 0, 3, 0, 0, 0⟩).seg 0 3).tile 0 = {} ∧ tileSpan 0 1024 = [0] ∧ (atWord ⟨12, 0, 0, 0, 0, 0⟩).core.mat.loadHead = none := by decide +kernel

theorem witness_MicroFlow :
    (routineOf (atWord ⟨0, 0, 0, 0, 2, 0⟩)).cond 2 = false ∧
    (atWord ⟨0, 0, 0, 0, 2, 0⟩).core.mat.microAt ⟨0, 0, 0, 0, 2, 0⟩ = some (routineOf (atWord ⟨0, 0, 0, 0, 2, 0⟩)) ∧
    0 < (routineOf (atWord ⟨12, 0, 0, 0, 0, 0⟩ (fun r => { r with skip := 1 }))).skip ∧
    microOf (.bflip 0 0) = some ⟨12, 0, 0, 0, 0, 0⟩ := by decide +kernel

theorem witness_MicroData_fill :
    (atWord ⟨1, 0, 3, 0, 0, 0⟩).core.mat.slot 3 ≠ .filling ∧ 255 * 64 + 64 ≤ ((atWord ⟨1, 0, 3, 0, 0, 0⟩).seg 0 3).size * 64 ∧
    (atWord ⟨0, 0, 0, 0, 0, 0⟩ id (fun m => { m with slots := [.empty, .empty, .empty, .filling] })).core.mat.slot 3 = .filling ∧
    255 * 128 + 128 ≤ ((atWord ⟨4, 0, 7, 0, 0, 0⟩).seg 0 3).size * 64 := by decide +kernel

theorem witness_IntegerDotProduct :
    let k : MCmd := { kind := .call, seq := 0, fmt := BitVec.ofNat 40 (4 * 2 ^ 35 + 4 * 2 ^ 30) }
    k.ip = true ∧ 2 ^ 32 - 1 < 2 ^ 32 ∧ (List.replicate 16 255).length = 16 := by decide +kernel

theorem witness_MicroStoreAndEnd :
    let s := atWord ⟨10, 0, 7, 0, 0, 0⟩
    let r := routineOf s
    r.member (at3 0) = true ∧ clsCols callCmd.cls * fieldBits callCmd.fo / 8 = 128 ∧ (∀ i, i < 256 → r.covers (at3 0) (i * 128) 128 = true) ∧
    r.epi.mode = 0 ∧ callCmd.cm = false ∧ callCmd.rm ≠ 4 ∧ (routineOf (atWord ⟨0, 0, 0, 0, 0, 0⟩ (fun r => { r with restart := true }))).restart = true ∧
    (routineOf (atWord ⟨0, 0, 0, 0, 0, 0⟩)).faulted = false ∧ State.reset.core.mat.warm = false := by decide +kernel

theorem witness_MicroData_stream :
    let s := atWord ⟨3, 7, 3, 512, 0, 0⟩ id (fun m => { m with halves := ({ cls := 3, fb := 15, kbv := 1 }, {}), slots := List.replicate 4 .full })
    let h := s.core.mat.halves.1
    s.core.mat.microAt ⟨3, 7, 3, 512, 0, 0⟩ = some (routineOf s) ∧ s.core.mat.active = false ∧ h.cls = callCmd.cls ∧ h.fb = callCmd.fb ∧
    3 < 128 / fieldBits callCmd.fa ∧ 0 + 1 ≤ h.kbv ∧ callCmd.timed = false ∧ ∀ x ∈ blockSlots callCmd.fa 3, s.core.mat.slot x = .full := by decide +kernel

/-! ### Commands of C0 and C1 -/

/-- A trigger of C0 whose group lies in d0 to d7. -/
def cst (word : Nat) (grp : List W64) (f : CoreSt → CoreSt := id) (g : Ctx → Ctx := id) : State :=
  st .c0 (sc word) (sc 0) (sc 0) (fun c => f { c with dfile0 := grp.zipIdx.map (fun p => (p.2, p.1)) }) g

/-- Two segment endpoints, one row of 64 bytes, no signal. -/
def copyGroup : List W64 := [at3 0, at3 4096, BitVec.ofNat 64 (1 + 64 * 2 ^ 16), 0]

theorem ready_c {word : Nat} {grp : List W64} (lat : Option Nat) : (cst word grp).Ready .c0 0 704 lat (sc word) [] := ready lat rfl rfl rfl

def sampled (s : State) (op : Nat) : Cmd :=
  let c := s.sample .c0 op (s.core.resOf .c0).scalar
  { c with local_ := false }

/-- A copy that every check of R236 lets pass, and one for each check that does not. -/
theorem witness_EngineTriggers :
    let ok := fun (s : State) (op : Nat) (use : CmdUse) => ((s.core.task.cm && uncommitted.contains op) || s.cmdIllegal use (sampled s op)) = false
    ok (cst 0 copyGroup) 0 {} ∧ ¬ ok (cst 0 [at3 0, at3 4096, 1, 0]) 0 {} ∧
    ¬ ok (cst 0 [at3 0, at3 4096, BitVec.ofNat 64 (1 + 64 * 2 ^ 16), BitVec.ofNat 64 (3 * 2 ^ 20)]) 0 {} ∧
    ¬ ok (cst 0 [at3 0, 1#64 <<< 63, BitVec.ofNat 64 (1 + 64 * 2 ^ 16), 0]) 5 { dstTen := false } ∧
    ¬ ok (cst 0 copyGroup (fun c => { c with task := { cm := true } })) 20 {} ∧
    ok (cst 0 copyGroup (fun c => { c with task := { cm := true } })) 0 {} ∧ (cst 0 copyGroup).waitingCmds .c0 = 0 := by decide +kernel

/-- The conditions of single operations at the edge: permuted rows, a table word, four chunks, eight of an atomic, topk, books. -/
theorem witness_EngineTriggers_conditions :
    let c := fun (word : Nat) (grp : List W64) => sampled (cst word grp) 1
    let shape := BitVec.ofNat 64 (256 + 64 * 2 ^ 16)
    (c 0 [at3 0, at3 4096, shape, 0]).rowb = 64 ∧ (c 0 [at3 0, at3 4096, shape, 0]).rows % 256 = 0 ∧
    (c 0 [0, 0, 0, 0, BitVec.ofNat 64 (8 * 2 ^ 48)]).extw.toNat / 2 ^ 48 % 16 ≤ 8 ∧
    ¬ (c 0 [0, 0, 0, 0, BitVec.ofNat 64 (9 * 2 ^ 48)]).extw.toNat / 2 ^ 48 % 16 ≤ 8 ∧
    (c (8 * 64) []).word.toNat / 2 ^ 6 % 16 ≤ 8 ∧ ¬ (c (9 * 64) []).word.toNat / 2 ^ 6 % 16 ≤ 8 ∧
    (c (3 * 64 + 4 * 2 ^ 18) []).word.toNat / 2 ^ 18 % 8 = 4 ∧ (c (3 * 64) []).word.toNat / 2 ^ 6 % 2 ^ 12 + 1 = 4 ∧
    epOff (c 0 [at3 256]).srcw % 256 = 0 ∧ epOff (c 0 [at3 64]).srcw % 256 ≠ 0 ∧ (c 0 [0, 7]).dstw.toNat % 16 = 7 ∧
    sigSk (c 0 [0, 0, 0, BitVec.ofNat 64 (3 * 2 ^ 12)]).sigw = 3 := by decide +kernel

/-- Thirty-one commands wait, and thirty-two. -/
theorem witness_EngineTriggers_queue :
    let x : Cmd := { id := 0, op := 0, word := 0, grp := [], srcC := [], dstC := [], fmt := 0, bidx := 0 }
    let n := fun (k : Nat) => cst 0 copyGroup (fun c => { c with eng0 := { cmds := List.replicate k x } })
    (n 31).waitingCmds .c0 < 32 ∧ 32 ≤ (n 32).waitingCmds .c0 := by decide +kernel

/-- A task on core 0 that holds a link entry of quanta 1 to 12 of link 0 for sending. -/
def linkTask : Task :=
  let t : Task := { cid := 0, id := 0, clu := 0, prio := 0, timed := true, release := 0, lkey := 0, stage := 0, cmask := 0, tcbSeg := 0, tcbOff := 0 }
  { t with state := .running, core := some 0, book := [{ res := 6, core := 0, mask := 0, lo := 1, hi := 12 }] }

/-- An lsend in the last quantum of the entry. -/
theorem witness_LinkTriggers :
    let grp := [at3 0, at3 4096, BitVec.ofNat 64 (1 + 64 * 2 ^ 16), 0, 0, BitVec.ofNat 64 12]
    let s : State := { cst 0 grp (fun c => { c with task := { timed := true, pins := [3] } }) with tasks := [linkTask] }
    let late : State := { s with qc := 12 }
    s.core.task.timed = true ∧ s.core.task.cm = false ∧ s.cmdIllegal { src := false, dst := false } (sampled s 20) = false ∧
    s.lnkFault (sampled s 20) = none ∧ s.waitingCmds .c0 < 32 ∧ s.absQ 12 = 12 ∧ (late.lnkFault (sampled late 20)).isSome = true := by decide +kernel

theorem witness_TileStatus : (cst 0 []).Ready .c0 0 704 (some 2) (sc 0) [] := ready _ rfl rfl rfl

/-- calq: selectors 0 to 4 and 5; pmget: a request, an absent credit. -/
theorem witness_EngineReads :
    (∀ n ∈ ([0, 1, 2, 3, 4, 5, 7] : List Nat), ((cst (n * 32) []).trigAt .c0 (sc (n * 32)) [] 0).t.scalar.toNat / 32 % 8 = n) ∧
    (let s := cst (7 * 32 + 2 ^ 13) [0, 0, 1, 0]
     let c := sampled s 24
     s.cmdIllegal { src := false, dst := false, shape := false } c = false ∧ (c.g 2).toNat % 2 ^ 40 ≠ 0 ∧ c.word.toNat / 2 ^ 13 % 2 ^ 16 ≠ 0 ∧
      (s.permit s.cid 7).state = 0 ∧ s.waitingCmds .c0 < 32 ∧ (s.fabTenant s.me.tenant = 0) ∧ s.inFabric ((c.g 1).toNat % 2 ^ 10) = true) ∧
    (cst 16 []).core.eng0.openN = 0 ∧ ((cst 16 []).trigAt .c0 (sc 16) [] 0).t.scalar.toNat % 32 ≤ 16 ∧
    16 < ((cst 17 []).trigAt .c0 (sc 17) [] 0).t.scalar.toNat % 32 := by decide +kernel

/-! ### Landing, the end of a bundle, faults -/

/-- One result is due, bound for s5, and nothing else. -/
def landing : State :=
  st .s (sc 0) (sc 0) (sc 0) (fun c =>
    let r : Result := { due := 4, trig := 3, dom := .s, val := sc 9, rt := BitVec.ofNat 16 (8192 + 645) }
    { c with inflight := [r] })

theorem witness_ResultsAndWritesLand :
    (∀ r ∈ landing.core.inflight, r.act = .none ∧ rtKind r.rt ≤ 3) ∧
    landing.core.inflight.filter (fun x => decide (x.due ≤ 4)) = landing.core.inflight ∧ landing.core.inflight.length = 1 ∧
    landing.core.xfers = [] ∧ landing.core.maskq = [] ∧ landing.core.permq = [] := by decide +kernel

/-- A header without E, LE or HK, one with E, and a bundle whose branch has its shadow behind it. -/
theorem witness_BundleEnds :
    let h0 : Header := decodeHeader 0
    let h1 : Header := { h0 with e := true }
    let b := st .s (sc 0) (sc 0) (sc 0) (fun c => { c with branches := [(0, 77)] })
    let s : State := { st .s (sc 0) (sc 0) (sc 0) with tasks := [linkTask] }
    h0.e = false ∧ h0.hk = 0 ∧ h0.le = 0 ∧ h0.pop = 0 ∧ h0.push = 0 ∧ h1.e = true ∧ b.core.branches.find? (fun x => x.1 = b.core.issued) = some (0, 77) ∧
    s.core.staged = [] ∧ s.core.inflight = [] ∧ (s.taskOn s.cur s.cid s.core.task.key).isSome = true ∧ s.core.run = .running ∧
    (st .s (sc 0) (sc 0) (sc 0) (fun c => { c with staged := [.trap 7] })).core.staged = [.trap 7] := by decide +kernel

/-- A mark in force with a shadow of three registers, and a context whose fault ring has room. -/
def frCtx : Ctx → Ctx := fun x => { x with frseg := name3, frdepth := 2 }

theorem witness_FaultsAndRollback :
    let s := st .s (sc 0) (sc 0) (sc 0) (fun c =>
      let m : Mark := { pc := 12 }
      { c with mark := some m, shadow := [(.sreg 5, sc 1), (.vreg 6, vc 1 2), (.word 255, sc 3)], task := { rpol := 1 } }) frCtx
    let c := s.ctx s.cid
    let fs := c.seg (nameIdx c.frseg)
    (∃ m, s.core.mark = some m) ∧ s.core.markNext = false ∧ (s.core.shadow.map (·.1)).Nodup ∧ s.core.inflight = [] ∧ s.core.xfers = [] ∧
    s.core.maskq = [] ∧ s.core.permq = [] ∧ (alook s.ctxs s.cid).isSome = true ∧ c.state ≠ .draining ∧ c.fstop = false ∧ c.frwait = [] ∧
    s.core.latch = [] ∧ c.frdepth ≠ 0 ∧ c.stale c.frseg = false ∧ fs.state = .resident ∧ fs.placed = true ∧ c.frdepth ≤ fs.size ∧
    (c.frtail + 1) % c.frdepth ≠ c.frhead := by
  refine ⟨⟨_, rfl⟩, ?_⟩
  decide +kernel

/-- A ring of one record is always full; AUTO takes the causes of a recall; a faulted task comes back. -/
theorem witness_FaultsAndRollback_others :
    (let c := (st .s (sc 0) (sc 0) (sc 0) id (fun x => { frCtx x with frdepth := 1 })).ctx 0
     (c.frtail + 1) % c.frdepth = c.frhead) ∧
    (let f : FaultInfo := { cause := .segAbsent }
     f.autoable = true ∧ f.recalls = []) ∧
    (let s := st .s (sc 0) (sc 0) (sc 0) (fun c => { c with run := .faulted })
     linkTask.core = some s.cur ∧ s.core.run = .faulted ∧ s.core.task.cid = linkTask.cid ∧ s.core.task.key = linkTask.key ∧ s.core.ended = false) := by
  decide +kernel

/-! ### Turns of the other agents -/

def cmd0 : Cmd := { id := 1, op := 0, word := 0, grp := copyGroup, srcC := [], dstC := [], fmt := fmtReset, bidx := 0 }

/-- An engine of C0 with the commands given. -/
def eng (l : List Cmd) (f : CoreSt → CoreSt := id) (g : Ctx → Ctx := id) : State :=
  st .c0 (sc 0) (sc 0) (sc 0) (fun c => f { c with eng0 := { cmds := l } }) g

theorem witness_EngineTurns_start :
    let s := eng [cmd0]
    (s.core.eng .c0).cmds.find? (fun x => x.st = .queued) = some cmd0 ∧ s.core.run ≠ .saving ∧ (∀ x ∈ (s.core.eng .c0).cmds, x.st ≠ .faulted) ∧
    ((s.core.eng .c0).cmds.filter (fun x => x.st = .running)).length < 4 ∧ (s.core.eng .c0).cmds.takeWhile (fun x => x.id ≠ cmd0.id) = [] := by decide +kernel

/-- A started copy between segments, at its last element; every access passes. -/
def run0 : Cmd := { cmd0 with st := .running, total := 1 }

theorem witness_EngineTurns_elements :
    let s := eng [run0]
    s.cmdOf .c0 1 = some run0 ∧ run0.elem < run0.total ∧ epT run0.srcw = false ∧ epT run0.dstw = false ∧ run0.cm = false ∧ sigFx run0.sigw = false ∧
    walkRows (s.pieces run0) run0.rows 0 run0.elem = some (0, 0, 64) ∧ (∃ t, s.copyElem .c0 run0 = .val t (64, 1) ∧ t.cmdOf .c0 1 = some run0) ∧
    64 + run0.unsig < 4096 ∧
    (∀ t ∈ tileSpan 4096 64, ((s.seg run0.cid 3).tile t).st = .ready ∧ s.lockedByOther .c0 run0 3 t = false ∧ s.readByOther .c0 run0 3 t = false) := by
  refine ⟨?_, ?_, ?_, ?_, ?_, ?_, ?_, ⟨_, rfl, ?_⟩, ?_, ?_⟩ <;> decide +kernel

/-- A gather whose table entry is 0, -1 and -2. -/
theorem witness_EngineTurns_gather :
    let c : Cmd := { run0 with op := 2, grp := [at3 0, at3 4096, BitVec.ofNat 64 (1 + 64 * 2 ^ 16), 0, at3 8192] }
    let s := eng [c]
    let t : State := { s with mem := s.mem.write 8192 [0xFF, 0xFF, 0xFF, 0xFF] }
    let u : State := { s with mem := s.mem.write 8192 [0xFE, 0xFF, 0xFF, 0xFF] }
    let entry := fun (s : State) => (BitVec.ofNat 32 (natLE (s.segRead 0 3 8192 4))).toInt
    entry s = 0 ∧ entry t = -1 ∧ entry u < -1 ∧ nameIdx (epName c.extw) = 3 ∧ epOff c.extw = 8192 := by decide +kernel

theorem witness_EngineTurns_end :
    let done : Cmd := { run0 with elem := 1 }
    let wait : Cmd := { cmd0 with op := 28, st := .running }
    let bad : Cmd := { cmd0 with st := .faulted, auto := true }
    (eng [done]).cmdOf .c0 1 = some done ∧ done.total ≤ done.elem ∧ (eng [bad]).cmdOf .c0 1 = some bad ∧
    (∀ i ∈ bad.wait, ∀ b ∈ ((eng [bad]).ctx bad.cid).batches, i ∉ b.2) ∧ bad.waitPg = none ∧ (eng [wait]).cmdOf .c0 1 = some wait ∧
    wait.performed = false ∧ cmd0.unsig = 0 ∧ cmd0.held = [] ∧ cmd0.pages = [] ∧ cmd0.wtiles = [] ∧ cmd0.stiles = [] ∧
    cmd0.sigw.toNat / 2 ^ 14 % 64 = (eng [wait]).linIn 0 / 4 := by decide +kernel

/-- A tensor of one page of bytes, its page present; its table stands at the start of the HBM tier. -/
def ten0 : Tensor := { rank := 2, fmt := 10, pitch := 64, dims := [4, 64], npage := 1 }

def withTen (s : State) : State := ({ s with tensors := [(7, ten0)] } : State).putEntry 0 { p := true, w := true, pfn := 3 }

/-- A subscription to a ring of four lines in the segment: room for one more line; with RET a line that the head has passed. -/
def sub0 (next back : Nat) (ret : Bool) : SubSt :=
  { ring := 2, rows := 4, next := next, back := back, ret := ret, src := BitVec.ofNat 64 (2 ^ 63 + 7), dst := BitVec.ofNat 64 (2 ^ 63 + 7),
    srcC := [0, 0, 0], dstC := [0, 0, 0] }

def subSt (x : SubSt) (filled : Nat) : State :=
  withTen (st .c0 (sc 0) (sc 0) (sc 0) (fun c =>
    let r : Ring := { store := 3, base := name3.toNat, depM1 := 3, hl := 1, hen := true, filled := filled, tail := x.next % 4 }
    { c with eng0 := { subs := [(2, x)] }, rings := [(2, r)] }))

theorem witness_EngineTurns_subscriptions :
    let x := sub0 3 0 false
    let y := sub0 2 0 true
    alook ((subSt x 3).core.eng .c0).subs 2 = some x ∧ x.faulted = false ∧ x.next < x.rows ∧ ((subSt x 3).core.ring 2).filled < 4 ∧
    (∀ t ∈ tileSpan (3 * 64) 64, (((subSt x 3).seg x.cid 3).tile t).st = .ready) ∧
    y.back < y.next - ((subSt y 1).core.ring 2).filled ∧ (∀ t ∈ tileSpan 0 64, (((subSt y 1).seg y.cid 3).tile t).st = .ready) ∧
    (∃ runs s1, (subSt x 3).subRuns x false 3 = .ok (7, runs) ∧ (subSt x 3).subTouch .c0 2 x 7 runs false = .val s1 ()) ∧
    (∃ runs s1, (subSt y 1).subRuns y true 0 = .ok (7, runs) ∧ (subSt y 1).subTouch .c0 2 y 7 runs true = .val s1 ()) := by
  refine ⟨?_, ?_, ?_, ?_, ?_, ?_, ?_, ⟨_, _, rfl, rfl⟩, ⟨_, _, rfl, rfl⟩⟩ <;> decide +kernel

theorem witness_CellSignals :
    let x : Signal := { cid := 0, clu := 0, n := 4095, kind := .dec 1 }
    let s : State := { st .s (sc 0) (sc 0) (sc 0) with signals := [x] }
    (alook s.ctxs 0).isSome = true ∧ s.signals.filter (fun x => x.cid = 0 && x.clu = 0 && x.n = 4095) ≠ [] ∧
    (∀ y ∈ [x], ∀ b v, y.kind ≠ .depset b v) ∧ ({ x with kind := .depset true 65535 } : Signal).kind = .depset true 65535 := by
  refine ⟨by decide, by decide, ?_, rfl⟩
  intro y hy b v
  simp only [List.mem_singleton] at hy
  subst hy
  simp

/-! ### Queues, tasks, the calendar -/

/-- The package serves; cluster 0 has started and passed; one partition holds core 0 with all of store 0. -/
def serving (s : State) : State :=
  let p : Partition := { tenant := 0, cores := [0], shares := [(0, 0, 393216)], qshare := 1024, jshare := 65536, pipes := [(0, 0)] }
  { s with pstate := .service, cstate := [(0, 2)], parts := [p], qopen := [0] }

def tasked (l : List Task) (f : CoreSt → CoreSt := id) (g : Ctx → Ctx := id) : State :=
  { serving (st .s (sc 0) (sc 0) (sc 0) f g) with tasks := l }

/-- A posted task whose control block stands at the segment's start. -/
def posted : Task := { linkTask with state := .posted, timed := false, tcbSeg := name3, core := none, book := [], cmask := 1, id := 2 }

theorem witness_TaskDispatch_cards :
    let r := { posted with state := .ready }
    (tasked [r]).cardOrder 0 0 = [r] ∧ (tasked [posted]).tasks.filter (fun x => x.named 0 2 && x.state = .posted && !x.depRead) = [posted] ∧
    posted.launch = false ∧ ((tasked [posted]).ctx 0).acquire none none true [⟨posted.tcbSeg, posted.tcbOff, 256⟩] = .ok [3] ∧
    (((tasked [posted]).ctx 0).seg (nameIdx posted.tcbSeg)).tilesOk posted.tcbOff 256 false = true := by decide +kernel

/-- A card of all zeros for context 0 waits in queue 15, the last to be looked at. -/
theorem witness_TaskDispatch_forward :
    let s : State := { tasked [] with pqueues := [(15, [(0, 0)])] }
    (alook s.pqnext 0).getD 0 = 0 ∧ (∀ i, i < 15 → s.headMoves 0 (i % 16) = none) ∧ s.pqueue 0 15 = [(0, 0)] ∧ (s.ctx 0).kgroup = true ∧
    (s.ctx 0).serves = true ∧ (s.ctx 0).tenant = 0 ∧ s.levelFull 0 ((s.ctx 0).group.pclu (decodeCard 0).tclu) (min (decodeCard 0).prio (s.ctx 0).pcap) = false ∧
    (s.ctx 0).group.hasClu (decodeCard 0).tclu = true := by decide +kernel

theorem witness_TaskDispatch_start :
    let r := { posted with state := .ready }
    let i : Image := default
    let s := tasked [r] (fun c => { c with run := .idle }) (fun x => { x with image := some { i with bundles := [(0, 0)] } })
    s.cluServes 0 = true ∧ s.cardOrder 0 0 = [r] ∧ r.resume = false ∧ (match s.readTcb r with | .ok _ _ 0 => true | _ => false) = true ∧ s.coreFor r = some 0 ∧
    s.pendingIn 0 < 64 := by
  refine ⟨?_, ?_, ?_, ?_, ?_, ?_⟩ <;> decide +kernel

theorem witness_TaskDispatch_dispensers :
    let s := st .s (sc 0) (sc 0) (sc 0) (fun c => { c with nxts := [(15, 1, none, 9)] }) (fun x => { x with disp := [(15, 7, 8, 65536)] })
    s.cid = 0 ∧ s.core.nxts.find? (fun n => n.1 = 15 && n.2.2.1.isNone) = some (15, 1, none, 9) ∧
    (s.ctx 0).disp.find? (fun d => d.1 = 15) = some (15, 7, 8, 65536) := by decide +kernel

theorem witness_TaskDispatch_save :
    let s := withTen (tasked [linkTask] (fun c => { c with run := .saving, safe := some (0, 0) }) (fun x => { x with savet := 7 }))
    s.core.run = .saving ∧ s.core.mat.queue = [] ∧ s.core.mat.routine = none ∧ s.core.safe = some (0, 0) ∧ s.core.inflight = [] ∧
    s.taskOn s.cur s.cid s.core.task.key = some linkTask := by decide +kernel

theorem witness_TaskDispatch_retire :
    let t := { linkTask with state := .retiring }
    let s := tasked [t] (fun c => { c with run := .retiring })
    s.tasks.find? (fun t => t.named 0 0 && t.state = .retiring && s.mayRetire t) = some t ∧ t.core = some s.cur ∧ t.pinned = false ∧ s.core.eng0.cmds = [] ∧
    s.core.eng0.subs = [] ∧ s.core.mat.queue = [] ∧ s.core.mat.routine = none ∧ s.core.task.cid = 0 ∧ s.core.task.key = t.key := by decide +kernel

/-- Quantum 62 is followed by 63, 63 by a frame; the throttle at each edge of its comparisons. -/
theorem witness_Clocks :
    let h : Throttle := { cap := 1000 }
    (62 + 1) % 64 ≠ 0 ∧ (63 + 1) % 64 = 0 ∧ h.cap < 1001 ∧ ¬ h.cap < 1000 ∧ 950 * 100 ≤ h.cap * 95 ∧ ¬ 951 * 100 ≤ h.cap * 95 ∧
    (760 : Int) = 95 * 8 ∧ (719 : Int) < 90 * 8 ∧ (2401 : Nat) > 2400 ∧ ¬ (2001 : Nat) ≤ 2000 ∧
    (let s := tasked [{ posted with timed := true }] id (fun x => { x with kstate := .launched })
     s.heldTask (s.parts.getD 0 {}) = some { posted with timed := true }) := by decide +kernel

/-- A pending timed task with a window of one quantum. -/
def pendingT : Task :=
  let b : Tcb := { window := 1, timed := true, nbook := 0 }
  { posted with state := .pending, timed := true, tcb := b }

theorem witness_CalendarTurns_place :
    let s := tasked [pendingT] (fun c => { c with run := .idle })
    s.tasks.find? pendingT.same = some pendingT ∧ s.placeReject pendingT = 0 ∧ s.calCores pendingT = [0] ∧
    s.qc + 1 + (s.ctx 0).cq ≤ s.qc + 4096 - pendingT.window s.throttle.step - 8 ∧
    fits s.bookings (pendingT.bookingsAt s.throttle.step (s.ctx 0).cq 0 (s.qc + 1 + (s.ctx 0).cq)) = true ∧ pendingT.tsub = none ∧ pendingT.pinIdx = [] := by
  decide +kernel

theorem witness_CalendarTurns_start :
    let b : Task := { pendingT with state := .booked, q := 50, w := 1, core := some 0, book := [{ res := 0, core := 0, mask := 0, lo := 50, hi := 50 }] }
    let s := tasked [b] (fun c => { c with run := .idle })
    let late : State := { s with qc := 50 }
    s.tasks.find? b.same = some b ∧ s.qc + 1 + (s.ctx 0).cq < b.q ∧ s.tasks.find? (fun t => t.is 0 2 && t.state = .booked) = some b ∧
    s.qc + (s.ctx 0).cq < b.q ∧ b.q ≤ late.qc + (late.ctx 0).cq ∧ (late.ctx 0).serves = true ∧
    (tasked [b] id (fun x => { x with fstop := true })).ctx 0 ≠ s.ctx 0 := by decide +kernel

theorem witness_CalendarTurns_window :
    let t : TaskRun := { timed := true, q := 10, w := 5 }
    let s : State := { tasked [] (fun c => { c with task := t }) with qc := 15 }
    s.core.mat.routine = none ∧ s.core.run = .running ∧ s.core.task.timed = true ∧ s.core.task.q + s.core.task.w ≤ s.qc := by decide +kernel

/-! ### The Hazel unit, pages -/

def segged (g : Seg) (f : Ctx → Ctx := id) : State := withTen (serving (st .s (sc 0) (sc 0) (sc 0) id (fun x => f { x with segs := [(3, g)], backt := 7 })))

theorem witness_SegmentTurns :
    (∃ tid t, (segged { seg3 with state := .pushing }).backing 0 = some (tid, t)) ∧ ¬ (seg3.freep = true ∧ seg3.pin = 0 ∧ seg3.inb = 0) ∧
    (let g := { seg3 with freep := true }
     g.freep = true ∧ g.pin = 0 ∧ g.inb = 0) ∧
    (let s : State := { segged { seg3 with state := .recalling, placed := false } with waitq := [(0, 3)] }
     s.waitq = [(0, 3)] ∧ s.compacting (s.ctx 0).tenant ((s.ctx 0).group.pclu 0) = false ∧ (s.room 0 0 1024 (some 3)).isSome = true) ∧
    (let s : State := { segged seg3 with frame := 4 }
     s.victim 0 0 = none ∨ s.victim 0 0 = some 3) ∧ 1023 < seg3.size ∧
    (let s := st .s (sc 0) (sc 0) (sc 0) (fun c => { c with fill := [3], reload := [15] })
     s.cid = 0 ∧ 3 ∈ s.core.fill ∧ 15 ∈ s.core.reload) := by
  refine ⟨⟨_, _, rfl⟩, ?_, ?_, ⟨?_, ?_, ?_⟩, ?_, ?_, ?_⟩ <;> decide +kernel

/-- Three granules with a segment in the middle: a segment of two waits, and a move makes its room; of two granules none can be made, and
the segment is pushed. -/
theorem witness_SegmentTurns_waits :
    let one : Seg := { seg3 with size := 1 }
    let part := fun (n : Nat) => ([{ tenant := 0, cores := [0], f := 4, shares := [(0, 0, 1024 + n)] }] : List Partition)
    let s := fun (n : Nat) => ({ segged { one with base := 1 } (fun x =>
      { x with segs := x.segs ++ [(4, { one with size := 2, state := .recalling, placed := false })] }) with
        parts := part n, waitq := [(0, 4)] } : State)
    (s 3).room 0 0 2 (some 4) = none ∧ ((s 3).makeRoom 0 0 2 (some 4)).isSome = true ∧ (s 3).nextMove 0 0 = some (0, 3, 0) ∧
    (s 3).compacting 0 0 = false ∧ ((s 2).makeRoom 0 0 2 (some 4)).isSome = false ∧ (s 2).victim 0 0 = some 3 := by decide +kernel

def paged (p : Page) : State :=
  let s := serving (st .s (sc 0) (sc 0) (sc 0))
  ({ s with tensors := [(7, { ten0 with npage := 64 })], poolSize := 16, hbm := [(0, 1)] } : State).putEntry 0 p

theorem witness_PageTurns :
    (let p : Page := { mov := true, pfn := 3, target := some 9 }
     p.psn = false ∧ p.p = false ∧ p.mov = true ∧ p.lp = false ∧ p.target = some 9 ∧ p.fetchq = false ∧ p.forPage = none) ∧
    (let p : Page := { mov := true, lp := true, pfn := 3, waitPool := true }
     p.psn = false ∧ p.p = false ∧ p.mov = true ∧ p.lp = true ∧ p.waitPool = true ∧ p.target = none) ∧
    (paged {}).tensor 7 = some { ten0 with npage := 64 } ∧
    ((paged {}).poolUse 0 (7, 0) + 4 ≤ (paged {}).floorOf 0 ∨ 4 ≤ (paged {}).sharedFree (7, 0)) ∧
    ({ paged {} with poolSize := 0 } : State).poolVictim (7, 0) = none ∧
    ({ paged { p := true, w := true, pfn := 3 } with poolSize := 0 } : State).poolVictim (7, 1) = some (7, 0) ∧
    (7, 1) ∈ ({ paged {} with splits := [(7, 1)] } : State).splits ∧
    (7, 0) ∉ (paged { mov := true, pfn := 3, target := some 9 }).badPages ∧
    (let s : State := { paged { mov := true, pfn := 3, target := some 9 } with badPages := [(7, 0)] }
     (7, 0) ∈ s.badPages ∧ (s.page 7 0).stateNum = 2 ∧ (s.page 7 0).target = some 9) := by decide +kernel

theorem witness_PageCommands :
    let s := paged { p := true, w := true, pfn := 3 }
    let large := (List.range 32).foldl (fun (s : State) k => s.putEntry (8 * k) { p := true, lg := true, pfn := k + 1 }) s
    s.serving = true ∧ s.mgmtIn = [] ∧ 0 ∉ s.virt ∧ 0 ∈ ({ s with virt := [0] } : State).virt ∧ s.badLarge 7 0 {} = false ∧ (s.page 7 0).mov = false ∧ (s.page 7 0).pinc = 0 ∧
    32 * 1 + 32 ≤ 64 ∧ (∀ k, k < 32 → (large.page 7 (32 * 0 + k)).lg = true) ∧ (s.page 7 0).stateNum = 1 ∧ (s.page 7 1).stateNum = 0 ∧
    ({ (default : Page) with lp := true, psn := true } : Page).stateNum ≠ 1 ∧ ([(0, 4), (1, 4)] : List (Nat × Nat)).map (·.1) = [0, 1] := by decide +kernel

/-- Whichever frame is tried first, one is free. -/
theorem witness_PageTurns_frames :
    ((paged {}).freeFrame false).isSome = true ∧ ((paged {}).freeFrame true).isSome = true := by
  constructor <;> simp only [State.freeFrame, State.freeFrames] <;> split <;> first | rfl | decide +kernel | (split <;> first | rfl | decide +kernel)

/-- Two pages whose entries stand apart, one FETCHING behind the other's eviction; an entry that the table does not have. -/
theorem witness_PageTurns_behind :
    let s := (paged { mov := true, pfn := 3, target := some 9, forPage := some (7, 1) }).putEntry 8 { mov := true, lp := true, pfn := 5 }
    (s.page 7 0).forPage = some (7, 1) ∧ (s.page 7 0).target = some 9 ∧ (s.page 7 1).stateNum = 4 ∧ (s.page 7 1).target = none ∧
    s.entryAt { ten0 with npage := 64 } 0 = some 0 ∧ s.entryAt { ten0 with npage := 64 } 1 = some 8 ∧
    s.entryAt { ten0 with npage := 64 } 64 = none := by decide +kernel

/-! ### The Gander -/

def gblk : GBlock :=
  { nexp := 2, k := 1, nc := 4, cap := 1, ntok := 1, rowb := 64, choice := at3 0, tokens := at3 1024, counts := at3 2048, ovfl := at3 2560, drops := at3 3072,
    inv := at3 4096, ret := at3 8192 }

def gslot0 : GSlot := { state := .running, blk := gblk, pass := 1, map := [(0, {}), (1, {})], cmd := some (0, .c0, 1) }

def gst (g : GSlot) : State := { serving (eng [{ run0 with op := 16 }]) with gslots := [(gKey 3 15, g)] }

theorem witness_GanderElements :
    let s := gst gslot0
    let t := gst { gslot0 with cnt := [(0, 1), (1, 1)] }
    s.gslot (gKey 3 15) = gslot0 ∧ gslot0.cmd = some (s.cur, .c0, 1) ∧ s.cmdOf .c0 1 = some { run0 with op := 16 } ∧ gslot0.state = .running ∧
    0 < gblk.k ∧ gblk.k ≤ 4 ∧ gblk.nc ≤ 4 ∧ gblk.cap < 2 ^ 16 ∧ gslot0.pass ≠ 5 ∧ gslot0.pass - 1 < gblk.nc ∧
    (s.seg 0 3).state ≠ .poisoned ∧ (s.seg 0 3).tilesOk 0 16 false = true ∧ (s.seg 0 3).tilesOk 4096 8 true = true ∧
    (0 < gblk.nexp ∧ gslot0.cntOf 0 < gblk.cap) ∧ ¬ t.gslots = [] ∧ ((t.gslot (gKey 3 15)).cntOf 0 < gblk.cap) = False ∧
    (match s.tokenRow gslot0 0 with | .val _ _ => true | _ => false) = true ∧ (gslot0.destOf 0).remote = false := by
  refine ⟨?_, ?_, ?_, ?_, ?_, ?_, ?_, ?_, ?_, ?_, ?_, ?_, ?_, ?_, ?_, ?_, ?_, ?_⟩ <;> decide +kernel

/-- The fallback with one deferred entry, with none, and a remote destination whose permit has run out. -/
theorem witness_GanderElements_others :
    let g := { gslot0 with pass := 5, inv := [(0, BitVec.ofNat 64 (2 ^ 62))] }
    let r := { gslot0 with map := [(0, { remote := true, pmt := 255 })] }
    g.pass = 5 ∧ (g.inv.map (·.1)).Pairwise (· < ·) ∧ alook g.inv 0 = some (BitVec.ofNat 64 (2 ^ 62)) ∧ (BitVec.ofNat 64 (2 ^ 62)).getLsbD 62 = true ∧
    (∀ x ∈ ({ g with inv := [] } : GSlot).inv, x.2.getLsbD 62 = false) ∧ (∀ m ∈ gslot0.map, m.2.remote = false) ∧ (r.destOf 0).remote = true ∧
    ((gst r).permit 0 255).refuses 0 64 = some 3 := by
  refine ⟨?_, ?_, ?_, ?_, ?_, ?_, ?_, ?_⟩ <;> decide +kernel

def msg0 : RowMsg := { rowb := 64, cap := 2, dest := { name := name3, outn := name3 }, srcSlot := 15, srcDie := 3, data := List.replicate 64 1 }

def rowSt (m : RowMsg) (l : List Region := []) (g : GSlot := gslot0) : State := { gst g with rowIn := [m], regions := l }

theorem witness_GanderMessages :
    (rowSt msg0).heads 0 .row = [msg0] ∧ (rowSt msg0).receives 0 = true ∧ ((rowSt msg0).regionOf 0 msg0).complete = false ∧
    ((rowSt msg0).regionOf 0 msg0).last = none ∧ ((rowSt msg0).ctx 0).acquire none none true [⟨name3, 0, 64⟩] = .ok [3] ∧
    (let span := (rowSt msg0).regionSpan ((rowSt msg0).regionOf 0 msg0)
     ∀ t ∈ tileSpan span.1 span.2, (((rowSt msg0).seg 0 3).tile t).st = .ready) ∧ (rowSt msg0).heads 0 .pull = [] ∧
    (let m := { msg0 with last := true, slot := 0 }
     (rowSt m).heads 0 .row = [m] ∧ ((rowSt m).regionOf 0 m).dropped = false ∧ ((rowSt m).regionOf 0 m).bits.length = m.slot ∧
      ((rowSt m).regionOf 0 m).pages = [] ∧ ((rowSt m).regionOf 0 m).opened = false) ∧
    (let m := { msg0 with pull := true }
     (rowSt m).heads 0 .pull = [m]) ∧
    (let m := { msg0 with ret := true }
     let g := { gslot0 with state := .inverting }
     (rowSt m [] g).heads 3 .ret = [m] ∧ (rowSt m [] g).gslot (gKey 3 15) = g ∧ ((rowSt m [] g).seg 0 3).tilesOk 8192 64 true = true) ∧
    (let m := { msg0 with free := true }
     (rowSt m).heads 0 .free = [m] ∧ ((rowSt m).regionOf 0 m).opened = false) ∧
    (let m := { msg0 with free := true, ack := true }
     let g := { gslot0 with state := .freeing, left := 1 }
     (rowSt m [] g).heads 3 .ack = [m] ∧ g.left ≤ 1 ∧ m.credit = 0 ∧ m.aborted = false ∧ (alook (rowSt m [] g).ctxs m.srcCid).isSome = true) := by
  decide +kernel

/-- A region that has opened, and whose last packet comes while one other operation holds its segment; one whose rows are not all there; one
that is complete when a PULL comes. -/
theorem witness_GanderMessages_regions :
    let m := { msg0 with last := true, slot := 1 }
    let r : Region := { (rowSt m).regionOf 0 m with opened := true }
    let s : State := { rowSt m [r] with ctxs := [(0, { ctx0 with segs := [(3, { seg3 with inb := 2 })] })] }
    let p := { msg0 with pull := true, slot := 1 }
    let q : Region := { (rowSt p).regionOf 0 p with opened := true, complete := true, bits := [(0, true)] }
    s.heads 0 .row = [m] ∧ (s.regionOf 0 m).opened = true ∧ (s.regionOf 0 m).dest.remote = false ∧ 1 < (s.seg 0 3).inb ∧
    (s.regionOf 0 m).bits.length ≠ m.slot ∧ (rowSt p [q]).heads 0 .pull = [p] ∧ (rowSt p [q]).pullable 0 p = true ∧ (rowSt p).pullable 0 p = false ∧ ((rowSt m).regionOf 0 m).ofDispatch m = true ∧
    ((rowSt { m with srcSlot := 14 } [r]).regionOf 0 { m with srcSlot := 14 }).ofDispatch { m with srcSlot := 14 } = false ∧
    ((rowSt p [q]).seg 0 3).tilesOk 0 64 false = true := by decide +kernel

/-! ### Links, collectives, permits -/

def linked (k : Link) (l : Nat := 23) : State := { serving (st .c0 (sc 0) (sc 0) (sc 0)) with links := [(l, k)] }

theorem witness_LinkPorts :
    ((linked { state := 2 }).link 23).state = 2 ∧ ((linked { state := 2 }).link 0).state ≠ 2 ∧ eccCheck 0 = .ok ∧ fld (0 : BitVec 128) 40 4 = 0 ∧
    fld (0 : BitVec 128) 44 5 ≤ 16 ∧ fld (0 : BitVec 128) 0 11 = (linked {}).pkg ∧ eccCheck (3 : BitVec 128) = .bad ∧
    eccCheck (1 : BitVec 128) = .corrected 0 ∧ fld (withEcc (2 * 2 ^ 40)) 40 4 = 2 ∧ fld (withEcc 1) 0 11 ≠ (linked {}).pkg ∧
    (linked {}).hasReceiver 0 0 = true ∧ (linked {}).hasReceiver 1 0 = false := by decide +kernel

theorem witness_LinkPorts_replay :
    let p : Packet := default
    let k : Link := { state := 2, replay := [(0, p), (1, p)], resent := [(0, 2)] }
    k.replay = [(0, p)] ++ (1, p) :: [] ∧ (∀ x ∈ [(0, p)], packetFlits x.2 ≤ seqDist ((1 + 0) % 65536) x.1) ∧ ((alook k.resent 1).getD 0 < 2) ∧
    2 ≤ (alook k.resent 0).getD 0 ∧ ((linked { state := 3 }).link 23).state = 3 ∧ (∀ l ∈ (linked { state := 3 }).links, l.2.state ≠ 2) ∧
    ((linked { state := 3, trains := 3 }).link 23).alt = none ∧ 3 ≤ ((linked { state := 3, trains := 3 }).link 23).trains := by decide +kernel

def sendCmd (op : Nat) : Cmd := { run0 with op := op, grp := [at3 0, at3 4096, BitVec.ofNat 64 (1 + 64 * 2 ^ 16), 0, BitVec.ofNat 64 23] }

theorem witness_ScheduledTransfers :
    let c := sendCmd 20
    let r := sendCmd 21
    let s : State := { linked { state := 2 } with core := (eng [c]).core }
    let late : State := { linked { state := 2 } with core := (eng [r]).core, qc := 1 }
    s.cmdOf .c0 1 = some c ∧ c.elem < c.total ∧ s.qc = c.absIn + c.elem / 2 ∧ (match s.wireRead .c0 c c.elem with | .val _ _ => true | _ => false) = true ∧
    (s.link (lnkLink c)).state = 2 ∧ c.rows = 1 ∧ c.cm = false ∧ 1024 * c.elem < c.rowb ∧ late.cmdOf .c0 1 = some r ∧
    (late.link (lnkLink r)).sched = [] ∧ r.absIn + r.elem / 2 < late.qc ∧
    (let p : Packet := default
     let x : Held := { pkt := p, seq := 0, at_ := 0, raw := p.rw }
     let q : State := { linked { state := 2, sched := [x] } with qc := 4 }
     (q.link 23).sched[0]? = some x ∧ x.at_ + 4 ≤ q.qc ∧ q.receiverOf 23 p = none) := by
  refine ⟨?_, ?_, ?_, ?_, ?_, ?_, ?_, ?_, ?_, ?_, ?_, ?_, ?_, ?_⟩ <;> decide +kernel

theorem witness_Collectives :
    let t : Tensor := { ten0 with fmt := 15, pitch := 256 }
    let c : Cmd := { run0 with op := 23, grp := [BitVec.ofNat 64 (2 ^ 63 + 7), BitVec.ofNat 64 (2 ^ 63 + 7), 0, 0, BitVec.ofNat 64 5] }
    let s : State := { withTen (serving (eng [c])) with groups := [(5, [(0, 0), (1, 0)])], tensors := [(7, t)] }
    let p : Packet := { (default : Packet) with rw := withEcc (2 ^ 40), info := [0, 1, collOp c, t.count, collInst c, c.cid, collGrp c] }
    s.cmdOf .c0 1 = some c ∧ fld p.rw 40 4 = 1 ∧ fld p.rw 22 6 = s.netOf c.cid ∧ s.tensor (epTid c.srcw) = some t ∧ c.ready = false ∧ alook c.acc 1 = none ∧ (5 : Nat) < 7 ∧ 5 * 2 / 7 = 1 := by
  decide +kernel

theorem witness_Permits :
    let s : State := serving (st .c0 (sc 0) (sc 0) (sc 0) id (fun x => { x with pool := 64, permits := [(255, { state := 1, cmd := some (0, .c0, 1), ask := 64 }), (254, { state := 2, credit := 64, expiry := 0 })] }))
    s.hasReceiver 0 0 = true ∧ s.hasReceiver 1 0 = false ∧ 64 ≤ (s.ctx 0).pool ∧ (s.ctx 0).pool < 65 ∧ (s.permit 0 255).state = 1 ∧
    (s.permit 0 255).cmd = some (s.cur, .c0, 1) ∧ (s.permit 0 254).state = 2 ∧ (s.permit 0 254).expiry ≤ s.frame := by decide +kernel

/-! ### Management, power -/

def img0 : Image := { (default : Image) with gridD := 1, gridC := 1, gridK := 1, stages := 1, params := 1, bundles := [(0, 0), (1, 1#256 <<< 255)] }

def ctxSt (f : Ctx → Ctx) (l : List Task := []) : State := tasked l (fun c => { c with run := .idle }) f

theorem witness_ContextCommands :
    let s := ctxSt id
    s.serving = true ∧ alook s.ctxs 1023 = none ∧ (s.ctx 0).state = .running ∧ (∀ t ∈ s.tasks, t.cid ≠ 0) ∧ s.gslots = [] ∧ s.regions = [] ∧
    (s.ctx 0).permits = [] ∧ (ctxSt (fun x => { x with state := .draining, segs := [] })).drained 0 = true ∧ (s.ctx 0).fstop = false ∧
    (∀ k, k = s.core ∨ k ∈ s.parked.map (·.2) → k.stopping 0 = false) ∧ (s.ctx 0).kstate ≠ .launched := by
  refine ⟨?_, ?_, ?_, ?_, ?_, ?_, ?_, ?_, ?_, ?_, ?_⟩
  case refine_10 => intro k h; simp [ctxSt, tasked, serving, st, State.reset] at h; subst h; rfl
  all_goals decide +kernel

/-- A faulted task that resumes, one whose record says that it cannot, a suspended context, a task on no core. -/
theorem witness_ContextCommands_resume :
    let t := { linkTask with state := .faulted, rstb := [true] }
    let u := { linkTask with state := .faulted, rstb := [true, false] }
    let v := { linkTask with state := .suspended, core := none }
    (ctxSt id [t]).tasks.find? (fun t => t.cid = 0 && t.state = .faulted && t.id = 0) = some t ∧ (∀ b ∈ t.rstb, b = true) ∧ (∃ b ∈ u.rstb, b = false) ∧
    ((ctxSt (fun x => { x with state := .suspended }) [v]).ctx 0).state = .suspended ∧ (∀ t ∈ [v], t.cid = 0 → t.state = .suspended) ∧
    (∀ x ∈ (ctxSt id [v]).suspendedTasks 0, x.id ≠ 0) ∧ (ctxSt id [u]).suspendedTasks 0 = [u] ∧
    (ctxSt id [v]).tasks.find? (fun t => t.named 0 0 && (!t.queued && t.state ≠ .retiring)) = some v ∧ v.snap = none ∧ v.pinned = false := by decide +kernel

/-- A load of an idle text, a launch with its one parameter, an unload. -/
theorem witness_ContextCommands_kernels :
    let fresh := ctxSt (fun x => { x with state := .created, kstate := .none, segs := [] })
    let loaded := ctxSt (fun x => { x with state := .loaded, kstate := .loaded, image := some img0 })
    (fresh.ctx 0).kstate = .none ∧ (fresh.ctx 0).state = .created ∧ ((fresh.partOf 0).map (fun p => p.bindGroup 1 1 1)) = some (some [(0, 0)]) ∧
    imageFailure img0 = none ∧ img0.segs = [] ∧ img0.tensors = [] ∧ img0.data = [] ∧ img0.tasks = [] ∧ img0.fixes = [] ∧ fresh.cellsFit 0 [0] = true ∧
    (loaded.ctx 0).kstate ≠ .launched ∧ (loaded.ctx 0).state = .loaded ∧ [7#64].length = img0.params ∧ (loaded.ctx 0).pendW = [] ∧
    (loaded.ctx 0).ksegs = [] ∧ ((ctxSt (fun x => { x with kstate := .launched })).ctx 0).kstate = .launched := by
  refine ⟨?_, ?_, ?_, ?_, ?_, ?_, ?_, ?_, ?_, ?_, ?_, ?_, ?_, ?_, ?_, ?_⟩ <;> decide +kernel

theorem witness_ContextCommands_queues :
    let s := ctxSt id
    0 ∈ s.qopen ∧ 15 ∉ s.qopen ∧ (s.pqueue 0 15).length < 4096 ∧ s.hostCard 0 (decodeCard 0) = some 0 ∧
    s.hostCard 0 (decodeCard (BitVec.allOnes 512)) = none ∧ (s.ctx 0).kgroup = true ∧ 2 ^ 32 - 1 < 2 ^ 32 ∧ 0 < 65536 := by
  refine ⟨?_, ?_, ?_, ?_, ?_, ?_, ?_, ?_⟩ <;> decide +kernel

theorem witness_WindowCommands :
    let s := ctxSt id
    (∃ bs, s.spaceBytes (.ctxBlock 0) = some bs ∧ bs.length = 64) ∧ s.spaceTenant (.ctxBlock 0) = some 0 ∧ s.fabTenant 0 = 0 ∧ (s.ctx 0).pendW = [] ∧
    (s.ctx 0).frwait = [] ∧ (s.link 23).state = 0 ∧ ((linked { state := 1 }).link 23).state = 1 ∧ ((linked {}).link 23).replay = [] ∧
    ((linked {}).link 23).alt = none ∧ s.parts[0]? = some (s.parts.getD 0 {}) ∧ s.parts.length ≤ 1 ∧ (s.ctx 0).permits = [] ∧ 0 % 65536 = 0 := by
  refine ⟨⟨_, rfl, ?_⟩, ?_, ?_, ?_, ?_, ?_, ?_, ?_, ?_, ?_, ?_, ?_, ?_⟩ <;> decide +kernel

/-- One context with one permit in use; a package without partitions. -/
theorem witness_WindowCommands_partitions :
    let s := ctxSt (fun x => { x with permits := [(255, { state := 2 })] })
    let p : PartitionSpec := { tenant := 15, cores := [255], shares := [], qshare := 1024, jshare := 65536, links := [], pipes := [] }
    s.ctxs.map (·.1) = [0] ∧ (s.ctx 0).permits = [(255, { state := 2 })] ∧ State.reset.parts = [] ∧
    (∀ k ∈ p.cores, k < 256 ∧ (alook State.reset.cstate (k / 4)).getD 0 ≠ 3) ∧ p.qshare % 16 = 0 ∧ (s.partOf 0).isSome = true := by decide +kernel

theorem witness_BringUp :
    State.reset.pstate = .dark ∧ ({ State.reset with pstate := .fwfail } : State).pstate = .fwfail ∧
    (let s : State := { State.reset with pstate := .bringup, cstate := [(0, 1)], hbm := [(0, 1)] }
     s.pstate = .bringup ∧ (alook s.cstate 63).getD 0 = 0 ∧ (alook s.cstate 0).getD 0 = 1 ∧ (alook s.cstate (1 - 1)).getD 0 ≠ 0 ∧
      (alook s.hbm 1).getD 0 % 4 = 0 ∧ (∀ k, k < 1 → (alook s.hbm k).getD 0 % 4 ≠ 0)) ∧
    (ctxSt id).serving = true ∧ (ctxSt id).leaf < 2 ^ 20 ∧ 2 ^ 20 ≤ ({ ctxSt id with leaf := 2 ^ 20 } : State).leaf ∧ 500 ≤ 2000 ∧ 7 ≤ 7 := by decide +kernel

theorem witness_BringUp_firmware : firmwareValid State.reset.vendorKey Config.factoryImage = true := by simp [firmwareValid]

theorem witness_MemoryStaysCanonical : State.reset.Inv ∧ ∃ t, step placed = .next t := by
  refine ⟨by unfold State.Inv; decide, _, rfl⟩

/-! ### Values worked out by hand from the rules -/

/-- What an operation sends to res. -/
def delivered (o : Host.Outcome State Fault Refusal) : Option Val :=
  match o with
  | .next t => t.core.staged.findSome? (fun e => match e with
      | .result r => some r.val
      | _ => none)
  | _ => none

def s2 (i : Guard → Src → Instr) (a t : Int) : Option Val :=
  delivered (exec (i 0 704) (st .s (.sc (BitVec.ofInt 64 t)) (.sc (BitVec.ofInt 64 a)) (sc 0)))

def is (x : Int) : Option Val := some (.sc (BitVec.ofInt 64 x))

theorem test_scalar_arithmetic :
    s2 .add (2 ^ 63 - 1) 1 = is (-2 ^ 63) ∧ s2 .sub 0 1 = is (-1) ∧ s2 .mul (2 ^ 32) (2 ^ 32) = is 0 ∧ s2 .mulh (-1) 1 = is (-1) ∧
    s2 .mulhu (-1) (-1) = is (-2) ∧ s2 .div (-7) 2 = is (-3) ∧ s2 .rem (-7) 2 = is (-1) ∧ s2 .div (-2 ^ 63) (-1) = is (-2 ^ 63) ∧
    s2 .rem (-2 ^ 63) (-1) = is 0 ∧ s2 .divu (-1) 2 = is (2 ^ 63 - 1) ∧ s2 .remu (-1) 10 = is 5 := by decide +kernel

theorem test_scalar_shifts :
    s2 .shl 1 64 = is 1 ∧ s2 .shl 1 63 = is (-2 ^ 63) ∧ s2 .shr (-1) 63 = is 1 ∧ s2 .sra (-4) 1 = is (-2) ∧ s2 .rol (-2 ^ 63) 1 = is 1 ∧
    s2 .clz 0 0 = is 64 ∧ s2 .ctz 0 8 = is 3 ∧ s2 .popc 0 255 = is 8 ∧ s2 .sext8 0 128 = is (-128) ∧ s2 .zext8 0 (-1) = is 255 ∧
    s2 .bfx 0xABCD (4 + 8 * 256) = is 0xBC ∧ s2 .andn 15 5 = is 10 ∧ s2 .orn 0 (-1) = is 0 := by decide +kernel

theorem test_scalar_compares :
    s2 .clt (-1) 1 = is 1 ∧ s2 .cltu (-1) 1 = is 0 ∧ s2 .cle 1 1 = is 1 ∧ s2 .ceq 1 2 = is 0 ∧ s2 .cne 1 2 = is 1 ∧ s2 .min (-1) 1 = is (-1) ∧
    s2 .minu (-1) 1 = is 1 ∧ s2 .max (-1) 1 = is 1 ∧ s2 .maxu (-1) 1 = is (-1) := by decide +kernel

/-- Bytes F0 01 at offset 8, lowest first (R6). -/
def bytesAt8 (x : W64) : State :=
  { st .s (.sc x) (sc 0) (sc 0) with mem := Memory.write [] 8 [0xF0, 0x01] }

theorem test_loads :
    delivered (exec (.ld16 0 704) (bytesAt8 (at3 8))) = is 0x01F0 ∧ delivered (exec (.ld8s 0 704) (bytesAt8 (at3 8))) = is (-16) ∧
    delivered (exec (.ld64 0 704) (bytesAt8 (at3 8))) = is 0x01F0 ∧ delivered (exec (.aadd 0 704) (bytesAt8 (at3 8))) = is 0x01F0 ∧
    delivered (exec (.ld16 0 704) (bytesAt8 (at3 9))) = none := by decide +kernel

def v2 (i : VUnit → Guard → Src → Instr) (a b t : Nat) : Option (BitVec 32) :=
  (delivered (exec (i .v0 0 704) (st .v0 (vc t 0) (vc a 0) (vc b 0)))).map (fun v => lane v.vector 0)

theorem test_vector_integers :
    v2 (.vadd · .i8 · ·) 0xFF01FF01 0 0x01010101 = some 0x00020002 ∧ v2 (.vadd · .i16 · ·) 0xFFFF0001 0 0x00010001 = some 0x00000002 ∧
    v2 (.vmulh · .i32 · ·) 0x80000000 0 2 = some 0xFFFFFFFF ∧ v2 (.vmad · .i32 · ·) 3 4 5 = some 17 ∧ v2 (.vsra · .i32 · ·) 0x80000000 0 31 = some 0xFFFFFFFF ∧
    v2 (.vclt · .i32 · ·) 0xFFFFFFFF 0 0 = some 0xFFFFFFFF ∧ v2 (.vclz · .i16 · ·) 0 0 0x00010000 = some 0x000F0010 ∧ v2 .vsel 1 2 0 = some 2 := by decide +kernel

/-- 1.5 × 1.5 = 2.25, 1 + 2^−24 rounds to 1, 1 / 4, 2^3, in FP32; 0x3C00 is 1 in FP16. -/
theorem test_vector_floats :
    v2 (.fmul · .f32 · ·) 0x3FC00000 0 0x3FC00000 = some 0x40100000 ∧ v2 (.fadd · .f32 · ·) 0x3F800000 0 0x33800000 = some 0x3F800000 ∧
    v2 (.ffma · .f32 · ·) 0x40000000 0x40400000 0x3F800000 = some 0x40E00000 ∧ v2 (.fex2 · .f32 · ·) 0 0 0x40400000 = some 0x41000000 ∧
    v2 (.frcp · .f32 · ·) 0 0 0x40800000 = some 0x3E800000 ∧ v2 (.fadd · .f16 · ·) 0x3C003C00 0 0x3C003C00 = some 0x40004000 ∧
    v2 (.fclt · .f32 · ·) 0xBF800000 0 0x3F800000 = some 0xFFFFFFFF := by decide +kernel

/-- The integer path: 16 products of 2 × 3 on an accumulator of 1, and saturation at 2^31 − 1 (R91). -/
theorem test_dot_product :
    let k : MCmd := { kind := .call, seq := 0, fmt := BitVec.ofNat 40 (4 * 2 ^ 35 + 4 * 2 ^ 30) }
    let f := fun (x : Nat) => alignBlock (clsWidth k.cls) ((List.replicate 16 x).map (elemNum k.fa 0))
    accStep k 1 (f 2) (f 3) = (97, 0) ∧ (accStep k (2 ^ 31 - 1) (f 2) (f 3)).1 = 2 ^ 31 - 1 := by decide +kernel

/-- A division by zero takes DIV_ZERO with the dividend (R150), an unaligned load SEG_BOUNDS (R154), from the state where they stand. -/
theorem test_faults :
    (match exec (.div 0 704) (st .s (sc 0) (sc 9) (sc 0)) with
      | .next t => t.core.raised.map (fun f => (f.cause, f.info))
      | _ => none) = some (.divZero, 9) ∧
    (match exec (.ld16 0 704) (bytesAt8 (at3 9)) with
      | .next t => t.core.raised.map (·.cause)
      | _ => none) = some .segBounds := by decide +kernel

/-- One step of a placed bundle: DST 645, source 1,025, so s5 := 1; fetch goes on to the next bundle. -/
theorem test_step_move :
    (match step (State.reset.withFetchWord 24 0x142C01) with
      | .next t => (t.core.sreg 5, t.core.pc, t.core.issued)
      | _ => (0, 0, 0)) = (1, placed.core.pc + 1, placed.core.issued + 1) := by decide +kernel

/-- A turn of a core that the package does not have is a fault, one of the last core is not (R2, R10). -/
theorem test_step_cores :
    (match step { State.reset with agenda := [.core 256] } with
      | .fault .noSuchCore => true
      | _ => false) = true ∧
    (match step { State.reset with agenda := [.core 255] } with
      | .next _ => true
      | _ => false) = true := by decide +kernel

/-- A counter of 2 meets two decrements: it is OPEN; a third sets UNDER (R297). -/
theorem test_counter :
    let d : Signal := { cid := 0, clu := 0, n := 0, kind := .dec 1 }
    let c : Cell := { st := 1, val := 2 }
    (c.take 0 [d, d]).st = 0 ∧ (c.take 0 [d, d]).under = false ∧ (c.take 0 [d, d, d]).under = true := by decide +kernel

/-- The management window: an undefined width of a dispenser is refused, the widest is taken (R264). -/
theorem test_dispenser :
    (match exec (.dspcfg 0 15 4294967295 65536) (ctxSt id) with
      | .next t => t.status
      | _ => none) = some .done ∧
    (match exec (.dspcfg 0 15 4294967295 65537) (ctxSt id) with
      | .next t => t.status
      | _ => none) = some .refused := by decide +kernel

/-! ### Further cases: the edges of single clauses -/

/-- post at an unaligned offset; sstat of a stale name and of one that holds; the results that offer a card and that free; a count that
holds a free. -/
theorem witness_QueueOperations_more :
    Meets .s (some 7) 1 (.sc (at3 32)) (sc 0) (sc 0) (fun s r => (s.core.task.timed = true → r.a.scalar.toNat % 64 = s.lclu) ∧
      addrOff r.t.scalar % 64 ≠ 0) ∧
    Meets .s (some 7) 0 (sc 3) (sc 0) (sc 0) (fun s r => s.me.stale (addrName r.t.scalar) = true) ∧
    Meets .s (some 7) 0 (.sc (name3.setWidth 64)) (sc 0) (sc 0) (fun s r => s.me.stale (addrName r.t.scalar) = false) ∧
    (let r : Result := { due := 4, trig := 3, dom := .s, val := sc 0, rt := 0, act := .post 63 0 }
     let f := { r with act := LandAct.sfree name3 }
     let held := (st .s (sc 0) (sc 0) (sc 0) id (fun x => { x with segs := [(3, { seg3 with inb := 1 })] })).me.seg (nameIdx name3)
     let free := (st .s (sc 0) (sc 0) (sc 0)).me.seg (nameIdx name3)
     r.act = .post 63 0 ∧ f.act = .sfree name3 ∧ held.inb ≠ 0 ∧ free.pin = 0 ∧ free.inb = 0 ∧ free.busy = false) := by
  refine ⟨⟨ready _ rfl rfl rfl, ?_⟩, ⟨ready _ rfl rfl rfl, ?_⟩, ⟨ready _ rfl rfl rfl, ?_⟩, ?_⟩ <;> decide +kernel

theorem alook_map {α : Type} (f : Nat → α) (l : List Nat) (i : Nat) (h : i ∈ l) : alook (l.map (fun k => (k, f k))) i = some (f i) := by
  induction l with
  | nil => simp at h
  | cons a l ih =>
    by_cases e : a = i
    · simp [alook, e]
    · simp [alook, e]
      exact ih (by simpa [Ne.symm e] using h)

/-- Every index taken: salloc has none. -/
theorem witness_SegmentCreation_full :
    let c : Ctx := { ctx0 with segs := (List.range 4096).map (fun i => (i, ({ state := .away } : Seg))) }
    ∀ i, i < 4096 → (c.seg i).state ≠ .free := by
  intro c i h
  simp [c, Ctx.seg, alook_map (fun _ => ({ state := .away } : Seg)) (List.range 4096) i (by simpa using h)]

/-- What salloc refuses (a size of 0, one above the largest, a cluster that the group lacks, more than the quota), and a backing tensor
without pages. -/
theorem witness_SegmentCreation_refused :
    let s := st .s (sc 0) (sc 0) (sc 0) id (fun x => { x with quota := 2, backt := 7 })
    ¬ (0 < 0) ∧ ¬ (393217 * 64 + 63) / 64 ≤ 393216 ∧ (s.ctx 0).group.hasClu 1 = false ∧ (s.ctx 0).quota < (129 + 63) / 64 ∧
    ({ s with tensors := [(7, { ten0 with npage := 0 })] } : State).backPlace 0 1 = none := by
  refine ⟨by decide, by decide, by decide +kernel, by decide +kernel, ?_⟩
  have h : ∀ s : State, s.backing 0 = some (7, { ten0 with npage := 0 }) → s.backSpans 7 = [(0, 1024)] → s.backPlace 0 1 = none := by
    intro s h1 h2
    simp only [State.backPlace, h1, h2]
    rw [if_neg (by simp)]
    decide
  exact h _ (by decide +kernel) (by decide +kernel)

/-- A placement with room, one that a compaction makes room for, and one that waits. -/
theorem witness_SegmentCreation_room :
    let one : Seg := { seg3 with size := 1 }
    let s := fun (n : Nat) => ({ serving (st .s (sc 0) (sc 0) (sc 0) id (fun x => { x with segs := [(3, { one with base := 1 })] })) with
      parts := [{ tenant := 0, cores := [0], f := 4, shares := [(0, 0, 1024 + n)] }] } : State)
    ((s 3).ctx 0).seg 0 = {} ∧ ((s 4).room 0 0 2 none).isSome = true ∧ (s 3).room 0 0 2 none = none ∧
    (((s 3).afterCompaction 0 0).room 0 0 2 none).isSome = true ∧ (s 2).room 0 0 2 none = none ∧ ((s 2).afterCompaction 0 0).room 0 0 2 none = none := by
  decide +kernel

/-- Mode 1 with the codes in a member; a word outside the set; a pitch below the row; no restart; the arrays warm. -/
theorem witness_MicroStoreAndEnd_more :
    let s := atWord ⟨10, 0, 7, 0, 0, 0⟩ (fun r => { r with epi := { r.epi with mode := 1, codes := at3 49152 } })
    let r := routineOf s
    r.epi.mode = 1 ∧ r.member r.epi.codes = true ∧ r.covers r.epi.codes 0 (256 * (clsCols callCmd.cls / 32)) = true ∧ r.member 0 = false ∧
    127 < clsCols callCmd.cls * fieldBits callCmd.fo / 8 ∧ r.restart = false ∧
    (∃ i, i < 256 ∧ r.covers (at3 0) (i * 65535) 128 = false) ∧
    (atWord ⟨0, 0, 0, 0, 0, 0⟩ id (fun m => { m with warm := true })).core.mat.warm = true := by
  refine ⟨?_, ?_, ?_, ?_, ?_, ?_, ⟨255, ?_⟩, ?_⟩ <;> decide +kernel

/-- A full journal turns a store away. -/
theorem witness_MicroStoreAndEnd_journal :
    let s := atWord ⟨10, 0, 7, 0, 0, 0⟩
    ({ s with parts := [{ tenant := 0, cores := [0], jshare := 0 }] } : State).microWrite { callCmd with cm := true } (at3 0) 128 [[1]] |>.2 = false := by
  decide +kernel

/-- A breakpoint under ABORT; a ring that moves; a ring whose tile is being written. -/
theorem witness_FaultsAndRollback_more :
    let s := fun (g : Seg) => st .s (sc 0) (sc 0) (sc 0) (fun c => { c with task := { rpol := 2 } }) (fun x => { frCtx x with segs := [(3, g)] })
    let fs := fun (s : State) => (s.ctx s.cid).seg (nameIdx (s.ctx s.cid).frseg)
    let b : FaultInfo := { cause := .brk }
    let w : FaultInfo := { cause := .overrun }
    b.cause = .brk ∧ b.recalls = [] ∧ (s seg3).core.task.rpol = 2 ∧ w.cause ≠ .brk ∧ (fs (s { seg3 with state := .moving })).state = .moving ∧
    (fs (s { seg3 with tiles := [(0, { st := .filling })] })).state = .resident ∧
    (fs (s { seg3 with tiles := [(0, { st := .filling })] })).tilesOk 0 64 true = false ∧ (fs (s seg3)).tilesOk 0 64 true = true := by decide +kernel

/-- A queue behind a stouch that waits, behind a faulted line; a copy to another cluster inside a circ entry and outside; a line of a page of
the LP tier. -/
theorem witness_EngineTurns_more :
    let r : Cmd := { run0 with timed := true, grp := [at3 0, BitVec.ofNat 64 (segName 4 2).toNat, BitVec.ofNat 64 (1 + 64 * 2 ^ 16), 0] }
    let two := fun (x : Ctx) => { x with segs := [(3, seg3), (4, { seg3 with home := 1 })] }
    let out := eng [r] (fun c => { c with task := { timed := true, pins := [3, 4] } }) two
    ¬ (∀ x ∈ ((eng [{ run0 with op := 10 }, cmd0]).core.eng .c0).cmds, x.st ≠ .faulted ∧ ¬ (x.op = 10 ∧ x.st = .running)) ∧
    out.outsideCirc r = true ∧ (eng [run0]).outsideCirc run0 = false ∧
    (let c : Cmd := { run0 with grp := [BitVec.ofNat 64 (2 ^ 63 + 7), at3 4096, BitVec.ofNat 64 (1 + 64 * 2 ^ 16), 0], srcC := [0, 0] }
     let s : State := ({ eng [c] with tensors := [(7, ten0)] } : State).putEntry 0 { p := true, w := true, lp := true, pfn := 3 }
     s.elemReads .c0 c 7 0 = true ∧ s.elemReads .c0 c 7 1 = false ∧
     (let t : State := { s with badPages := [(7, 1), (7, 0)] }
      t.badPages = [(7, 1)] ++ (7, 0) :: [] ∧ t.elemReads .c0 c 7 0 = true ∧ t.elemReads .c0 c 7 1 = false) ∧
     (∀ p ∈ s.badPages, s.elemReads .c0 c p.1 p.2 = false)) := by decide +kernel

/-- Two signals of one cluster: the second cannot come before the first; from another cluster it can. -/
theorem witness_CellSignals_order :
    let x : Signal := { cid := 0, clu := 0, n := 5, kind := .dec 1, src := 0 }
    let ordered := fun (l : List Signal) (which : List Nat) => (List.range 2).all (fun i => (List.range 2).all (fun j =>
      !(decide (i < j) && l[i]?.map (·.src) = some 0 && l[j]?.map (·.src) = some 0 && which.contains j) || which.contains i))
    ordered [x, x] [0] = true ∧ ordered [x, x] [1] = false ∧ ordered [{ x with src := 1 }, x] [1] = true ∧
    ([x, x].zipIdx.filter (fun y => [1].contains y.2)) ≠ [] := by decide +kernel

/-- A context that no longer serves. -/
theorem witness_CalendarTurns_stopped :
    let b : Task := { pendingT with state := .booked, q := 50, w := 1, core := some 0 }
    let s := tasked [b] (fun c => { c with run := .idle })
    s.mayRun b = true ∧ (tasked [b] id (fun x => { x with state := .suspended })).mayRun b = false ∧
    (tasked [b] id (fun x => { x with preempting := true })).mayRun b = false ∧ s.heldByOther 0 0 = false ∧
    (tasked [b] (fun c => { c with run := .idle, owner := some 1 })).heldByOther 0 0 = false := by decide +kernel

/-- The pages of a save can be touched; a task retires beside commands of another. -/
theorem witness_TaskTurns_more :
    let s := withTen (tasked [linkTask] (fun c => { c with run := .saving, safe := some (0, 0) }) (fun x => { x with savet := 7 }))
    (∃ s1, State.touchAll s.cid none s.me.savet true (pagesOf [(0, 64)]) s = (s1, none)) ∧
    (∀ x ∈ ((eng [{ cmd0 with task := 9 }]).core.eng .c0).cmds, ¬ (x.cid = 0 ∧ x.task = 0)) := by
  exact ⟨⟨_, rfl⟩, by decide +kernel⟩

/-- A lease of one permit at its last frame and the one before; a link that is up. -/
theorem witness_Clocks_more :
    let s : State := { st .s (sc 0) (sc 0) (sc 0) id (fun x => { x with permits := [(255, { state := 2, credit := 64, expiry := 1 })] }) with qc := 63 }
    (s.qc + 1) % 64 = 0 ∧ (∃ c, s.ctxs = [(0, c)] ∧ c.permits = [(255, { state := 2, credit := 64, expiry := 1 })]) ∧ s.tasks = [] ∧
    (1 : Nat) ≤ (s.frame + 1) % 2 ^ 64 ∧ (s.frame + 1) % 2 ^ 64 < 2 ∧
    (let u : State := { State.reset with links := [(23, { state := 2 })] }
     u.ctxs = [] ∧ (u.link 23).state = 2 ∧ (u.link 23).waiting = [] ∧ (u.link 23).txSeq = (u.link 23).ackSeq) := by
  refine ⟨?_, ⟨_, rfl, rfl⟩, ?_, ?_, ?_, ?_⟩ <;> decide +kernel

/-- Who gives a page command: the owner, the tenant, a tenant that is virtualised, a stranger. -/
theorem witness_PageCommands_guests :
    let s := paged { p := true, w := true, pfn := 3 }
    let v : State := { s with virt := [0] }
    (∃ d, s.tensor 7 = some d ∧ d.tenant = 0) ∧ (0 : Nat) ∉ s.virt ∧ 0 ∈ v.virt ∧ (∃ g, some 1 = some g ∧ g ≠ (0 : Nat)) ∧ s.hbmFrames ≤ 8388608 ∧
    (let e : Nat → Option Nat := s.entryAt { ten0 with npage := 64 }
     e 0 = some 0 ∧ e 63 = some 504 ∧ 0 + 8 ≤ 504) := by
  refine ⟨⟨_, rfl, rfl⟩, ?_, ?_, ⟨1, rfl, ?_⟩, ?_, ?_⟩ <;> decide +kernel

/-- A tag that acknowledges the first of two packets; the room of a port; words of each kind; the package is the root of time; a way
around a link that is down. -/
theorem witness_LinkPorts_more :
    let p : Packet := default
    let k : Link := { state := 2, replay := [(0, p), (1, p)], txSeq := 2, rxSeq := 7 }
    packetFlits p = 1 ∧ (∀ y ∈ [(1, p)].head?, y.1 = (0 + packetFlits p) % 65536) ∧ k.ackSeq = 0 ∧ packetFlits p ≤ k.flits ∧ k.part = none ∧ 0 + seqDist k.rxSeq 0 ≠ 0 ∧
    ((((linked k).portHeld 23).filter (fun x => x.1 = (0, 0))).map (·.2)).foldl (· + ·) 0 + 1 + 16 ≤ 34 ∧ (∀ n ∈ [0, 1, 2, 3, 4, 5, 6], fld (withEcc (n * 2 ^ 40)) 40 4 = n ∧ eccCheck (withEcc (n * 2 ^ 40)) = .ok) ∧
    ({ linked k with timeRoot := some 0 } : State).timeRoot = some (linked k).pkg ∧ (linked k).timeRoot ≠ some (linked k).pkg ∧
    (let s : State := { linked {} with links := [(3, { state := 3, trains := 3, alt := some 4, replay := [(0, p)] }), (4, { state := 2 })] }
     3 ≤ (s.link 3).trains ∧ (s.link 3).alt = some 4 ∧ (s.link 4).state = 2 ∧ (s.link 4).waiting = [] ∧
     (s.link 4).flits + (((s.link 3).replay.map (·.2) ++ (s.link 3).waiting).map packetFlits).sum ≤ 256) := by decide +kernel

/-- Management by packet: a command of the fabric owner, of the tenant, and of a stranger; spaces that may only be read. -/
theorem witness_WindowCommands_more :
    let s := fun (net : Nat) => ({ ctxSt id with mgmtIn := [{ srce := 9, net := net, opid := 77 }] } : State)
    (s 63).serving = true ∧ (s 63).mgmtIn = [{ srce := 9, net := 63, opid := 77 }] ∧ (s 0).fabTenant 0 = 0 ∧ (5 : Nat) ≠ 63 ∧ 5 ≠ (s 5).fabTenant 0 ∧
    (∃ c, alook (s 63).ctxs 0 = some c) ∧ (ctxSt id).mgmtIn = [] ∧
    (∀ sp ∈ ([.segDesc 0 3, .segTile 0 3 0, .cell 0 0 0, .permit 0 255, .linkBlock 23, .monitors 63, .slipCount 0] : List Space),
      (((ctxSt id).spaceBytes sp).map (fun bs => decide (1 ≤ bs.length))).getD false = true) ∧
    (∀ c ∈ (ctxSt id).ctxs, c.2.frwait = [] ∧ c.2.pendW = []) ∧ 64 ≤ Config.lpFrames / 8 ∧ (1024 : Nat) ≤ 1024 := by
  refine ⟨?_, ?_, ?_, ?_, ?_, ⟨_, rfl⟩, ?_, ?_, ?_, ?_, ?_⟩ <;> decide +kernel

/-- A text that fails a check, and one whose bundles do not fit; a task that waits under AUTO. -/
theorem witness_ContextCommands_more :
    let fresh := ctxSt (fun x => { x with state := .created, kstate := .none, segs := [] })
    (∃ b ∈ ({ img0 with bundles := [(8192, 0)] } : Image).bundles, 8192 ≤ b.1) ∧ (∀ b ∈ img0.bundles, b.1 < 8192) ∧ fresh.mgmtIn = [] ∧
    (imageFailure { img0 with lists := [(0, [0xFFFFFFFF])] }).isSome = true ∧
    ({ linkTask with state := .faulted, autow := true } : Task).autoWaits = true ∧
    ({ linkTask with state := .faulted, autow := true, rstb := [true] } : Task).autoWaits = false := by
  refine ⟨⟨_, List.mem_singleton.mpr rfl, ?_⟩, ?_, ?_, ?_, ?_, ?_⟩ <;> decide +kernel

/-- A permit request of eight words, its answer, and a return that closes the regions. -/
theorem witness_Permits_words :
    let p : Packet := { (default : Packet) with info := [0, 1, 255, 0, 64, 1, 0, 0] }
    let s : State := serving (st .c0 (sc 0) (sc 0) (sc 0) id (fun x => { x with pool := 64 }))
    p.info = [0, 1, 255, 0, 64, 1, 0, 0] ∧ s.hasReceiver 0 0 = true ∧ 64 ≤ (s.ctx 0).pool ∧ (s.ctx 0).pool < 65 ∧
    ({ p with info := [2, 1, 255, 0, 64, 0, 1, 0] } : Packet).info.length = 8 := by decide +kernel

/-! ### What meets the hypotheses: stores, faults, engines -/

/-- Two pieces that overlap, and what a store finds: no mark, a mark before it, committed mode, a segment freed since. -/
theorem witness_ScalarMemory_stores :
    let g : GStore := { trig := 5, perf := 5, dom := .s, seg := 3, pieces := [(0, [1, 2]), (1, [3])] }
    let s := st .s (sc 0) (sc 0) (sc 0)
    let m := st .s (sc 0) (sc 0) (sc 0) (fun c => { c with mark := some { issue := 5 } })
    let c := st .s (sc 0) (sc 0) (sc 0) (fun c => { c with task := { cm := true } })
    let w := st .s (sc 0) (sc 0) (sc 0) (fun c => { c with gated := [g] })
    (s.seg s.cid g.seg).placed = true ∧ s.core.mark = none ∧ s.core.gated = [] ∧ s.core.task.cm = false ∧ c.core.task.cm = true ∧
    (∃ k, m.core.mark = some k ∧ k.issue ≤ g.trig) ∧ g.pieces = [(0, [1, 2])] ++ (1, [3]) :: [] ∧ (s.seg s.cid 3).life = g.life ∧
    (s.seg s.cid 3).life ≠ ({ g with life := 1 } : GStore).life ∧ w.core.gated = [] ++ g :: [] ∧ s.storeOwned 393216 1 = false := by
  refine ⟨?_, ?_, ?_, ?_, ?_, ⟨_, rfl, ?_⟩, ?_, ?_, ?_, ?_, ?_⟩ <;> decide +kernel

/-- Requests of sys: a task whose records are answered, one with a record that is not, the whole context with FSTOP, no such task. -/
theorem witness_Control_sys :
    let t := { linkTask with state := .faulted, rstb := [true] }
    let u := { linkTask with state := .faulted, rstb := [false] }
    let r : Result := { due := 4, trig := 3, dom := .s, val := sc 0, rt := 0, act := .sys 1 0 }
    (∃ f a, r.act = .sys f a) ∧ (tasked [t]).suspendedTasks 0 = [] ++ t :: [] ∧ t.id = 0 ∧ (∀ b ∈ t.rstb, b = true) ∧ (∃ b ∈ u.rstb, b = false) ∧
    ((tasked [t] id (fun x => { x with fstop := true })).me.fstop = true) ∧ (tasked [t]).me.fstop = false ∧ (tasked []).suspendedTasks 0 = [] ∧
    (tasked [t]).tasks = [] ++ t :: [] ∧ t.same t = true ∧ t.core = some 0 ∧ t.state = .faulted ∧
    (let s := tasked [t] (fun c => { c with run := .faulted })
     (s.getCore 0).task.cid = t.cid ∧ (s.getCore 0).task.key = t.key ∧ (s.getCore 0).run ≠ .idle) := by
  refine ⟨⟨_, _, rfl⟩, ?_, ?_, ?_, ⟨false, ?_, rfl⟩, ?_, ?_, ?_, ?_, ?_, ?_, ?_, ?_⟩ <;> decide +kernel

theorem witness_SystemRegisters_monitors :
    ∀ n ∈ ([33, 34, 35, 36, 37, 38, 39] : List Nat),
      (st .s (sc n) (sc 0) (sc 0)).Ready .s 0 704 (some 1) (sc n) [] ∧ ((st .s (sc n) (sc 0) (sc 0)).trigAt .s (sc n) [] 0).t.scalar.toNat % 256 = n := by
  refine fun n hn => ⟨ready _ rfl rfl rfl, ?_⟩
  revert n; decide

/-- No lock stands on what the two lanes and aget read. -/
theorem witness_MatrixLanes_unlocked :
    (queued loadCmd).lockedIn loadCmd.cid 3 0 16 = false ∧ (queued bCmd).lockedIn bCmd.cid 3 0 (1 * 16 * bRowBytes bCmd) = false ∧
    (atWord ⟨4, 0, 7, 0, 0, 0⟩).lockedIn 0 3 (255 * 128) 128 = false ∧
    (atWord ⟨3, 0, 3, 0, 0, 0⟩ id (fun m => { m with warm := true })).core.mat.warm = true ∧ (atWord ⟨3, 0, 3, 0, 0, 0⟩).core.mat.warm = false := by
  decide +kernel

/-- A result for the ring whose tail is port 1: of a words, of lanes, in a segment; and a port without a ring. -/
theorem witness_ResultsLand_rings :
    let x := fun (store : Nat) => st .s (sc 0) (sc 0) (sc 0) (fun c =>
      let r : Result := { due := 4, trig := 3, dom := .s, val := sc 9, rt := BitVec.ofNat 16 (4 * 2 ^ 13 + 1), mask := -1 }
      { c with inflight := [r], rings := [(2, { store := store, base := if store = 3 then name3.toNat else 5, ten := true, tp := 1, depM1 := 3, infl := 1 })] })
    (∀ n ∈ ([0, 1, 2, 3] : List Nat), rtKind (BitVec.ofNat 16 (4 * 2 ^ 13 + 1)) = 4 ∧
      ((x n).core.tailRing 1).map (·.1) = some 2 ∧ ((x n).core.tailRing 1).map (·.2) = some ((x n).core.ring 2) ∧ ((x n).core.ring 2).store = n) ∧
    (x 0).core.tailRing 0 = none ∧ ((x 3).seg 0 (nameIdx (BitVec.ofNat 16 name3.toNat))).placed = true ∧ (0 : Nat) = ((x 3).seg 0 3).life ∧
    (x 3).core.mark = none ∧ (x 3).core.task.cm = false := by decide +kernel

/-- A mark in force that a guard's write finds before it and behind it; one at the bundle with E, and one with a branch under way. -/
theorem witness_Marks :
    let s := st .s (sc 0) (sc 0) (sc 0) (fun c => { c with mark := some { issue := 4, branches := [(6, 77)] }, issued := 4 })
    (∃ m, s.core.mark = some m ∧ 3 < m.issue ∧ ¬ 4 < m.issue ∧ m.issue = s.core.issued ∧ m.branches = [(6, 77)]) ∧ s.core.markNext = false := by
  refine ⟨⟨_, rfl, ?_, ?_, ?_, rfl⟩, rfl⟩ <;> decide

/-- A bwait with no signal under way, with one of its own core that is two bundles old, and with one that is not. -/
theorem witness_EngineTurns_bwait :
    let c : Cmd := { cmd0 with op := 28, grp := [at3 0, at3 4096, 0, BitVec.ofNat 64 5] }
    let x : Signal := { cid := 0, clu := 0, n := sigCtr c.sigw, kind := .dec 1, at_ := 2 }
    let s := fun (l : List Signal) => ({ eng [c] (fun k => { k with issued := 4 }) with signals := l } : State)
    c.sigw.toNat / 2 ^ 14 % 64 = (s []).linIn c.cid / 4 ∧ (s []).signalDue c = false ∧ (s [x]).signalDue c = true ∧
    (s [{ x with at_ := 3 }]).signalDue c = false := by decide +kernel

/-- An element of grd whose table row is all zeros, weights and sums in FP32. -/
theorem witness_EngineTurns_grd :
    let c : Cmd := { run0 with op := 3, grp := [at3 0, at3 4096, BitVec.ofNat 64 (1 + 64 * 2 ^ 16), 0, at3 8192] }
    let s := eng [c]
    let u : State := { s with mem := s.mem.write (8192 + 7) [0x80] }
    c.op = 3 ∧ epName c.extw = name3 ∧ epOff c.extw = 8192 ∧ natLE (s.segRead 0 3 8192 8) / 2 ^ 63 % 2 = 0 ∧ natLE (u.segRead 0 3 8192 8) / 2 ^ 63 % 2 = 1 ∧
    epName c.srcw = name3 ∧ epName c.dstw = name3 ∧ (s.seg 0 3).tilesOk 8192 8 false = true ∧ (s.seg 0 3).tilesOk 4096 64 true = true := by decide +kernel

/-- An mcast of one row to one buffer, whose in-use bit is clear, and set. -/
theorem witness_EngineTurns_mcast :
    let c : Cmd := { run0 with op := 5, grp := [at3 0, at3 4096, BitVec.ofNat 64 (1 + 64 * 2 ^ 16), 0], acc := [(0, at3 16384), (1, 0)] }
    let s := eng [c]
    let u : State := { s with mem := s.mem.write 16384 [1] }
    mcastFind c (c.word.toNat / 2 ^ 6 % 2 ^ 6 + 1) 0 c.elem = some (0, 0, 1) ∧ walkRows (mcastLines c 0) c.rows 0 0 = some (0, 0, 64) ∧
    natLE (s.segRead 0 3 16384 1) % 2 = 0 ∧ natLE (u.segRead 0 3 16384 1) % 2 = 1 ∧ epOff ((alook c.acc 0).getD 0) = 16384 ∧
    (s.seg 0 3).tilesOk 16448 64 true = true := by decide +kernel

/-- A row of topk: two experts of BF16, one of them chosen. -/
theorem witness_EngineTurns_topk :
    let c : Cmd := { run0 with op := 7, word := BitVec.ofNat 64 (2 ^ 6 + 2 ^ 18), grp := [BitVec.ofNat 64 (2 ^ 63 + 7), at3 4096, BitVec.ofNat 64 (1 + 4 * 2 ^ 16), 0],
                                srcC := [0, 0] }
    let t : Tensor := { ten0 with fmt := 13, dims := [4, 32] }
    let s : State := { withTen (eng [c]) with tensors := [(7, t)] }
    epT c.srcw = true ∧ epT c.dstw = false ∧ s.tensor (epTid c.srcw) = some t ∧ c.word.toNat / 2 ^ 6 % 2 ^ 12 + 1 = 2 ∧ c.word.toNat / 2 ^ 18 % 8 = 1 ∧
    (match s.locate c false c.elem with
      | .ok a => (match s.locRead .c0 c a 0 4 with | .val _ _ => true | _ => false)
      | _ => false) = true := by
  refine ⟨?_, ?_, ?_, ?_, ?_, ?_⟩ <;> decide +kernel

/-- Two depsets, of the cell's own cluster and of another: the other one is the last; a signal that comes after a later one of its core. -/
theorem witness_CellSignals_depsets :
    let x : Signal := { cid := 0, clu := 0, n := 5, kind := .depset true 9, src := 1 }
    let y : Signal := { x with src := 0, kind := .depset false 1 }
    let under := fun (y z : Signal) => (if y.src = 0 then 0 else y.src + 1) < (if z.src = 0 then 0 else z.src + 1)
    ¬ under x y ∧ under y x ∧ x.kind = .depset true 9 ∧
    (let a : Signal := { x with src := 0, at_ := 1, kind := .dec 1 }
     let b : Signal := { a with at_ := 2 }
     ∃ p ∈ [b], ∃ q ∈ [a, b], q.src = q.clu ∧ p.src = p.clu ∧ q.cid = p.cid ∧ q.src = p.src ∧ q.core = p.core ∧ q.at_ < p.at_) := by
  refine ⟨by decide, by decide, rfl, ⟨_, List.mem_singleton.mpr rfl, _, List.mem_cons_self .., ?_⟩⟩
  decide

/-- A card whose block cannot be read yet waits. -/
theorem witness_TaskTurns_blocks :
    let s := tasked [posted] id (fun x => { x with segs := [(3, { seg3 with state := .moving })] })
    (match s.readTcb posted with | .wait _ => true | _ => false) = true := by decide +kernel

/-! ### What meets the hypotheses: Ganders, links, management -/

/-- An element whose token row cannot be read: of a segment that moves, of one that is not there. -/
theorem witness_GanderElements_rows :
    let g := fun (w : W64) => { gslot0 with blk := { gblk with tokens := w } }
    let two := fun (x : Seg) => ({ gst (g (BitVec.ofNat 64 (segName 4 2).toNat)) with ctxs := [(0, { ctx0 with segs := [(3, seg3), (4, x)] })] } : State)
    (match (two { seg3 with state := .moving }).tokenRow (g (BitVec.ofNat 64 (segName 4 2).toNat)) 0 with | .hold => true | _ => false) = true ∧
    (match (gst gslot0).tokenRow (g (BitVec.ofNat 64 (segName 4 2).toNat)) 0 with | .fault _ _ => true | _ => false) = true ∧
    ((gst gslot0).seg 0 3).tilesOk 4096 8 false = true ∧ ({ run0 with op := 16 } : Cmd).timed = false ∧ ({ run0 with timed := true } : Cmd).timed = true := by
  refine ⟨?_, ?_, ?_, ?_, ?_⟩ <;> decide +kernel

/-- A FREE behind a row of its network; a region that another dispatch opened. -/
theorem witness_GanderMessages_queues :
    let f := { msg0 with free := true, data := [] }
    let s : State := { rowSt msg0 with rowIn := [msg0, f] }
    s.rowIn = [] ++ msg0 :: ([] ++ f :: []) ∧ s.msgDie msg0 = 0 ∧ s.msgDie f = 0 ∧ msg0.queue = f.queue ∧ f ∉ ([] ++ msg0 :: [] : List RowMsg) ∧
    msg0.kind ≠ .pull ∧
    (let r : Region := { (rowSt f).regionOf 0 f with srcSlot := 14 }
     r.is 0 f = true ∧ r.ofDispatch f = false ∧ (∀ q ∈ [r], q.is 0 f = true → q.ofDispatch f = true → q.opened = false)) := by decide +kernel

/-- A run whose fourth flit is bad, the rest of its packet, a replay from the middle of a packet, a link whose peer has half of one. -/
theorem witness_LinkPorts_flits :
    let p : Packet := { (default : Packet) with rw := withEcc (7 * 2 ^ 44 + 2 ^ 61) }
    let f : FlitIn := { seq := 0, ack := 65535, crcOk := false, pkt := p, good := 3 }
    let k : Link := { state := 2, part := some (p, 3), rxSeq := 3 }
    let r : Link := { state := 2, replay := [(0, p)], txSeq := 8, ackSeq := 3 }
    f.crcOk = false ∧ 0 < f.good ∧ f.first = 0 ∧ f.seq = ({ state := 2 } : Link).rxSeq ∧ eccCheck f.pkt.rw = .ok ∧ fld f.pkt.rw 40 4 < 7 ∧
    fld f.pkt.rw 40 4 ≠ 2 ∧ fld f.pkt.rw 44 5 ≤ 16 ∧ f.good < packetFlits f.pkt ∧ bit f.pkt.rw 61 = true ∧
    (let g : FlitIn := { f with seq := 3, first := 3, crcOk := true }
     k.part = some (p, 3) ∧ g.first = 3 ∧ g.seq = k.rxSeq ∧ 3 < packetFlits p) ∧
    r.replay = [] ++ (0, p) :: [] ∧ 3 < packetFlits p ∧ r.ackSeq = (0 + 3) % 65536 ∧ r.flits = 5 ∧
    (∃ q ∈ ({ k with waiting := [p] } : Link).waiting, queueOf q = queueOf p) := by
  refine ⟨?_, ?_, ?_, ?_, ?_, ?_, ?_, ?_, ?_, ?_, ?_, ?_, ?_, ?_, ?_, ⟨_, List.mem_singleton.mpr rfl, rfl⟩⟩ <;> decide +kernel

/-- A packet that has found its receive, one that has not within 4 quanta; an answer that comes after its permit was given up. -/
theorem witness_Links_late :
    let p : Packet := default
    let x : Held := { pkt := p, seq := 0, at_ := 0, raw := p.rw }
    let s : State := { linked { state := 2, sched := [x] } with qc := 4 }
    (∀ x ∈ (s.link 23).sched, x.found = false ∧ x.at_ + 4 ≤ s.qc) ∧ ({ x with found := true } : Held).found = true ∧
    (let a : Ask := { pmt := 255, opid := 9, ask := 64, pkg := 1, rctx := 0, rten := 0, cmd := none }
     let c : Ctx := { ctx0 with asks := [a] }
     c.asks.find? (fun a => a.pmt = 255 && a.opid = 9) = some a ∧ a.cmd = none ∧ ({ State.reset with ctxs := [(0, c)] } : State).permit 0 255 = {} ∧
     ({} : Permit).state ≠ 1 ∧ (∀ a ∈ c.asks, a.pmt = 255 → a.opid ≠ 8)) ∧
    (let w : Permit := { state := 1, opid := 9, ask := 64 }
     w.state = 1 ∧ w.state ≠ 0) := by decide +kernel

/-- A collective whose pages cannot all be touched; a queue that a context's end has closed; who gives commands; a guest's table. -/
theorem witness_Management_new :
    let c : Cmd := { run0 with op := 23, grp := [BitVec.ofNat 64 (2 ^ 63 + 7), BitVec.ofNat 64 (2 ^ 63 + 7), 0, 0] }
    (match ({ eng [c] with tensors := [(7, ten0)] } : State).tenTouch .c0 c 7 [(0, 64)] true with | .fault _ _ => true | _ => false) = true ∧
    (let s := ctxSt (fun x => { x with state := .draining })
     0 ∈ s.qopen ∧ s.hostCard 0 (decodeCard 0) = some 0 ∧ (s.ctx 0).state = .draining) ∧
    (let s : State := { ctxSt id with mgmtIn := [{ srce := 9, net := 5, opid := 77 }] }
     s.serving = true ∧ (5 : Nat) ≠ 63 ∧ (s.spaceBytes (s.seenBy 63 (.ctxBlock 0))).isSome = true) ∧
    (let s : State := { ctxSt id with tensors := [(7, ten0)], virt := [0] }
     s.tensor 7 = some ten0 ∧ ten0.tenant ∈ s.virt ∧ s.fabTenant ten0.tenant = 0 ∧ 0 < ten0.npage) := by decide +kernel

/-- R272: an M trigger in bundle 0 with no wait before the SP of bundle 1 fails check 1 there, and with E in bundle 1 nothing. -/
theorem test_loader_paths :
    let m : BitVec 256 := BitVec.ofNat 256 (0b000101101000010000000001 * 2 ^ 72)
    imageFailure { img0 with bundles := [(0, m), (1, 1#256 <<< 253), (2, 1#256 <<< 255)] } = some { check := 1, bundle := 1, path := [0, 1] } ∧
    imageFailure { img0 with bundles := [(0, m), (1, 1#256 <<< 255)] } = none := by
  decide +kernel

end Sys2Proof.Tests
end

section
/-! SUPPORT. No turn stops: every meaning of a row that the agenda may bring answers a next state, a row that names a unit of hardware when
the part has that unit (R2). -/

namespace Sys2Proof.Machine

/-- The turn is over with a next state: no fault, no refusal. -/
def GoesOn (o : Host.Outcome State Fault Refusal) : Prop := ∃ t, o = .next t

theorem goesOn_next (t : State) : GoesOn (.next t) := ⟨t, rfl⟩

theorem goesOn_ite {c : Prop} [Decidable c] {a b : Host.Outcome State Fault Refusal} (ha : c → GoesOn a) (hb : ¬ c → GoesOn b) :
    GoesOn (if c then a else b) := by
  split
  · exact ha ‹c›
  · exact hb ‹¬ c›

/-- A check that a unit exists is passed by a unit of the part. -/
theorem goesOn_unit {c : Prop} [Decidable c] {f : Fault} {o : Host.Outcome State Fault Refusal} (hc : ¬ c) (ho : GoesOn o) :
    GoesOn (if c then .fault f else o) := by
  rw [if_neg hc]; exact ho

/-! ### Management commands: whatever is refused is answered -/

theorem goesOn_answer (s : State) (m : MStatus) (data : List Byte) : GoesOn (s.answer m data) := ⟨_, rfl⟩

theorem goesOn_command1 (s : State) {k : State → Host.Outcome State Fault Refusal} (hk : ∀ s, GoesOn (k s)) : GoesOn (s.command1 k) :=
  goesOn_ite (fun _ => hk s) (fun _ => goesOn_answer s _ _)

theorem goesOn_commandOwner (s : State) {k : State → Host.Outcome State Fault Refusal} (hk : ∀ s, GoesOn (k s)) :
    GoesOn (s.commandOwner k) :=
  goesOn_command1 s fun s => goesOn_ite (fun _ => hk s) (fun _ => goesOn_answer s _ _)

theorem goesOn_commandOf (s : State) (tenant : Option Nat) {k : State → Host.Outcome State Fault Refusal} (hk : ∀ s, GoesOn (k s)) :
    GoesOn (s.commandOf tenant k) :=
  goesOn_command1 s fun s => goesOn_ite (fun _ => hk s) (fun _ => goesOn_answer s _ _)

theorem execContextCreate_goesOn (cid tenant : Nat) (s : State) : GoesOn (execContextCreate cid tenant s) :=
  goesOn_commandOf s _ fun s => goesOn_ite (fun _ => goesOn_answer s _ _) (fun _ => goesOn_answer _ _ _)

theorem execContextDestroy_goesOn (cid : Nat) (s : State) : GoesOn (execContextDestroy cid s) :=
  goesOn_commandOf s _ fun s => by
    split
    · exact goesOn_answer s _ _
    · exact goesOn_ite (fun _ => goesOn_answer s _ _) (fun _ => goesOn_answer _ _ _)

theorem execPreempt_goesOn (cid : Nat) (s : State) : GoesOn (execPreempt cid s) :=
  goesOn_commandOf s _ fun s => goesOn_ite (fun _ => goesOn_answer s _ _) (fun _ => goesOn_answer _ _ _)

theorem execHostResume_goesOn (cid : Nat) (task : Option Nat) (s : State) : GoesOn (execHostResume cid task s) :=
  goesOn_commandOf s _ fun _ => goesOn_answer _ _ _

theorem execHostAbort_goesOn (cid : Nat) (task : Option Nat) (s : State) : GoesOn (execHostAbort cid task s) :=
  goesOn_commandOf s _ fun _ => goesOn_answer _ _ _

theorem execKload_goesOn (cid : Nat) (img : Image) (s : State) : GoesOn (execKload cid img s) :=
  goesOn_commandOf s _ fun s => by
    refine goesOn_ite (fun _ => goesOn_answer s _ _) fun _ => goesOn_ite (fun _ => goesOn_answer s _ _) fun _ =>
      goesOn_ite (fun _ => goesOn_answer s _ _) fun _ => ?_
    split
    · exact goesOn_answer _ _ _
    · split
      · exact goesOn_answer s _ _
      · exact goesOn_ite (fun _ => goesOn_answer _ _ _) fun _ => goesOn_ite (fun _ => goesOn_answer _ _ _) fun _ => goesOn_answer _ _ _

theorem execKlaunch_goesOn (cid : Nat) (params : List W64) (s : State) : GoesOn (execKlaunch cid params s) :=
  goesOn_commandOf s _ fun s => goesOn_ite (fun _ => goesOn_answer s _ _) fun _ => goesOn_ite (fun _ => goesOn_answer s _ _) fun _ =>
    goesOn_ite (fun _ => goesOn_answer s _ _) fun _ => goesOn_answer _ _ _

theorem execKunload_goesOn (cid : Nat) (s : State) : GoesOn (execKunload cid s) :=
  goesOn_commandOf s _ fun s => goesOn_ite (fun _ => goesOn_answer _ _ _) (fun _ => goesOn_answer s _ _)

theorem execQpush_goesOn (tenant queue : Nat) (card : BitVec 512) (s : State) : GoesOn (execQpush tenant queue card s) :=
  goesOn_commandOf s _ fun s => by
    refine goesOn_ite (fun _ => goesOn_answer s _ _) fun _ => goesOn_ite (fun _ => goesOn_answer s _ _) fun _ => ?_
    split
    · exact goesOn_answer s _ _
    · exact goesOn_ite (fun _ => goesOn_answer s _ _) (fun _ => goesOn_answer _ _ _)

theorem execDspcfg_goesOn (cid disp count width : Nat) (s : State) : GoesOn (execDspcfg cid disp count width s) :=
  goesOn_commandOf s _ fun s => goesOn_ite (fun _ => goesOn_answer s _ _) (fun _ => goesOn_answer _ _ _)

theorem execTtw_goesOn (tid page : Nat) (entry : W64) (guest : Option Nat) (s : State) : GoesOn (execTtw tid page entry guest s) :=
  goesOn_commandOf s _ fun s => by
    split
    · exact goesOn_answer s _ _
    · exact goesOn_ite (fun _ => goesOn_answer s _ _) fun _ => goesOn_ite (fun _ => goesOn_answer _ _ _) fun _ =>
        goesOn_ite (fun _ => goesOn_answer s _ _) fun _ => goesOn_ite (fun _ => goesOn_answer s _ _) fun _ => goesOn_answer _ _ _

theorem execTsplit_goesOn (tid lpage : Nat) (s : State) : GoesOn (execTsplit tid lpage s) :=
  goesOn_commandOf s _ fun s => by
    split
    · exact goesOn_answer s _ _
    · exact goesOn_ite (fun _ => goesOn_answer s _ _) fun _ => goesOn_ite (fun _ => goesOn_answer s _ _) fun _ => goesOn_next _

theorem execTsplitDone_goesOn (tid lpage : Nat) (s : State) : GoesOn (execTsplitDone tid lpage s) :=
  goesOn_ite (fun _ => goesOn_next _) (fun _ => goesOn_next s)

theorem execDswap_goesOn (lp : Bool) (s : State) : GoesOn (execDswap lp s) := goesOn_commandOwner s fun _ => goesOn_answer _ _ _

theorem execMgmtPload_goesOn (tid page frame : Nat) (s : State) : GoesOn (execMgmtPload tid page frame s) :=
  goesOn_commandOf s _ fun s => by
    dsimp only
    split
    · exact goesOn_answer s _ _
    · refine goesOn_ite (fun _ => goesOn_answer s _ _) fun _ => ?_
      split
      · exact goesOn_answer s _ _
      · exact goesOn_ite (fun _ => goesOn_answer _ _ _) (fun _ => goesOn_answer s _ _)
      · exact goesOn_ite (fun _ => goesOn_answer _ _ _) (fun _ => goesOn_answer s _ _)
      · exact goesOn_answer s _ _

theorem execPoolcfg_goesOn (size : Nat) (floors : List (Nat × Nat)) (s : State) : GoesOn (execPoolcfg size floors s) :=
  goesOn_commandOwner s fun s => goesOn_ite (fun _ => goesOn_answer s _ _) (fun _ => goesOn_answer _ _ _)

theorem execLenable_goesOn (link : Nat) (s : State) : GoesOn (execLenable link s) :=
  goesOn_commandOwner s fun s => goesOn_ite (fun _ => goesOn_answer s _ _) fun _ =>
    goesOn_ite (fun _ => goesOn_answer _ _ _) (fun _ => goesOn_answer s _ _)

theorem execLdisable_goesOn (link : Nat) (s : State) : GoesOn (execLdisable link s) :=
  goesOn_commandOwner s fun s => goesOn_ite (fun _ => goesOn_answer s _ _) (fun _ => goesOn_answer _ _ _)

theorem execLclr_goesOn (link : Nat) (s : State) : GoesOn (execLclr link s) :=
  goesOn_commandOwner s fun s => goesOn_ite (fun _ => goesOn_answer s _ _) (fun _ => goesOn_answer _ _ _)

theorem execCollcfg_goesOn (tenant grp : Nat) (members : List (Nat × Nat)) (s : State) : GoesOn (execCollcfg tenant grp members s) :=
  goesOn_commandOf s _ fun s => goesOn_ite (fun _ => goesOn_answer s _ _) (fun _ => goesOn_answer _ _ _)

theorem execPmcfg_goesOn (cid pool : Nat) (s : State) : GoesOn (execPmcfg cid pool s) :=
  goesOn_commandOf s _ fun s => by split <;> exact goesOn_answer _ _ _

theorem execPreset_goesOn (part : Nat) (s : State) : GoesOn (execPreset part s) :=
  goesOn_commandOf s _ fun s => by split <;> exact goesOn_answer _ _ _

theorem execPwrcap_goesOn (cap floor : Nat) (s : State) : GoesOn (execPwrcap cap floor s) :=
  goesOn_commandOwner s fun s => goesOn_ite (fun _ => goesOn_answer s _ _) (fun _ => goesOn_answer _ _ _)

theorem execAttest_goesOn (nonce : BitVec 256) (s : State) : GoesOn (execAttest nonce s) :=
  goesOn_command1 s fun s => goesOn_ite (fun _ => goesOn_answer s _ _) (fun _ => goesOn_answer _ _ _)

theorem execFwload_goesOn (image : List Byte) (owner : Bool) (s : State) : GoesOn (execFwload image owner s) :=
  goesOn_ite (fun _ => goesOn_answer _ _ _) (fun _ => goesOn_answer s _ _)

theorem execMrd_goesOn (net : Nat) (sp : Space) (off len : Nat) (s : State) : GoesOn (execMrd net sp off len s) :=
  goesOn_command1 s fun s => goesOn_ite (fun _ => goesOn_answer s _ _) fun _ => by split <;> exact goesOn_answer _ _ _

theorem execMwr_goesOn (net : Nat) (sp : Space) (off : Nat) (data : List Byte) (s : State) : GoesOn (execMwr net sp off data s) :=
  goesOn_command1 s fun s => goesOn_ite (fun _ => goesOn_answer s _ _) fun _ => by split <;> exact goesOn_answer _ _ _

theorem execFrheadWrite_goesOn (cid : Nat) (frhead frseg frdepth : Option Nat) (s : State) :
    GoesOn (execFrheadWrite cid frhead frseg frdepth s) :=
  goesOn_commandOf s _ fun s => by split <;> exact goesOn_answer _ _ _

theorem execPartitionCreate_goesOn (p : PartitionSpec) (s : State) : GoesOn (execPartitionCreate p s) :=
  goesOn_commandOwner s fun s => goesOn_ite (fun _ => goesOn_answer s _ _) (fun _ => goesOn_answer _ _ _)

theorem execTensorDescriptorWrite_goesOn (tid : Nat) (d : TensorWrite) (guest : Option Nat) (s : State) :
    GoesOn (execTensorDescriptorWrite tid d guest s) :=
  goesOn_commandOf s _ fun s => goesOn_ite (fun _ => goesOn_answer s _ _) fun _ => goesOn_ite (fun _ => goesOn_answer _ _ _) fun _ =>
    goesOn_ite (fun _ => goesOn_answer s _ _) fun _ => goesOn_answer _ _ _

/-! ### Rows that name a unit: with one of the part -/

theorem execDispatch_goesOn {clu : Nat} (h : clu < 64) (tenant : Nat) (s : State) : GoesOn (execDispatch clu tenant s) :=
  goesOn_unit (Nat.not_le.mpr h) (goesOn_next _)

theorem execGanderElement_goesOn {die slot : Nat} (hd : die < 4) (hs : slot < 16) (s : State) : GoesOn (execGanderElement die slot s) :=
  goesOn_unit (by omega) <| by
    dsimp only
    split
    · split <;> exact goesOn_next _
    · exact goesOn_next s

theorem onMsg_goesOn {die : Nat} (h : die < 4) (s : State) (k : MsgKind) (f : RowMsg → State → State × Bool) : GoesOn (s.onMsg die k f) :=
  goesOn_unit (Nat.not_le.mpr h) (goesOn_next _)

theorem execFlitReceive_goesOn {link : Nat} (h : link < 24) (f : FlitIn) (s : State) : GoesOn (execFlitReceive link f s) :=
  goesOn_unit (Nat.not_le.mpr h) <| goesOn_ite (fun _ => goesOn_next s) fun _ => goesOn_ite (fun _ => goesOn_next _) fun _ => by
    dsimp only
    split
    · exact goesOn_ite (fun _ => goesOn_next _) (fun _ => goesOn_next _)
    · refine goesOn_ite (fun _ => goesOn_next _) fun _ => ?_
      split
      · exact goesOn_next _
      · refine goesOn_ite (fun _ => goesOn_next _) fun _ => ?_
        split
        · exact goesOn_next _
        · exact goesOn_ite (fun _ => goesOn_next _) (fun _ => goesOn_next _)

theorem execReplayRequest_goesOn {link : Nat} (h : link < 24) (seq : Nat) (s : State) : GoesOn (execReplayRequest link seq s) :=
  goesOn_unit (Nat.not_le.mpr h) <| goesOn_ite (fun _ => goesOn_next s) (fun _ => goesOn_next _)

theorem execTimeBeacon_goesOn {link : Nat} (h : link < 24) (frame phase : Nat) (s : State) : GoesOn (execTimeBeacon link frame phase s) :=
  goesOn_unit (Nat.not_le.mpr h) (goesOn_next _)

theorem execLinkTrainingDone_goesOn {link : Nat} (h : link < 24) (ok : Bool) (ld peer : Nat) (s : State) :
    GoesOn (execLinkTrainingDone link ok ld peer s) :=
  goesOn_unit (Nat.not_le.mpr h) (goesOn_next _)

theorem execSchedUnclaimed_goesOn {link : Nat} (h : link < 24) (idx : Nat) (s : State) : GoesOn (execSchedUnclaimed link idx s) :=
  goesOn_unit (Nat.not_le.mpr h) <| by split <;> exact goesOn_next _

theorem execClusterStart_goesOn {clu : Nat} (h : clu < 64) (s : State) : GoesOn (execClusterStart clu s) :=
  goesOn_unit (Nat.not_le.mpr h) (goesOn_next _)

theorem execSelftestDone_goesOn {clu : Nat} (h : clu < 64) (ok : Bool) (s : State) : GoesOn (execSelftestDone clu ok s) :=
  goesOn_unit (Nat.not_le.mpr h) (goesOn_next _)

theorem execHbmTrainingDone_goesOn {stack : Nat} (h : stack < 8) (ok : Bool) (s : State) : GoesOn (execHbmTrainingDone stack ok s) :=
  goesOn_unit (Nat.not_le.mpr h) (goesOn_next _)

/-! ### Rows that look at the state first: with nothing to do, the state stays -/

theorem execSaveComplete_goesOn (s : State) : GoesOn (execSaveComplete s) := by
  refine goesOn_ite (fun _ => goesOn_next s) fun _ => ?_
  split
  · exact goesOn_next s
  · dsimp only
    split
    · exact goesOn_ite (fun _ => goesOn_next _) (fun _ => goesOn_next _)
    · exact goesOn_next _

theorem execMloadComplete_goesOn (s : State) : GoesOn (execMloadComplete s) := by
  unfold execMloadComplete
  split <;> exact goesOn_next _

theorem execBloadComplete_goesOn (s : State) : GoesOn (execBloadComplete s) := by
  unfold execBloadComplete
  split
  · exact goesOn_next s
  · exact goesOn_ite (fun _ => goesOn_next s) fun _ => goesOn_ite (fun _ => goesOn_next _) (fun _ => goesOn_next _)

theorem execBswapExecute_goesOn (s : State) : GoesOn (execBswapExecute s) := by
  unfold execBswapExecute
  split
  · exact goesOn_next s
  · exact goesOn_ite (fun _ => goesOn_next s) (fun _ => goesOn_next _)

theorem execAcczExecute_goesOn (s : State) : GoesOn (execAcczExecute s) := by
  unfold execAcczExecute
  split <;> exact goesOn_next _

theorem execAccrelExecute_goesOn (s : State) : GoesOn (execAccrelExecute s) := by
  unfold execAccrelExecute
  split <;> exact goesOn_next _

theorem execCallDispatch_goesOn (s : State) : GoesOn (execCallDispatch s) := by
  unfold execCallDispatch
  split
  · exact goesOn_next s
  · split
    · exact goesOn_next _
    · exact goesOn_next _
    · exact goesOn_ite (fun _ => goesOn_next _) (fun _ => goesOn_next _)

theorem execAgetFillDone_goesOn (slot : Nat) (s : State) : GoesOn (execAgetFillDone slot s) :=
  goesOn_ite (fun _ => goesOn_next _) (fun _ => goesOn_next s)

theorem execRoutineRestart_goesOn (s : State) : GoesOn (execRoutineRestart s) := by
  unfold execRoutineRestart
  split
  · exact goesOn_ite (fun _ => goesOn_next _) (fun _ => goesOn_next s)
  · exact goesOn_next s

theorem execCommandStart_goesOn (u : CUnit) (s : State) : GoesOn (execCommandStart u s) := by
  unfold execCommandStart
  dsimp only
  split <;> exact goesOn_next _

theorem execCopyElement_goesOn (u : CUnit) (id : Nat) (s : State) : GoesOn (execCopyElement u id s) := by
  unfold execCopyElement
  split <;> exact goesOn_next _

theorem execCommandComplete_goesOn (u : CUnit) (id : Nat) (s : State) : GoesOn (execCommandComplete u id s) := by
  unfold execCommandComplete
  split <;> exact goesOn_next _

theorem execEngineResume_goesOn (u : CUnit) (id : Nat) (s : State) : GoesOn (execEngineResume u id s) := by
  unfold execEngineResume
  split <;> exact goesOn_next _

theorem execSubPush_goesOn (u : CUnit) (sid : Nat) (s : State) : GoesOn (execSubPush u sid s) := by
  unfold execSubPush
  split
  · exact goesOn_next s
  · refine goesOn_ite (fun _ => goesOn_next s) fun _ => ?_
    split
    · exact goesOn_next _
    · split <;> exact goesOn_next _

theorem execSubReturn_goesOn (u : CUnit) (sid : Nat) (s : State) : GoesOn (execSubReturn u sid s) := by
  unfold execSubReturn
  split
  · exact goesOn_next s
  · refine goesOn_ite (fun _ => goesOn_next s) fun _ => ?_
    split
    · exact goesOn_next _
    · split <;> exact goesOn_next _

theorem execSignalApply_goesOn (cid clu n : Nat) (which : List Nat) (s : State) : GoesOn (execSignalApply cid clu n which s) :=
  goesOn_ite (fun _ => goesOn_next s) (fun _ => goesOn_next _)

theorem execPackageForward_goesOn (tenant : Nat) (s : State) : GoesOn (execPackageForward tenant s) := by
  unfold execPackageForward
  dsimp only
  split <;> exact goesOn_next _

theorem execDispenserServe_goesOn (cid disp : Nat) (s : State) : GoesOn (execDispenserServe cid disp s) := by
  refine goesOn_ite (fun _ => goesOn_next s) fun _ => ?_
  split <;> exact goesOn_next _

theorem execTaskRetire_goesOn (cid task : Nat) (s : State) : GoesOn (execTaskRetire cid task s) := by
  unfold execTaskRetire
  split
  · split <;> exact goesOn_next _
  · exact goesOn_next s

theorem execQuantumBoundary_goesOn (s : State) : GoesOn (execQuantumBoundary s) :=
  goesOn_ite (fun _ => goesOn_next s) (fun _ => goesOn_next _)

theorem execFrameBoundary_goesOn (fin : FrameIn) (s : State) : GoesOn (execFrameBoundary fin s) :=
  goesOn_ite (fun _ => goesOn_next s) (fun _ => goesOn_next _)

theorem execTimedClearStart_goesOn (cid task : Nat) (s : State) : GoesOn (execTimedClearStart cid task s) := by
  unfold execTimedClearStart
  split
  · exact goesOn_ite (fun _ => goesOn_next s) fun _ => goesOn_ite (fun _ => goesOn_next _) (fun _ => goesOn_next _)
  · exact goesOn_next s

theorem execTimedTaskStart_goesOn (cid task : Nat) (s : State) : GoesOn (execTimedTaskStart cid task s) := by
  unfold execTimedTaskStart
  split
  · split <;> exact goesOn_next _
  · exact goesOn_next s

theorem execWindowEnd_goesOn (s : State) : GoesOn (execWindowEnd s) := by
  unfold execWindowEnd
  dsimp only
  split <;> exact goesOn_next _

theorem execEvictionComplete_goesOn (tid page : Nat) (s : State) : GoesOn (execEvictionComplete tid page s) := by
  unfold execEvictionComplete
  dsimp only
  split <;> exact goesOn_next _

theorem execFetchComplete_goesOn (tid page : Nat) (ok : Bool) (s : State) : GoesOn (execFetchComplete tid page ok s) := by
  unfold execFetchComplete
  dsimp only
  split
  · exact goesOn_ite (fun _ => goesOn_next _) (fun _ => goesOn_next _)
  · exact goesOn_next s

theorem execPermitRequestReceive_goesOn (p : Packet) (s : State) : GoesOn (execPermitRequestReceive p s) :=
  goesOn_ite (fun _ => goesOn_next s) (fun _ => goesOn_next _)

theorem execPermitAnswerReceive_goesOn (cid pmt : Nat) (granted : Bool) (s : State) : GoesOn (execPermitAnswerReceive cid pmt granted s) := by
  unfold execPermitAnswerReceive
  split
  · exact goesOn_next s
  · refine goesOn_ite (fun _ => goesOn_next _) fun _ => ?_
    split <;> exact goesOn_next _

theorem execPermitReturnReceive_goesOn (p : Packet) (s : State) : GoesOn (execPermitReturnReceive p s) :=
  goesOn_ite (fun _ => goesOn_next s) fun _ => goesOn_ite (fun _ => goesOn_next _) (fun _ => goesOn_next _)

theorem execSchedSend_goesOn (u : CUnit) (id : Nat) (s : State) : GoesOn (execSchedSend u id s) := by
  unfold execSchedSend
  split <;> exact goesOn_next _

theorem execSchedDeadline_goesOn (u : CUnit) (id : Nat) (s : State) : GoesOn (execSchedDeadline u id s) := by
  unfold execSchedDeadline
  split
  · exact goesOn_next s
  · dsimp only
    split <;> exact goesOn_next _

theorem execCollStep_goesOn (u : CUnit) (id : Nat) (p : Packet) (s : State) : GoesOn (execCollStep u id p s) := by
  unfold execCollStep
  split
  · exact goesOn_next s
  · refine goesOn_ite (fun _ => goesOn_next s) fun _ => goesOn_ite (fun _ => ?_) (fun _ => ?_)
    · exact goesOn_ite (fun _ => goesOn_next s) fun _ => goesOn_ite (fun _ => goesOn_next _) (fun _ => goesOn_next _)
    · refine goesOn_ite (fun _ => goesOn_next s) fun _ => ?_
      split <;> exact goesOn_next _

theorem execContextDestroyed_goesOn (cid : Nat) (s : State) : GoesOn (execContextDestroyed cid s) := by
  unfold execContextDestroyed
  split
  · exact goesOn_next s
  · exact goesOn_ite (fun _ => goesOn_next s) (fun _ => goesOn_next _)

theorem execRemoteBwaitAnswer_goesOn (u : CUnit) (id : Nat) (s : State) : GoesOn (execRemoteBwaitAnswer u id s) := by
  unfold execRemoteBwaitAnswer
  split <;> exact goesOn_next _

theorem execOverlayRegionReload_goesOn (region : Nat) (s : State) : GoesOn (execOverlayRegionReload region s) :=
  goesOn_ite (fun _ => goesOn_next _) (fun _ => goesOn_next s)

/-! ### All rows -/

/-- A row that is no move, its numbers within the part, answers a next state. -/
theorem exec_goesOn {i : Instr} (hw : i.wf = true) (hm : isMove i = false) (s : State) : GoesOn (exec i s) := by
  cases i
  case microNop | aget | waitt | stream | accw | accadd | escale | ebias | eact | eqnt | estore | sig | bflip | mloop | mjmp | mparm
    | mend | bundleIssue | rampDownStep | depidRead | permitExpire | pushComplete | segmentMoveComplete | recallComplete
    | hazelWaitRetry | softError | poolRetry | powerGood | powerLost | descriptorCacheFill => exact goesOn_next _
  case rowPacketReceive | pullReceive | retPacketReceive | freeReceive | freeAckReceive => exact onMsg_goesOn (of_decide_eq_true hw) s _ _
  case saveComplete => exact execSaveComplete_goesOn s
  case mloadComplete => exact execMloadComplete_goesOn s
  case bloadComplete => exact execBloadComplete_goesOn s
  case bswapExecute => exact execBswapExecute_goesOn s
  case acczExecute => exact execAcczExecute_goesOn s
  case accrelExecute => exact execAccrelExecute_goesOn s
  case callDispatch => exact execCallDispatch_goesOn s
  case agetFillDone => exact execAgetFillDone_goesOn _ s
  case routineRestart => exact execRoutineRestart_goesOn s
  case commandStart => exact execCommandStart_goesOn _ s
  case copyElement => exact execCopyElement_goesOn _ _ s
  case commandComplete => exact execCommandComplete_goesOn _ _ s
  case engineResume => exact execEngineResume_goesOn _ _ s
  case subPush => exact execSubPush_goesOn _ _ s
  case subReturn => exact execSubReturn_goesOn _ _ s
  case signalApply => exact execSignalApply_goesOn _ _ _ _ s
  case packageForward => exact execPackageForward_goesOn _ s
  case dispatch clu tenant =>
    obtain ⟨hc, _⟩ := Bool.and_eq_true_iff.mp hw
    exact execDispatch_goesOn (of_decide_eq_true hc) tenant s
  case dispenserServe => exact execDispenserServe_goesOn _ _ s
  case taskRetire => exact execTaskRetire_goesOn _ _ s
  case quantumBoundary => exact execQuantumBoundary_goesOn s
  case frameBoundary => exact execFrameBoundary_goesOn _ s
  case timedClearStart => exact execTimedClearStart_goesOn _ _ s
  case timedTaskStart => exact execTimedTaskStart_goesOn _ _ s
  case windowEnd => exact execWindowEnd_goesOn s
  case evictionComplete => exact execEvictionComplete_goesOn _ _ s
  case fetchComplete => exact execFetchComplete_goesOn _ _ _ s
  case tsplitDone => exact execTsplitDone_goesOn _ _ s
  case ganderElement die slot =>
    obtain ⟨hd, hs⟩ := Bool.and_eq_true_iff.mp hw
    exact execGanderElement_goesOn (of_decide_eq_true hd) (of_decide_eq_true hs) s
  case permitRequestReceive => exact execPermitRequestReceive_goesOn _ s
  case permitAnswerReceive => exact execPermitAnswerReceive_goesOn _ _ _ s
  case flitReceive => exact execFlitReceive_goesOn (of_decide_eq_true hw) _ s
  case replayRequest => exact execReplayRequest_goesOn (of_decide_eq_true hw) _ s
  case timeBeacon => exact execTimeBeacon_goesOn (of_decide_eq_true hw) _ _ s
  case linkTrainingDone => exact execLinkTrainingDone_goesOn (of_decide_eq_true hw) _ _ _ s
  case schedSend => exact execSchedSend_goesOn _ _ s
  case schedDeadline => exact execSchedDeadline_goesOn _ _ s
  case schedUnclaimed => exact execSchedUnclaimed_goesOn (of_decide_eq_true hw) _ s
  case collStep => exact execCollStep_goesOn _ _ _ s
  case contextCreate => exact execContextCreate_goesOn _ _ s
  case contextDestroy => exact execContextDestroy_goesOn _ s
  case contextDestroyed => exact execContextDestroyed_goesOn _ s
  case preempt => exact execPreempt_goesOn _ s
  case hostResume => exact execHostResume_goesOn _ _ s
  case hostAbort => exact execHostAbort_goesOn _ _ s
  case kload => exact execKload_goesOn _ _ s
  case klaunch => exact execKlaunch_goesOn _ _ s
  case kunload => exact execKunload_goesOn _ s
  case qpush => exact execQpush_goesOn _ _ _ s
  case dspcfg => exact execDspcfg_goesOn _ _ _ _ s
  case ttw => exact execTtw_goesOn _ _ _ _ s
  case tsplit => exact execTsplit_goesOn _ _ s
  case dswap => exact execDswap_goesOn _ s
  case mgmtPload => exact execMgmtPload_goesOn _ _ _ s
  case poolcfg => exact execPoolcfg_goesOn _ _ s
  case lenable => exact execLenable_goesOn _ s
  case ldisable => exact execLdisable_goesOn _ s
  case lclr => exact execLclr_goesOn _ s
  case collcfg => exact execCollcfg_goesOn _ _ _ s
  case pmcfg => exact execPmcfg_goesOn _ _ s
  case preset => exact execPreset_goesOn _ s
  case pwrcap => exact execPwrcap_goesOn _ _ s
  case attest => exact execAttest_goesOn _ s
  case fwload => exact execFwload_goesOn _ _ s
  case mrd => exact execMrd_goesOn _ _ _ _ s
  case mwr => exact execMwr_goesOn _ _ _ _ s
  case frheadWrite => exact execFrheadWrite_goesOn _ _ _ _ s
  case clusterStart => exact execClusterStart_goesOn (of_decide_eq_true hw) s
  case selftestDone => exact execSelftestDone_goesOn (of_decide_eq_true hw) _ s
  case hbmTrainingDone => exact execHbmTrainingDone_goesOn (of_decide_eq_true hw) _ s
  case partitionCreate => exact execPartitionCreate_goesOn _ s
  case tensorDescriptorWrite => exact execTensorDescriptorWrite_goesOn _ _ _ s
  case permitReturnReceive => exact execPermitReturnReceive_goesOn _ s
  case remoteBwaitAnswer => exact execRemoteBwaitAnswer_goesOn _ _ s
  case overlayRegionReload => exact execOverlayRegionReload_goesOn _ s
  all_goals exact Bool.noConfusion hm

/-- A step with no agenda, or with a turn that is `Turn.ok` next, goes on. -/
theorem step_goesOn {s : State} (h : s.safe = true) : GoesOn (step s) := by
  unfold step
  unfold State.safe at h
  split at h
  case h_1 ha => rw [ha]; exact goesOn_next _
  case h_2 t rest ha =>
    rw [ha]
    cases t with
    | core c => exact goesOn_ite (fun _ => goesOn_next _) (fun hc => absurd (of_decide_eq_true h) hc)
    | event c i =>
      obtain ⟨hc, hw⟩ := Bool.and_eq_true_iff.mp h
      refine goesOn_ite (fun _ => goesOn_ite (fun _ => goesOn_next _) fun hm => ?_) (fun hn => absurd (of_decide_eq_true hc) hn)
      exact exec_goesOn hw (Bool.eq_false_iff.mpr hm) _

/-- Settles O9: a safe state's next turn names a core and units that the part has, and no meaning refuses or stops there. -/
theorem stepsGoOn : Obligations.StepsGoOn := fun _ h => step_goesOn h

end Sys2Proof.Machine
end

section
/-! SUPPORT. Bytes and fields: bytes cut and joined as numbers, a field of a packed record, the routing word of a packet, the bits of a
bitmap. -/

namespace Sys2Proof.Machine

/-! ### Bytes as numbers (R6) -/

theorem natLE_append (a b : List Byte) : natLE (a ++ b) = natLE a + 256 ^ a.length * natLE b := by
  induction a with
  | nil => simp [natLE]
  | cons x a ih => rw [List.cons_append, natLE, natLE, ih, List.length_cons, Nat.pow_succ, Nat.mul_add, ← Nat.mul_assoc,
    Nat.mul_comm 256 (256 ^ _), Nat.add_assoc]

theorem natLE_lt (a : List Byte) : natLE a < 256 ^ a.length := by
  induction a with
  | nil => simp [natLE]
  | cons x a ih =>
    rw [natLE, List.length_cons, Nat.pow_succ]
    have := x.isLt
    omega

/-- Bytes say no more than their number and how many they are. -/
theorem natLE_injective {a b : List Byte} (hl : a.length = b.length) (h : natLE a = natLE b) : a = b := by
  induction a generalizing b with
  | nil => exact (List.eq_nil_of_length_eq_zero hl.symm).symm
  | cons x a ih =>
    cases b with
    | nil => simp at hl
    | cons y b =>
      have hx := x.isLt
      have hy := y.isLt
      simp only [natLE] at h
      rw [BitVec.eq_of_toNat_eq (show x.toNat = y.toNat by omega), ih (by simpa using hl) (by omega)]

theorem bytesLE_append (m n v : Nat) : bytesLE (m + n) v = bytesLE m v ++ bytesLE n (v / 256 ^ m) := by
  induction m generalizing v with
  | zero => simp [bytesLE]
  | succ m ih =>
    rw [show m + 1 + n = m + n + 1 by omega, bytesLE, bytesLE, ih, Nat.div_div_eq_div_mul, Nat.pow_succ', List.cons_append]

theorem bytesLE_congr {n v w : Nat} (h : v % 256 ^ n = w % 256 ^ n) : bytesLE n v = bytesLE n w :=
  natLE_injective (by simp) (by rw [natLE_bytesLE, natLE_bytesLE, h])

theorem natLE_drop (k : Nat) (a : List Byte) : natLE (a.drop k) = natLE a / 256 ^ k := by
  by_cases hk : k ≤ a.length
  · have h := natLE_append (a.take k) (a.drop k)
    rw [List.take_append_drop, List.length_take, Nat.min_eq_left hk] at h
    have hlt := natLE_lt (a.take k)
    rw [List.length_take, Nat.min_eq_left hk] at hlt
    rw [h, Nat.add_mul_div_left _ _ (Nat.pow_pos (by decide)), Nat.div_eq_of_lt hlt, Nat.zero_add]
  · have hlt : natLE a < 256 ^ k := Nat.lt_of_lt_of_le (natLE_lt a) (Nat.pow_le_pow_right (by decide) (by omega))
    rw [List.drop_eq_nil_of_le (by omega), Nat.div_eq_of_lt hlt]
    rfl

theorem natLE_take (k : Nat) (a : List Byte) : natLE (a.take k) = natLE a % 256 ^ k := by
  by_cases hk : k ≤ a.length
  · have h := natLE_append (a.take k) (a.drop k)
    rw [List.take_append_drop, List.length_take, Nat.min_eq_left hk] at h
    have hlt := natLE_lt (a.take k)
    rw [List.length_take, Nat.min_eq_left hk] at hlt
    rw [h, Nat.add_mul_mod_self_left, Nat.mod_eq_of_lt hlt]
  · have hlt : natLE a < 256 ^ k := Nat.lt_of_lt_of_le (natLE_lt a) (Nat.pow_le_pow_right (by decide) (by omega))
    rw [List.take_of_length_le (by omega), Nat.mod_eq_of_lt hlt]

theorem length_wordsBytes (ws : List Nat) : (wordsBytes ws).length = 8 * ws.length := by
  induction ws with
  | nil => rfl
  | cons w ws ih => rw [wordsBytes, List.flatMap_cons, List.length_append, length_bytesLE, ← wordsBytes, ih, List.length_cons]; omega

/-! ### Fields -/

/-- A field of a word cut from a number is that field of the number. -/
theorem fld_ofNat {w lo n : Nat} (x : Nat) (h : lo + n ≤ w) : fld (BitVec.ofNat w x) lo n = x / 2 ^ lo % 2 ^ n := by
  rw [fld_eq, BitVec.toNat_ofNat]
  apply Nat.eq_of_testBit_eq
  intro i
  simp only [Nat.testBit_mod_two_pow, Nat.testBit_div_two_pow]
  by_cases hi : i < n
  · simp [hi, show i + lo < w by omega]
  · simp [hi]

/-- A field of whole bytes of a 512-bit block is those bytes. -/
theorem fld_block (bs : List Byte) (k m : Nat) (h : k + m ≤ 64) :
    fld (BitVec.ofNat 512 (natLE bs)) (8 * k) (8 * m) = natLE ((bs.drop k).take m) := by
  rw [fld_ofNat _ (by omega), natLE_take, natLE_drop, Nat.pow_mul, Nat.pow_mul]

theorem pack_foldl (fs : List (Nat × Nat × Nat)) (a : Nat) :
    fs.foldl (fun acc f => acc + (f.2.2 % 2 ^ f.2.1) * 2 ^ f.1) a = a + pack fs := by
  induction fs generalizing a with
  | nil => rfl
  | cons f fs ih =>
    simp only [pack, List.foldl_cons] at ih ⊢
    rw [ih, ih (0 + _)]
    omega

theorem pack_append (fs gs : List (Nat × Nat × Nat)) : pack (fs ++ gs) = pack fs + pack gs := by
  rw [pack, List.foldl_append]
  exact pack_foldl gs _

/-- The bits of a word, packed one by one from bit 0 on, are its low part. -/
theorem pack_bits {w : Nat} (x : BitVec w) (n : Nat) : pack ((List.range n).map (fun j => (j, 1, b2n (x.getLsbD j)))) = x.toNat % 2 ^ n := by
  induction n with
  | zero => rw [Nat.pow_zero, Nat.mod_one]; rfl
  | succ n ih =>
    have hbit : b2n (x.getLsbD n) = x.toNat / 2 ^ n % 2 := by
      rw [BitVec.getLsbD, Nat.testBit_eq_decide_div_mod_eq, b2n]
      split <;> rename_i h <;> simp only [decide_eq_true_eq] at h <;> omega
    rw [List.range_succ, List.map_append, pack_append, ih, Nat.mod_pow_succ, ← hbit]
    simp only [List.map_cons, List.map_nil, pack, List.foldl_cons, List.foldl_nil, Nat.zero_add, Nat.pow_one]
    rw [Nat.mod_eq_of_lt (b2n_lt _), Nat.mul_comm]

/-- A layout whose fields stand one above the other, from bit `lo` on. -/
def Ascending : Nat → List (Nat × Nat × Nat) → Prop
  | _, [] => True
  | lo, f :: fs => lo ≤ f.1 ∧ Ascending (f.1 + f.2.1) fs

theorem pack_cons (f : Nat × Nat × Nat) (fs : List (Nat × Nat × Nat)) : pack (f :: fs) = f.2.2 % 2 ^ f.2.1 * 2 ^ f.1 + pack fs := by
  rw [← List.singleton_append, pack_append]
  simp [pack]

theorem Ascending.dvd {lo : Nat} {fs : List (Nat × Nat × Nat)} (h : Ascending lo fs) : 2 ^ lo ∣ pack fs := by
  induction fs generalizing lo with
  | nil => exact Nat.dvd_zero _
  | cons f fs ih =>
    rw [pack_cons]
    have hstep : 2 ^ lo ∣ 2 ^ (f.1 + f.2.1) := Nat.pow_dvd_pow 2 (Nat.le_trans h.1 (Nat.le_add_right _ _))
    exact Nat.dvd_add (Nat.dvd_mul_left_of_dvd (Nat.pow_dvd_pow 2 h.1) _) (Nat.dvd_trans hstep (ih h.2))

theorem Ascending.le_of_mem {lo : Nat} {fs : List (Nat × Nat × Nat)} (h : Ascending lo fs) {f : Nat × Nat × Nat} (hf : f ∈ fs) :
    lo ≤ f.1 := by
  induction fs generalizing lo with
  | nil => cases hf
  | cons g fs ih =>
    rcases List.mem_cons.mp hf with rfl | hf
    · exact h.1
    · have := ih h.2 hf
      have := h.1
      omega

/-- Each field of a packed record holds its value, cut to the field. -/
theorem field_pack {lo : Nat} {fs : List (Nat × Nat × Nat)} (h : Ascending lo fs) {f : Nat × Nat × Nat} (hf : f ∈ fs) :
    pack fs / 2 ^ f.1 % 2 ^ f.2.1 = f.2.2 % 2 ^ f.2.1 := by
  induction fs generalizing lo with
  | nil => cases hf
  | cons g fs ih =>
    obtain ⟨c, hc⟩ := h.2.dvd
    rw [pack_cons]
    rcases List.mem_cons.mp hf with rfl | hf
    · rw [hc, Nat.pow_add, Nat.mul_assoc, Nat.add_mul_div_left _ _ (Nat.two_pow_pos _), Nat.mul_div_cancel _ (Nat.two_pow_pos _),
        Nat.add_mul_mod_self_left, Nat.mod_mod]
    · obtain ⟨k, hk⟩ := Nat.exists_eq_add_of_le (h.2.le_of_mem hf)
      have hlow : g.2.2 % 2 ^ g.2.1 * 2 ^ g.1 < 2 ^ (g.1 + g.2.1) := by
        rw [Nat.pow_add, Nat.mul_comm]
        exact Nat.mul_lt_mul_of_pos_left (Nat.mod_lt _ (Nat.two_pow_pos _)) (Nat.two_pow_pos _)
      rw [← ih h.2 hf, hk, Nat.pow_add, ← Nat.div_div_eq_div_mul, ← Nat.div_div_eq_div_mul, hc, Nat.add_mul_div_left _ _ (Nat.two_pow_pos _),
        Nat.div_eq_of_lt hlow, Nat.zero_add, Nat.mul_div_cancel_left _ (Nat.two_pow_pos _)]

/-! ### Routing words (R337, R338) -/

/-- The check code of a header leaves its other fields as they are. -/
theorem fld_withEcc (w : Nat) {lo n : Nat} (h : lo + n ≤ 120) : fld (withEcc w) lo n = w / 2 ^ lo % 2 ^ n := by
  rw [withEcc, fld_ofNat _ (by omega)]
  apply Nat.eq_of_testBit_eq
  intro i
  simp only [Nat.testBit_mod_two_pow, Nat.testBit_div_two_pow]
  by_cases hi : i < n
  · rw [Nat.mul_comm, Nat.add_comm, Nat.testBit_two_pow_mul_add _ (Nat.mod_lt _ (Nat.two_pow_pos _)), if_pos (by omega),
      Nat.testBit_mod_two_pow, decide_eq_true (show i + lo < 120 by omega), Bool.true_and]
  · simp [hi]

/-- The fields of a routing word. -/
def State.routingFields (s : State) (r : Route) : List (Nat × Nat × Nat) :=
  [(0, 11, r.dest), (11, 11, s.pkg), (22, 6, r.tenant), (28, 10, r.ctx), (38, 2, r.cls), (40, 4, r.kind), (44, 5, r.len), (49, 12, r.tag),
    (61, 1, b2n r.sched), (62, 16, r.opid)]

theorem fld_routing (s : State) (r : Route) {lo n v : Nat} (hf : (lo, n, v) ∈ s.routingFields r) (h : lo + n ≤ 120) :
    fld (s.routing r) lo n = v % 2 ^ n :=
  (fld_withEcc _ h).trans (field_pack (lo := 0) (by simp [State.routingFields, Ascending]) hf)

/-! ### Bitmaps (R142) -/

/-- Values written at keys from k on, in order. -/
theorem sget_foldl_range {α : Type} [DecidableEq α] (d : α) (m : List (Nat × α)) (k n : Nat) (f : Nat → α) (i : Nat) :
    sget d (((List.range n).map (fun j => (k + j, f j))).foldl (fun m e => sset d m e.1 e.2) m) i =
      if k ≤ i ∧ i < k + n then f (i - k) else sget d m i := by
  induction n with
  | zero => rw [if_neg (by omega)]; rfl
  | succ n ih =>
    rw [List.range_succ, List.map_append, List.foldl_append]
    simp only [List.map_cons, List.map_nil, List.foldl_cons, List.foldl_nil, sget_sset, ih]
    by_cases h : i = k + n
    · subst h; rw [if_pos rfl, if_pos (by omega), Nat.add_sub_cancel_left]
    · rw [if_neg h]; congr 1; exact propext (by omega)

/-- Bit i of bytes, lowest first. -/
def bitOf (bs : List Byte) (i : Nat) : Bool := (bs.getD (i / 8) 0).getLsbD (i % 8)

theorem bitEntries_eq (k : Nat) (bs : List Byte) : bitEntries k bs = (List.range (8 * bs.length)).map (fun i => (k + i, bitOf bs i)) := by
  induction bs generalizing k with
  | nil => rfl
  | cons b bs ih =>
    have hfirst : bitEntries k (b :: bs) = (List.range 8).map (fun j => (k + j, b.getLsbD j)) ++ bitEntries (k + 8) bs := by
      simp only [bitEntries, List.zipIdx_cons, List.zipIdx_succ, List.flatMap_cons, List.flatMap_map, Nat.mul_zero, Nat.zero_add, Nat.mul_add,
        Nat.mul_one, Nat.add_assoc, Nat.add_comm 8]
    have hlow : (List.range 8).map (fun j => (k + j, b.getLsbD j)) = (List.range 8).map (fun i => (k + i, bitOf (b :: bs) i)) := by
      refine List.map_congr_left fun j hj => ?_
      have hj := List.mem_range.mp hj
      rw [bitOf, show j / 8 = 0 by omega, show j % 8 = j by omega, List.getD_cons_zero]
    have hhigh : (List.range (8 * bs.length)).map (fun i => (k + 8 + i, bitOf bs i)) =
        (List.range (8 * bs.length)).map (fun i => (k + (8 + i), bitOf (b :: bs) (8 + i))) := by
      refine List.map_congr_left fun i _ => ?_
      rw [bitOf, bitOf, show (8 + i) / 8 = i / 8 + 1 by omega, show (8 + i) % 8 = i % 8 by omega, List.getD_cons_succ, Nat.add_assoc]
    rw [hfirst, ih, hlow, hhigh, List.length_cons, show 8 * (bs.length + 1) = 8 + 8 * bs.length by omega, List.range_add, List.map_append,
      List.map_map]
    rfl

end Sys2Proof.Machine
end

section
/-! SUPPORT. What management commands do to the state: records by number, ports, the answer of a command to the window and by packet, who may
give one. -/

namespace Sys2Proof.Machine

/-! ### Contexts and links by number -/

theorem State.onCtx_eq {s : State} {cid : Nat} {c : Ctx} (h : alook s.ctxs cid = some c) (f : Ctx → Ctx) :
    s.onCtx cid f = { s with ctxs := aput s.ctxs cid (f c) } := by simp [State.onCtx, h]

theorem State.ctx_eq {s : State} {cid : Nat} {c : Ctx} (h : alook s.ctxs cid = some c) : s.ctx cid = c := by simp [State.ctx, h]

theorem State.alook_onCtx {s : State} {cid : Nat} {c : Ctx} (h : alook s.ctxs cid = some c) (f : Ctx → Ctx) :
    alook (s.onCtx cid f).ctxs cid = some (f c) := by rw [State.onCtx_eq h]; exact alook_aput_same _ _ _

theorem State.ctx_onCtx {s : State} {cid : Nat} {c : Ctx} (h : alook s.ctxs cid = some c) (f : Ctx → Ctx) :
    (s.onCtx cid f).ctx cid = f c := State.ctx_eq (State.alook_onCtx h f)

@[simp] theorem State.ctx_status (s : State) (m : Option MStatus) (cid : Nat) : State.ctx { s with status := m } cid = s.ctx cid := rfl

@[simp] theorem State.onCtx_mgmtIn (s : State) (cid : Nat) (f : Ctx → Ctx) : (s.onCtx cid f).mgmtIn = s.mgmtIn := by
  unfold State.onCtx; split <;> rfl
@[simp] theorem State.onCtx_links (s : State) (cid : Nat) (f : Ctx → Ctx) : (s.onCtx cid f).links = s.links := by
  unfold State.onCtx; split <;> rfl
@[simp] theorem State.onCtx_sent (s : State) (cid : Nat) (f : Ctx → Ctx) : (s.onCtx cid f).sent = s.sent := by
  unfold State.onCtx; split <;> rfl

/-- With no record that waits, nothing is tried again (R107). -/
theorem State.retryRecords_of_nil {s : State} {cid : Nat} (h : (s.ctx cid).frwait = []) : s.retryRecords cid = s := by
  simp [State.retryRecords, h, State.flushRecords]

@[simp] theorem State.setLink_orphans (s : State) (l : Nat) (f : Link → Link) : (s.setLink l f).orphans = s.orphans := rfl

theorem State.link_setLink_same (s : State) (l : Nat) (f : Link → Link) : (s.setLink l f).link l = f (s.link l) := by
  simp [State.link, State.setLink, alook_aput_same]

theorem State.link_setLink_other (s : State) {l x : Nat} (h : x ≠ l) (f : Link → Link) : (s.setLink l f).link x = s.link x := by
  simp [State.link, State.setLink, alook_aput_other _ h]

@[simp] theorem State.link_status (s : State) (m : Option MStatus) (l : Nat) : State.link { s with status := m } l = s.link l := rfl

/-- A link is what the list of links holds. -/
theorem State.link_congr {s t : State} (h : t.links = s.links) (l : Nat) : t.link l = s.link l := by rw [State.link, State.link, h]

/-! ### What a packet that leaves changes -/

/-- Sending changes the ports and what has left on them, and nothing else. -/
theorem State.sendOn_eq (s : State) (l : Nat) (p : Packet) :
    s.sendOn l p = { s with links := (s.sendOn l p).links, sent := (s.sendOn l p).sent } := by
  unfold State.sendOn
  dsimp only
  split <;> rfl

/-- And it looks at nothing else. -/
theorem State.sendOn_congr {s t : State} (hl : t.links = s.links) (hs : t.sent = s.sent) (l : Nat) (p : Packet) :
    (t.sendOn l p).links = (s.sendOn l p).links ∧ (t.sendOn l p).sent = (s.sendOn l p).sent := by
  unfold State.sendOn
  rw [State.link_congr hl]
  dsimp only
  split <;> simp [State.setLink, State.link_congr hl, hl, hs]

/-- A packet of the packet network, sent from a state with the ports of `s`, goes out. -/
theorem State.sendsOut_of {s t v : State} {p : Packet} {P : Packet → Prop} (hl : t.links = s.links) (hs : t.sent = s.sent)
    (hvl : v.links = (t.sendPacket p).links) (hvs : v.sent = (t.sendPacket p).sent) (hp : P p) : s.SendsOut v P := by
  obtain ⟨h1, h2⟩ := State.sendOn_congr hl hs (Config.routeLink (fld p.rw 0 11) % Config.links) p
  exact ⟨_, p, Nat.mod_lt _ (by decide), hp, hvl.trans h1, hvs.trans h2⟩

/-! ### The window with no SYS packet waiting (R340, R355) -/

/-- A command is refused, and changes nothing but the status. -/
def Refuses (i : Instr) (s : State) : Prop := exec i s = .next { s with status := some .refused }

/-- A command is DONE, leaves memory as it was, and has its effect. -/
def Does (i : Instr) (s : State) (p : State → Prop) : Prop := Turns i s (fun v => v.status = some .done ∧ v.mem = s.mem ∧ p v)

theorem State.answer_idle {s : State} (hq : s.mgmtIn = []) (m : MStatus) (data : List Byte) :
    s.answer m data = .next { s with status := some m } := by
  simp only [State.answer, State.answerTo, State.respond, hq, List.head?_nil, List.tail_nil]

theorem State.issuerNet_idle {s : State} (hq : s.mgmtIn = []) : s.issuerNet = 63 := by simp [State.issuerNet, hq]

theorem State.command1_serving {s : State} (hs : s.serving = true) (k : State → Host.Outcome State Fault Refusal) :
    s.command1 k = k s := if_pos hs

/-- The fabric owner may give a command that acts on the package or the fabric as a whole. -/
theorem State.commandOwner_owner {s : State} (hs : s.serving = true) (h : s.issuerNet = 63) (k : State → Host.Outcome State Fault Refusal) :
    s.commandOwner k = k s := (State.command1_serving hs _).trans (if_pos h)

theorem State.commandOwner_other {s : State} (hs : s.serving = true) (h : s.issuerNet ≠ 63) (k : State → Host.Outcome State Fault Refusal) :
    s.commandOwner k = s.answer .refused := (State.command1_serving hs _).trans (if_neg h)

theorem State.commandOf_reaches {s : State} (hs : s.serving = true) {tenant : Option Nat} (h : tenant.all s.reaches = true)
    (k : State → Host.Outcome State Fault Refusal) : s.commandOf tenant k = k s := (State.command1_serving hs _).trans (if_pos h)

/-- What the window itself takes comes from the fabric owner, who reaches every tenant. -/
theorem State.commandOf_idle {s : State} (hs : s.serving = true) (hq : s.mgmtIn = []) (tenant : Option Nat)
    (k : State → Host.Outcome State Fault Refusal) : s.commandOf tenant k = k s :=
  State.commandOf_reaches hs (by cases tenant <;> simp [State.reaches, State.issuerNet_idle hq]) k

theorem State.commandOwner_idle {s : State} (hs : s.serving = true) (hq : s.mgmtIn = []) (k : State → Host.Outcome State Fault Refusal) :
    s.commandOwner k = k s := State.commandOwner_owner hs (State.issuerNet_idle hq) k

theorem refuses_of {i : Instr} {s : State} (hq : s.mgmtIn = []) (h : exec i s = s.answer .refused) : Refuses i s :=
  h.trans (State.answer_idle hq _ _)

theorem does_of {i : Instr} {s t : State} {p : State → Prop} (h : exec i s = t.answer .done) (hq : t.mgmtIn = []) (hm : t.mem = s.mem)
    (hp : p { t with status := some .done }) : Does i s p :=
  ⟨_, h.trans (State.answer_idle hq _ _), rfl, hm, hp⟩

/-! ### A command that a SYS packet brought (R340) -/

/-- The response to a command: its status and what it has read, to the node that gave it, class 3, kind 5, with its OPID. -/
structure Response (q : MgmtReq) (m : MStatus) (data : List Byte) (p : Packet) : Prop where
  info : p.info = [m.num]
  data : p.data = data
  dest : fld p.rw 0 11 = q.srce % 2 ^ 11
  tenant : fld p.rw 22 6 = q.net % 2 ^ 6
  cls : fld p.rw 38 2 = 3
  kind : fld p.rw 40 4 = 5
  opid : fld p.rw 62 16 = q.opid % 2 ^ 16

/-- A response of up to 1,024 bytes is one packet. -/
theorem State.respond_one (s : State) (q : MgmtReq) (m : MStatus) {data : List Byte} (h : data.length ≤ 1024) :
    ∃ p, s.respond (some q) m data = s.sendPacket p ∧ Response q m data p := by
  have hn : max 1 (cdiv data.length 1024) = 1 := by unfold cdiv; omega
  refine ⟨_, by simp only [State.respond, hn]; rfl, ?_⟩
  have field := fun (lo n v : Nat) hf h => fld_routing s
    { dest := q.srce, tenant := q.net, ctx := 0, cls := 3, kind := 5, len := cdiv ((data.drop (1024 * 0)).take 1024).length 64, opid := q.opid }
    (lo := lo) (n := n) (v := v) hf h
  exact
    { info := rfl
      data := List.take_of_length_le h
      dest := field 0 11 q.srce (by simp [State.routingFields]) (by decide)
      tenant := field 22 6 q.net (by simp [State.routingFields]) (by decide)
      cls := field 38 2 3 (by simp [State.routingFields]) (by decide)
      kind := field 40 4 5 (by simp [State.routingFields]) (by decide)
      opid := field 62 16 q.opid (by simp [State.routingFields]) (by decide) }

/-- The answer to the oldest command that waits leaves as a packet, and only the ports, the status and the queue of commands change. -/
theorem State.answer_packet {s t : State} {q : MgmtReq} {rest : List MgmtReq} (hq : t.mgmtIn = q :: rest) (hl : t.links = s.links)
    (hs : t.sent = s.sent) (m : MStatus) {data : List Byte} (hd : data.length ≤ 1024) :
    ∃ links sent, t.answer m data = .next { t with mgmtIn := rest, status := some m, links := links, sent := sent } ∧
      ∀ v : State, v.links = links → v.sent = sent → s.SendsOut v (Response q m data) := by
  obtain ⟨p, hp, ha⟩ := State.respond_one { t with mgmtIn := rest, status := some m } q m hd
  generalize hu : ({ t with mgmtIn := rest, status := some m } : State) = u at hp
  have hul : u.links = s.links := by rw [← hl, ← hu]
  have hus : u.sent = s.sent := by rw [← hs, ← hu]
  refine ⟨(u.sendPacket p).links, (u.sendPacket p).sent, ?_, fun v h1 h2 => State.sendsOut_of hul hus h1 h2 ha⟩
  rw [State.answer, State.answerTo, hq]
  simp only [List.head?_cons, List.tail_cons, hu, hp]
  rw [State.sendPacket, State.sendOn_eq, ← hu]

theorem State.SendsOut.imp {s v : State} {P Q : Packet → Prop} (h : s.SendsOut v P) (hi : ∀ p, P p → Q p) : s.SendsOut v Q := by
  obtain ⟨l, p, hl, hp, h1, h2⟩ := h
  exact ⟨l, p, hl, hi p hp, h1, h2⟩

theorem State.issuerNet_packet {s : State} {q : MgmtReq} {rest : List MgmtReq} (hq : s.mgmtIn = q :: rest) : s.issuerNet = q.net := by
  simp [State.issuerNet, hq]

end Sys2Proof.Machine
end

section
/-! SUPPORT. The management window (R361): who reaches a space, what a read and a write of it answer, and what a write of each writable space
changes. -/

namespace Sys2Proof.Machine

/-! ### Who reaches a space (R340) -/

theorem State.mayReach_iff (s : State) (net : Nat) (sp : Space) :
    s.mayReach net sp = true ↔ net = 63 ∨ ∃ t, s.spaceTenant sp = some t ∧ s.fabTenant t = net := by
  unfold State.mayReach
  cases s.spaceTenant sp <;> simp

theorem State.mayReach_owner (s : State) (sp : Space) : s.mayReach 63 sp = true := (s.mayReach_iff 63 sp).mpr (.inl rfl)

/-- The fabric owner's command reaches what its network reaches. -/
theorem State.windowOpen_owner {s : State} (h : s.issuerNet = 63) (net : Nat) (sp : Space) : s.windowOpen net sp = s.mayReach net sp := by
  rw [State.windowOpen, h, s.mayReach_owner, Bool.and_true]

/-- The fabric owner sees the entries of a tile table as they are (R140). -/
theorem State.seenBy_owner (s : State) (sp : Space) : s.seenBy 63 sp = sp := by cases sp <;> rfl

theorem State.seenBy_tileEntry_plain {s : State} {tid : Nat} {t : Tensor} (ht : s.tensor tid = some t) (page : Nat) {net : Nat}
    (h : net = 63 ∨ t.tenant ∉ s.virt) : s.seenBy net (.tileEntry tid page) = .tileEntry tid page := by
  refine if_neg ?_
  rcases h with h | h <;> simp [State.tenantOfT, ht, h]

theorem State.seenBy_tileEntry_guest {s : State} {tid : Nat} {t : Tensor} (ht : s.tensor tid = some t) (page : Nat) {net : Nat}
    (hn : net ≠ 63) (hv : t.tenant ∈ s.virt) : s.seenBy net (.tileEntry tid page) = .guestEntry tid page :=
  if_pos (by simp [State.tenantOfT, ht, hn, hv])

/-- What is no bitmap of dirty frames is not seen as one. -/
theorem State.seenBy_not_frozen (s : State) (net : Nat) {sp : Space} (h : ∀ lp, sp ≠ .frozenBits lp) (lp : Bool) :
    s.seenBy net sp ≠ .frozenBits lp := by
  unfold State.seenBy
  split
  · split <;> exact fun h => Space.noConfusion h
  · exact h lp

/-! ### Reads and writes of a space -/

theorem State.windowRead_bytes (s : State) {sp : Space} (h : ∀ lp, sp ≠ .frozenBits lp) (off len : Nat) :
    s.windowRead sp off len = (s.spaceBytes sp).bind (fun bs => if off + len ≤ bs.length then some ((bs.drop off).take len) else none) := by
  unfold State.windowRead
  split
  · exact absurd rfl (h _)
  · rfl

/-- A write past the end of a space is refused. -/
theorem State.windowWrite_past (s : State) {sp : Space} (h : ∀ lp, sp ≠ .frozenBits lp) {bs : List Byte} (hb : s.spaceBytes sp = some bs)
    {off : Nat} {data : List Byte} (hp : bs.length < off + data.length) : s.windowWrite sp off data = none := by
  unfold State.windowWrite
  split
  · exact absurd rfl (h _)
  · rw [hb]; exact if_pos hp

/-- A write inside a space lays its bytes over those that it holds. -/
theorem State.windowWrite_inside (s : State) {sp : Space} (h : ∀ lp, sp ≠ .frozenBits lp) (hc : spaceClears sp = false) {bs : List Byte}
    (hb : s.spaceBytes sp = some bs) {off : Nat} {data : List Byte} (hp : off + data.length ≤ bs.length) :
    s.windowWrite sp off data = s.spaceWrite sp off data.length (bs.take off ++ data ++ bs.drop (off + data.length)) := by
  unfold State.windowWrite
  split
  · exact absurd rfl (h _)
  · rw [hb, hc]; exact if_neg (Nat.not_lt.mpr hp)

/-- A write of a whole space. -/
theorem State.windowWrite_whole (s : State) {sp : Space} (h : ∀ lp, sp ≠ .frozenBits lp) (hc : spaceClears sp = false) {bs : List Byte}
    (hb : s.spaceBytes sp = some bs) {data : List Byte} (hl : bs.length = data.length) :
    s.windowWrite sp 0 data = s.spaceWrite sp 0 data.length data := by
  rw [s.windowWrite_inside h hc hb (by omega), Nat.zero_add, ← hl, List.drop_length]
  simp

theorem State.guestWrite_owner (s : State) (sp : Space) (off : Nat) (data : List Byte) : s.guestWrite 63 sp off data = none := by
  cases sp <;> rfl

section commands
variable {s : State} (hs : s.serving = true) (hq : s.mgmtIn = [])
include hs hq

theorem exec_mrd_idle {net : Nat} {sp : Space} {off len : Nat} {bs : List Byte} (hr : s.mayReach net sp = true) (h0 : 0 < len)
    (h64 : len ≤ 64) (hb : s.windowRead (s.seenBy net sp) off len = some bs) :
    exec (.mrd net sp off len) s = .next { s with out := bs, status := some .done } := by
  show execMrd net sp off len s = _
  rw [execMrd, State.command1_serving hs, if_neg (by simp [State.windowOpen_owner (State.issuerNet_idle hq), hr]; omega), hb]
  exact State.answer_idle (s := { s with out := bs }) hq _ _

theorem refuses_mrd {net : Nat} {sp : Space} {off len : Nat}
    (h : len = 0 ∨ 64 < len ∨ ¬ s.mayReach net sp = true ∨ s.windowRead (s.seenBy net sp) off len = none) : Refuses (.mrd net sp off len) s := by
  refine refuses_of hq ?_
  show execMrd net sp off len s = _
  rw [execMrd, State.command1_serving hs, State.windowOpen_owner (State.issuerNet_idle hq)]
  split
  · rfl
  · rename_i hn
    have hnone : s.windowRead (s.seenBy net sp) off len = none := by
      simp only [not_or, Bool.not_eq_true', Bool.not_eq_false] at hn
      rcases h with h | h | h | h
      · exact absurd h hn.1
      · exact absurd h hn.2.1
      · exact absurd hn.2.2 h
      · exact h
    rw [hnone]

/-- What a write by the fabric owner makes of the state is what the space makes of it. -/
theorem exec_mwr_owner {sp : Space} {off : Nat} {data : List Byte} {t : State} (h0 : 0 < data.length) (h64 : data.length ≤ 64)
    (hw : s.windowWrite sp off data = some t) : exec (.mwr 63 sp off data) s = t.answer .done := by
  have hne : data.isEmpty = false := by cases data <;> simp_all
  show execMwr 63 sp off data s = _
  rw [execMwr, State.command1_serving hs, State.windowOpen_owner (State.issuerNet_idle hq), State.mayReach_owner, State.seenBy_owner,
    State.guestWrite_owner, hw, hne, if_neg (by simpa using h64)]

theorem refuses_mwr {sp : Space} {off : Nat} {data : List Byte} (h : data = [] ∨ 64 < data.length ∨ s.windowWrite sp off data = none) :
    Refuses (.mwr 63 sp off data) s := by
  refine refuses_of hq ?_
  show execMwr 63 sp off data s = _
  rw [execMwr, State.command1_serving hs, State.seenBy_owner, State.guestWrite_owner]
  split
  · rfl
  · rename_i hn
    have hnone : s.windowWrite sp off data = none := by
      simp only [not_or] at hn
      rcases h with h | h | h
      · exact absurd (by simp [h]) hn.1
      · exact absurd h hn.2.1
      · exact h
    rw [hnone]

/-- A write of a whole space, its bytes taken by `spaceWrite`. -/
theorem does_mwr_whole {sp : Space} {data bs : List Byte} {t : State} {p : State → Prop} (hf : ∀ lp, sp ≠ .frozenBits lp)
    (hc : spaceClears sp = false) (hb : s.spaceBytes sp = some bs) (hl : bs.length = data.length) (h0 : 0 < data.length)
    (h64 : data.length ≤ 64) (hw : s.spaceWrite sp 0 data.length data = some t) (ht : t.mgmtIn = s.mgmtIn) (hm : t.mem = s.mem)
    (hp : p { t with status := some .done }) : Does (.mwr 63 sp 0 data) s p :=
  does_of (exec_mwr_owner hs hq h0 h64 ((s.windowWrite_whole hf hc hb hl).trans hw)) (ht.trans hq) hm hp

end commands

/-! ### Context blocks (R95) -/

theorem Ctx.writeBlock_pendW (c : Ctx) (cid off n : Nat) (w : BitVec 512) {f : Nat × Nat} (hf : f ∈ lazyFields) (hlo : f.1 < 8 * (off + n))
    (hhi : 8 * off < f.1 + f.2) : (f.1, f.2, fld w f.1 f.2) ∈ (c.writeBlock cid off n w).pendW := by
  refine List.mem_append_right _ (List.mem_map.mpr ⟨f, List.mem_filter.mpr ⟨hf, ?_⟩, rfl⟩)
  simp [hlo, hhi]

theorem Ctx.writeBlock_quota (c : Ctx) (cid off n : Nat) (w : BitVec 512) :
    (c.writeBlock cid off n w).quota = if 128 < 8 * (off + n) ∧ 8 * off < 160 then fld w 128 32 else c.quota := by
  simp [Ctx.writeBlock]

theorem Ctx.writeBlock_frhead (c : Ctx) (cid off n : Nat) (w : BitVec 512) :
    (c.writeBlock cid off n w).frhead = if 192 < 8 * (off + n) ∧ 8 * off < 200 then fld w 192 8 else c.frhead := by
  simp [Ctx.writeBlock]

section commands
variable {s : State} (hs : s.serving = true) (hq : s.mgmtIn = [])
include hs hq

/-- QUOTA and FRHEAD take effect at once, PCAP waits for a dispatch, and fields that are RO stay (R95). -/
theorem does_mwr_ctxBlock {cid off : Nat} {data : List Byte} {c : Ctx} (hc : alook s.ctxs cid = some c) (hw : c.frwait = [])
    (h0 : 0 < data.length) (h64 : data.length ≤ 64) (hin : off + data.length ≤ 64) :
    let t := (bytesLE 64 (c.written cid).toNat).take off ++ data ++ (bytesLE 64 (c.written cid).toNat).drop (off + data.length)
    Does (.mwr 63 (.ctxBlock cid) off data) s (fun v =>
      (off < 20 → 16 < off + data.length → (v.ctx cid).quota = natLE ((t.drop 16).take 4)) ∧
      (off + data.length ≤ 16 ∨ 20 ≤ off → (v.ctx cid).quota = c.quota) ∧
      (off ≤ 24 → 24 < off + data.length → (v.ctx cid).frhead = natLE ((t.drop 24).take 1)) ∧
      (v.ctx cid).state = c.state ∧ (v.ctx cid).pcap = c.pcap ∧ (v.ctx cid).tenant = c.tenant ∧
      (off ≤ 2 → 2 < off + data.length → (16, 5, natLE ((t.drop 2).take 1) % 2 ^ 5) ∈ (v.ctx cid).pendW)) := by
  intro t
  generalize hx : c.writeBlock cid off data.length (BitVec.ofNat 512 (natLE t)) = x
  have hwr : s.windowWrite (.ctxBlock cid) off data = some (s.onCtx cid (fun _ => x)) := by
    have hb : s.spaceBytes (.ctxBlock cid) = some (bytesLE 64 (c.written cid).toNat) := by simp [State.spaceBytes, hc]
    rw [s.windowWrite_inside (fun _ => Space.noConfusion) rfl hb (by rw [length_bytesLE]; exact hin)]
    show some ((s.onCtx cid _).retryRecords cid) = _
    rw [State.retryRecords_of_nil (by rw [State.ctx_onCtx hc]; exact hw), State.onCtx_eq hc, State.onCtx_eq hc, ← hx]
  refine does_of (exec_mwr_owner hs hq h0 h64 hwr) (by rw [State.onCtx_mgmtIn, hq]) (State.onCtx_mem _ _ _) ?_
  simp only [State.ctx_status, State.ctx_onCtx hc]
  refine ⟨fun h1 h2 => ?_, fun h => ?_, fun h1 h2 => ?_, ?_, ?_, ?_, fun h1 h2 => ?_⟩
  · rw [← hx, Ctx.writeBlock_quota, if_pos (by omega), fld_block t 16 4 (by decide)]
  · rw [← hx, Ctx.writeBlock_quota, if_neg (by omega)]
  · rw [← hx, Ctx.writeBlock_frhead, if_pos (by omega), fld_block t 24 1 (by decide)]
  · rw [← hx]; rfl
  · rw [← hx]; rfl
  · rw [← hx]; rfl
  · have hp := Ctx.writeBlock_pendW c cid off data.length (BitVec.ofNat 512 (natLE t)) (f := (16, 5)) (by decide) (by simp only; omega)
      (by simp only; omega)
    have hf : fld (BitVec.ofNat 512 (natLE t)) 16 5 = natLE ((t.drop 2).take 1) % 2 ^ 5 := by
      rw [fld_ofNat _ (by decide), natLE_take, natLE_drop]
      omega
    rw [hf, hx] at hp
    exact hp

/-- A write of the breakpoints keeps the bits that an entry has (R110). -/
theorem does_mwr_breakpoints {cid : Nat} {data : List Byte} {c : Ctx} (hc : alook s.ctxs cid = some c) (hl : data.length = 64) :
    Does (.mwr 63 (.breakpoints cid) 0 data) s (fun v =>
      (v.ctx cid).bps = (List.range 8).map (fun i => (i, BitVec.ofNat 64 (breakWord (nfld (natLE data) (64 * i) 64)))) ∧
      (v.ctx cid).state = c.state) := by
  have hb : s.spaceBytes (.breakpoints cid) = some (wordsBytes ((List.range 8).map (fun i => breakWord ((alook c.bps i).getD 0).toNat))) := by
    simp only [State.spaceBytes, hc, Option.map_some]
  refine does_mwr_whole hs hq (fun _ => Space.noConfusion) rfl hb (by rw [length_wordsBytes, hl]; rfl) (by omega) (by omega) rfl
    (State.onCtx_mgmtIn _ _ _) (State.onCtx_mem _ _ _) ?_
  simp only [State.ctx_status, State.ctx_onCtx hc, true_and]

/-- FRHEAD, FRSEG and FRDEPTH together (R107). -/
theorem does_frheadWrite {cid h g d : Nat} {c : Ctx} (hc : alook s.ctxs cid = some c) (hw : c.frwait = []) (hh : h < 256) (hg : g < 2 ^ 16)
    (hd : d < 256) :
    Does (.frheadWrite cid (some h) (some g) (some d)) s (fun v =>
      (v.ctx cid).frhead = h ∧ (v.ctx cid).frseg.toNat = g ∧ (v.ctx cid).frdepth = d ∧ (v.ctx cid).state = c.state) := by
  have he : exec (.frheadWrite cid (some h) (some g) (some d)) s =
      (s.onCtx cid (fun c => { c with frhead := h % 256, frseg := BitVec.ofNat 16 g, frdepth := d % 256 })).answer .done := by
    show execFrheadWrite cid (some h) (some g) (some d) s = _
    rw [execFrheadWrite, State.commandOf_idle hs hq, hc]
    show State.answer (State.retryRecords _ _) _ = _
    rw [State.retryRecords_of_nil (by rw [State.ctx_onCtx hc]; exact hw)]
    rfl
  refine does_of he (by rw [State.onCtx_mgmtIn, hq]) (State.onCtx_mem _ _ _) ?_
  simp only [State.ctx_status, State.ctx_onCtx hc, BitVec.toNat_ofNat]
  exact ⟨Nat.mod_eq_of_lt hh, Nat.mod_eq_of_lt hg, Nat.mod_eq_of_lt hd, trivial⟩

/-! ### What the fabric owner sets (R140, R339, R340, R350) -/

theorem does_mwr_virtualised {tenant : Nat} (b : Byte) (ht : tenant < 16) :
    Does (.mwr 63 (.virtualised tenant) 0 [b]) s (fun v => (tenant ∈ v.virt ↔ b ≠ 0) ∧ ∀ x, x ≠ tenant → (x ∈ v.virt ↔ x ∈ s.virt)) := by
  refine does_mwr_whole hs hq (fun _ => Space.noConfusion) rfl (if_pos ht) (length_bytesLE _ _) (by simp) (by simp) rfl rfl rfl ?_
  have hb : natLE [b] = 0 ↔ b = 0#8 := by simp [natLE, BitVec.toNat_eq]
  simp only [hb]
  by_cases h : b = 0#8
  · simp +contextual [h]
  · simp +contextual [h]

theorem does_mwr_peering {x y : Nat} (b : Byte) (hx : x < 63) (hy : y < 63) :
    Does (.mwr 63 (.peering x y) 0 [b]) s (fun v => (v.peered x y = true ↔ x = y ∨ b ≠ 0) ∧ v.peered y x = v.peered x y) := by
  refine does_mwr_whole hs hq (fun _ => Space.noConfusion) rfl (if_pos ⟨hx, hy⟩) (length_bytesLE _ _) (by simp) (by simp) rfl rfl rfl ?_
  have hb : natLE [b] = 0 ↔ b = 0#8 := by simp [natLE, BitVec.toNat_eq]
  simp only [hb, State.peered]
  by_cases h : b = 0#8
  · simp [h, eq_comm]
  · simp [h]

theorem does_mwr_fabricTenant {tenant : Nat} (b : Byte) (ht : tenant < 16) (hb : b.toNat < 63) :
    Does (.mwr 63 (.fabricTenant tenant) 0 [b]) s (fun v => v.fabTenant tenant = b.toNat ∧
      ∀ x, x ≠ tenant → v.fabTenant x = s.fabTenant x) := by
  have hw : s.spaceWrite (.fabricTenant tenant) 0 1 [b] = some { s with tenMap := aput s.tenMap tenant (b.toNat + 1) } := by
    simp [State.spaceWrite, natLE, hb]
  refine does_mwr_whole hs hq (fun _ => Space.noConfusion) rfl (if_pos ht) (length_bytesLE _ _) (by simp) (by simp) hw rfl rfl
    ⟨?_, fun x hx => ?_⟩
  · simp [State.fabTenant, alook_aput_same]
  · simp [State.fabTenant, alook_aput_other _ hx]

theorem does_mwr_timeRoot {n : Nat} (hn : n ≤ 1024) :
    Does (.mwr 63 .timeRoot 0 (bytesLE 2 n)) s (fun v => v.timeRoot = if n = 0 then none else some (n - 1)) := by
  have hv : natLE (bytesLE 2 n) = n := by rw [natLE_bytesLE]; omega
  have hw : s.spaceWrite .timeRoot 0 2 (bytesLE 2 n) = some { s with timeRoot := if n = 0 then none else some (n - 1) } := by
    simp only [State.spaceWrite, hv, if_pos hn]
  exact does_mwr_whole hs hq (fun _ => Space.noConfusion) rfl rfl (by simp) (by simp) (by simp) hw rfl rfl rfl

end commands

/-! ### Bitmaps of dirty frames (R142) -/

/-- The bytes that a write lays down in the frozen bitmap are read back. -/
theorem State.frozenBytes_putFrozen (s : State) (lp : Bool) (off : Nat) (data : List Byte) :
    (s.putFrozen lp off data).frozenBytes lp off data.length = data := by
  have hbits : ∀ m : List (Nat × Bool), (List.range data.length).map (fun i => BitVec.ofNat 8 (pack ((List.range 8).map (fun j =>
      (j, 1, b2n (sget false ((bitEntries (8 * off) data).foldl (fun m e => sset false m e.1 e.2) m) (8 * (off + i) + j))))))) = data := by
    intro m
    refine List.ext_getElem (by simp) fun i hi _ => ?_
    have hi : i < data.length := by simpa using hi
    have hbyte : (List.range 8).map (fun j =>
        (j, 1, b2n (sget false ((bitEntries (8 * off) data).foldl (fun m e => sset false m e.1 e.2) m) (8 * (off + i) + j)))) =
        (List.range 8).map (fun j => (j, 1, b2n (data[i].getLsbD j))) := by
      refine List.map_congr_left fun j hj => ?_
      have hj := List.mem_range.mp hj
      rw [bitEntries_eq, sget_foldl_range, if_pos (by omega), bitOf, show (8 * (off + i) + j - 8 * off) / 8 = i by omega,
        show (8 * (off + i) + j - 8 * off) % 8 = j by omega]
      simp [hi]
    rw [List.getElem_map, List.getElem_range, hbyte, pack_bits]
    exact BitVec.eq_of_toNat_eq (by rw [BitVec.toNat_ofNat, Nat.mod_mod, Nat.mod_eq_of_lt data[i].isLt])
  cases lp <;> exact hbits _

theorem does_mwr_frozenBits {s : State} (hs : s.serving = true) (hq : s.mgmtIn = []) {lp : Bool} {off : Nat} {data : List Byte}
    (h0 : 0 < data.length) (h64 : data.length ≤ 64) (hin : off + data.length ≤ (if lp then Config.lpFrames else s.hbmFrames) / 8) :
    Does (.mwr 63 (.frozenBits lp) off data) s (fun v => v.frozenBytes lp off data.length = data) := by
  have hw : s.windowWrite (.frozenBits lp) off data = some (s.putFrozen lp off data) := by
    show (if _ then _ else none).map _ = _
    rw [if_pos hin]; rfl
  have hmem : (s.putFrozen lp off data).mem = s.mem ∧ (s.putFrozen lp off data).mgmtIn = s.mgmtIn := by cases lp <;> exact ⟨rfl, rfl⟩
  exact does_of (exec_mwr_owner hs hq h0 h64 hw) (hmem.2.trans hq) hmem.1 (s.frozenBytes_putFrozen lp off data)

/-! ### Spaces that are only read, and a guest's tile table (R7, R140) -/

/-- Spaces that are RO throughout, of those that a node may read. -/
def readOnly (sp : Space) : Prop :=
  (∃ c i, sp = .segDesc c i) ∨ (∃ c i t, sp = .segTile c i t) ∨ (∃ t p, sp = .tileEntry t p) ∨ (∃ t, sp = .tensorDesc t) ∨
    (∃ c u n, sp = .cell c u n) ∨ (∃ c n, sp = .dispenser c n) ∨ (∃ t i, sp = .slipLog t i) ∨ (∃ t, sp = .slipCount t) ∨
    (∃ c n, sp = .permit c n) ∨ (∃ l, sp = .linkBlock l) ∨ (∃ n, sp = .orphan n) ∨ (∃ c, sp = .monitors c) ∨ (∃ d, sp = .dualm d)

/-- A write of them is taken and changes nothing. -/
theorem State.spaceWrite_readOnly {sp : Space} (h : readOnly sp) :
    (∀ lp, sp ≠ .frozenBits lp) ∧ spaceClears sp = false ∧ ∀ (s : State) off n bs, s.spaceWrite sp off n bs = some s := by
  rcases h with ⟨_, _, rfl⟩ | ⟨_, _, _, rfl⟩ | ⟨_, _, rfl⟩ | ⟨_, rfl⟩ | ⟨_, _, _, rfl⟩ | ⟨_, _, rfl⟩ | ⟨_, _, rfl⟩ | ⟨_, rfl⟩ | ⟨_, _, rfl⟩ |
    ⟨_, rfl⟩ | ⟨_, rfl⟩ | ⟨_, rfl⟩ | ⟨_, rfl⟩ <;> exact ⟨fun _ => Space.noConfusion, rfl, fun _ _ _ _ => rfl⟩

section commands
variable {s : State} (hs : s.serving = true) (hq : s.mgmtIn = [])
include hs hq

theorem exec_mwr_readOnly {sp : Space} (hro : readOnly sp) {off : Nat} {data bs : List Byte} (hb : s.spaceBytes sp = some bs)
    (h0 : 0 < data.length) (h64 : data.length ≤ 64) (hin : off + data.length ≤ bs.length) :
    exec (.mwr 63 sp off data) s = .next { s with status := some .done } := by
  obtain ⟨hf, hc, hw⟩ := State.spaceWrite_readOnly hro
  have hww : s.windowWrite sp off data = some s := (s.windowWrite_inside hf hc hb hin).trans (hw s _ _ _)
  exact (exec_mwr_owner hs hq h0 h64 hww).trans (State.answer_idle hq _ _)

/-- A guest's write of its own tile table is left to its host: it is delivered as a notice (R140). -/
theorem turns_mwr_guest {net tid page off : Nat} {data : List Byte} {t : Tensor} (ht : s.tensor tid = some t) (hv : t.tenant ∈ s.virt)
    (hn : net ≠ 63) (hf : s.fabTenant t.tenant = net) (hp : page < t.npage) (h0 : 0 < data.length) (hin : off + data.length ≤ 8) :
    Turns (.mwr net (.tileEntry tid page) off data) s (fun v => v.status = some .deferred ∧ v.guestT = s.guestT ∧ v.mem = s.mem ∧
      v.notices.length = s.notices.length + 1) := by
  have hreach : s.mayReach net (.tileEntry tid page) = true :=
    (s.mayReach_iff _ _).mpr (.inr ⟨t.tenant, by simp [State.spaceTenant, ht], hf⟩)
  have hseen := State.seenBy_tileEntry_guest ht page hn hv
  have hb : s.spaceBytes (.guestEntry tid page) = some (bytesLE 8 (s.guestWord tid page).toNat) := by simp [State.spaceBytes, ht, hp]
  have hww := s.windowWrite_inside (sp := .guestEntry tid page) (fun _ => Space.noConfusion) rfl hb (off := off) (data := data)
    (by rw [length_bytesLE]; exact hin)
  have hne : data.isEmpty = false := by cases data <;> simp_all
  obtain ⟨n, hg⟩ : ∃ n, s.guestWrite net (.tileEntry tid page) off data = some n := by
    unfold State.guestWrite
    rw [hseen]
    exact ⟨_, rfl⟩
  refine ⟨{ s with notices := s.notices ++ [n], status := some .deferred }, ?_, rfl, rfl, rfl, by simp⟩
  show execMwr net (.tileEntry tid page) off data s = _
  rw [execMwr, State.command1_serving hs, State.windowOpen_owner (State.issuerNet_idle hq), hreach, hne, if_neg (by simp; omega), hseen, hww, hg]
  exact State.answer_idle (s := { s with notices := s.notices ++ [n] }) hq _ _

end commands

end Sys2Proof.Machine
end

section
/-! SUPPORT. Links, groups, pools, permits and partitions by management command (R342, R343, R350 to R354, R279), and commands that SYS packets
brought (R340). -/

namespace Sys2Proof.Machine

/-! ### Links (R342, R343) -/

@[simp] theorem State.losePacket_links (s : State) (link : Nat) (p : Packet) : (s.losePacket link p).links = s.links := by
  unfold State.losePacket; dsimp only; split <;> rfl
@[simp] theorem State.losePacket_mem (s : State) (link : Nat) (p : Packet) : (s.losePacket link p).mem = s.mem := by
  unfold State.losePacket; dsimp only; split <;> rfl
@[simp] theorem State.losePacket_mgmtIn (s : State) (link : Nat) (p : Packet) : (s.losePacket link p).mgmtIn = s.mgmtIn := by
  unfold State.losePacket; dsimp only; split <;> rfl
@[simp] theorem State.losePacket_orphans (s : State) (link : Nat) (p : Packet) : (s.losePacket link p).orphans = s.orphans := by
  unfold State.losePacket; dsimp only; split <;> rfl

/-- Packets that a port discards leave an orphan record each, and its ports as they are (R345). -/
theorem State.discard_spec (link : Nat) (left : List (Nat × Packet)) (s : State) :
    let t := left.foldl (fun s x => (s.losePacket link x.2).orphan link 5 x.1 x.2.rw) s
    t.links = s.links ∧ t.mem = s.mem ∧ t.mgmtIn = s.mgmtIn ∧ t.orphans.length = s.orphans.length + left.length := by
  induction left generalizing s with
  | nil => exact ⟨rfl, rfl, rfl, rfl⟩
  | cons x left ih =>
    obtain ⟨h1, h2, h3, h4⟩ := ih ((s.losePacket link x.2).orphan link 5 x.1 x.2.rw)
    refine ⟨h1.trans (s.losePacket_links _ _), h2.trans (s.losePacket_mem _ _), h3.trans (s.losePacket_mgmtIn _ _), h4.trans ?_⟩
    simp only [State.orphan, State.losePacket_orphans, List.length_append, List.length_cons, List.length_nil]
    omega

/-- A link with nothing in its port leaves service. -/
theorem State.linkDown_empty {s : State} {link : Nat} (hr : (s.link link).replay = []) (hw : (s.link link).waiting = []) (st : Nat) :
    s.linkDown link st =
      s.setLink link (fun k => { k with state := st, sync := false, ackSeq := k.txSeq, replay := [], resent := [], waiting := [] }) := by
  unfold State.linkDown
  dsimp only
  rw [hr, hw]
  split <;> rfl

/-- A link without an alternate route leaves service: its port discards what it keeps. -/
theorem State.linkDown_discards {s : State} {link : Nat} (ha : (s.link link).alt = none) (st : Nat) :
    let k := s.link link
    let t := s.linkDown link st
    t.link link = { k with state := st, sync := false, ackSeq := k.txSeq, replay := [], resent := [], waiting := [] } ∧
      t.mem = s.mem ∧ t.mgmtIn = s.mgmtIn ∧ t.orphans.length = s.orphans.length + k.replay.length + k.waiting.length := by
  have hd : s.linkDown link st = ((s.link link).replay ++ (s.link link).waiting.map (fun p => ((s.link link).txSeq, p))).foldl
      (fun s x => (s.losePacket link x.2).orphan link 5 x.1 x.2.rw) (s.setLink link (fun k =>
        { k with state := st, sync := false, ackSeq := k.txSeq, replay := [], resent := [], waiting := [] })) := by
    unfold State.linkDown
    dsimp only
    rw [ha]
  rw [hd]
  obtain ⟨h1, h2, h3, h4⟩ := State.discard_spec link ((s.link link).replay ++ (s.link link).waiting.map (fun p => ((s.link link).txSeq, p)))
    (s.setLink link (fun k => { k with state := st, sync := false, ackSeq := k.txSeq, replay := [], resent := [], waiting := [] }))
  refine ⟨(State.link_congr h1 link).trans (State.link_setLink_same _ _ _), h2, h3, h4.trans ?_⟩
  rw [List.length_append, List.length_map, State.setLink_orphans]
  omega

section commands
variable {s : State} (hs : s.serving = true) (hq : s.mgmtIn = [])
include hs hq

theorem does_lenable {l : Nat} (hl : l < 24) (h : (s.link l).state = 0 ∨ (s.link l).state = 4) :
    Does (.lenable l) s (fun v => v.link l = { s.link l with state := 1, trains := 0 } ∧ ∀ x, x ≠ l → v.link x = s.link x) := by
  have he : exec (.lenable l) s = (s.setLink l (fun k => { k with state := 1, trains := 0 })).answer .done := by
    show execLenable l s = _
    rw [execLenable, State.commandOwner_idle hs hq, if_neg (show ¬ Config.links ≤ l from Nat.not_le.mpr hl), if_pos h]
  exact does_of he hq rfl ⟨by rw [State.link_status, State.link_setLink_same],
    fun x hx => by rw [State.link_status, State.link_setLink_other s hx]⟩

theorem refuses_lenable {l : Nat} (h : (s.link l).state = 1 ∨ (s.link l).state = 2 ∨ (s.link l).state = 3) : Refuses (.lenable l) s := by
  refine refuses_of hq ?_
  show execLenable l s = _
  rw [execLenable, State.commandOwner_idle hs hq]
  split
  · rfl
  · exact if_neg (by omega)

theorem exec_ldisable {l : Nat} (hl : l < 24) : exec (.ldisable l) s = (s.linkDown l 0).answer .done := by
  show execLdisable l s = _
  rw [execLdisable, State.commandOwner_idle hs hq, if_neg (show ¬ Config.links ≤ l from Nat.not_le.mpr hl)]

theorem does_ldisable_empty {l : Nat} (hl : l < 24) (hr : (s.link l).replay = []) (hw : (s.link l).waiting = []) :
    Does (.ldisable l) s (fun v => (v.link l).state = 0 ∧ (v.link l).sync = false ∧ v.orphans = s.orphans) := by
  have he := exec_ldisable hs hq hl
  rw [State.linkDown_empty hr hw] at he
  have hk := State.link_setLink_same s l (fun k => { k with state := 0, sync := false, ackSeq := k.txSeq, replay := [], resent := [], waiting := [] })
  exact does_of he hq rfl ⟨congrArg (·.state) hk, congrArg (·.sync) hk, rfl⟩

theorem does_ldisable_discards {l : Nat} (hl : l < 24) (ha : (s.link l).alt = none) :
    Does (.ldisable l) s (fun v => (v.link l).state = 0 ∧ (v.link l).replay = [] ∧
      v.orphans.length = s.orphans.length + (s.link l).replay.length + (s.link l).waiting.length) := by
  obtain ⟨hk, hm, hi, ho⟩ := State.linkDown_discards ha 0
  exact does_of (exec_ldisable hs hq hl) (hi.trans hq) hm ⟨congrArg (·.state) hk, congrArg (·.replay) hk, ho⟩

theorem does_lclr {l : Nat} (hl : l < 24) :
    Does (.lclr l) s (fun v => v.link l = { s.link l with crcerr := 0, hcorr := 0, hunc := 0, replays := 0 } ∧ v.sent = s.sent) := by
  have he : exec (.lclr l) s = (s.setLink l (fun k => { k with crcerr := 0, hcorr := 0, hunc := 0, replays := 0 })).answer .done := by
    show execLclr l s = _
    rw [execLclr, State.commandOwner_idle hs hq, if_neg (show ¬ Config.links ≤ l from Nat.not_le.mpr hl)]
  exact does_of he hq rfl ⟨by rw [State.link_status, State.link_setLink_same], rfl⟩

/-! ### Groups and pools (R350, R351) -/

theorem does_collcfg {tenant grp : Nat} {members : List (Nat × Nat)} (ht : tenant < 16) (hg : grp < 64) (hn : members ≠ [])
    (hl : members.length ≤ 1024) (hm : ∀ m ∈ members, m.1 < 1024 ∧ m.2 < 1024) :
    Does (.collcfg tenant grp members) s (fun v => alook v.groups (tenant * 64 + grp) = some members ∧
      alook v.colls (tenant * 64 + grp) = some 0) := by
  have hc : ¬ (16 ≤ tenant ∨ 64 ≤ grp ∨ members.isEmpty = true ∨ 1024 < members.length ∨
      members.any (fun m => 1024 ≤ m.1 || 1024 ≤ m.2) = true) := by
    rintro (h | h | h | h | h)
    · omega
    · omega
    · exact hn (List.isEmpty_iff.mp h)
    · omega
    · obtain ⟨m, hmem, h⟩ := List.any_eq_true.mp h
      have := hm m hmem
      simp only [Bool.or_eq_true, decide_eq_true_eq] at h
      omega
  have he : exec (.collcfg tenant grp members) s = State.answer
      { s with groups := aput s.groups (tenant * 64 + grp) members, colls := aput s.colls (tenant * 64 + grp) 0 } .done := by
    show execCollcfg tenant grp members s = _
    rw [execCollcfg, State.commandOf_idle hs hq, if_neg hc]
  exact does_of he hq rfl ⟨alook_aput_same _ _ _, alook_aput_same _ _ _⟩

theorem refuses_collcfg {tenant grp : Nat} {members : List (Nat × Nat)}
    (h : 16 ≤ tenant ∨ 64 ≤ grp ∨ members = [] ∨ 1024 < members.length ∨ ∃ m ∈ members, 1024 ≤ m.1 ∨ 1024 ≤ m.2) :
    Refuses (.collcfg tenant grp members) s := by
  refine refuses_of hq ?_
  show execCollcfg tenant grp members s = _
  rw [execCollcfg, State.commandOf_idle hs hq, if_pos]
  simpa only [List.isEmpty_iff, List.any_eq_true, Bool.or_eq_true, decide_eq_true_eq] using h

end commands

theorem exec_pmcfg {s : State} (hs : s.serving = true) {cid : Nat} {c : Ctx} (hc : alook s.ctxs cid = some c)
    (hr : s.reaches c.tenant = true) (pool : Nat) :
    exec (.pmcfg cid pool) s = (s.onCtx cid (fun c => { c with pool := pool })).answer .done := by
  show execPmcfg cid pool s = _
  rw [execPmcfg, State.commandOf_reaches hs (by simp [State.tenantOf, hc, hr]), hc]

theorem does_pmcfg {s : State} (hs : s.serving = true) (hq : s.mgmtIn = []) {cid : Nat} {c : Ctx} (hc : alook s.ctxs cid = some c)
    (pool : Nat) : Does (.pmcfg cid pool) s (fun v => v.ctx cid = { c with pool := pool }) :=
  does_of (exec_pmcfg hs hc (by simp [State.reaches, State.issuerNet_idle hq]) pool) (by rw [State.onCtx_mgmtIn, hq]) (State.onCtx_mem _ _ _)
    (State.ctx_onCtx hc _)

/-! ### Permits of a partition that is reset (R354) -/

/-- A fold of steps that leave a state as it is. -/
theorem foldl_eq_self {α β : Type} {f : α → β → α} {a : α} : ∀ {l : List β}, (∀ x ∈ l, f a x = a) → l.foldl f a = a
  | [], _ => rfl
  | x :: l, h => by
    rw [List.foldl_cons, h x List.mem_cons_self]
    exact foldl_eq_self fun y hy => h y (List.mem_cons_of_mem x hy)

/-- Permits that are FREE are left alone. -/
theorem State.returnPermits_free {s : State} {cid : Nat} (h : ∀ x ∈ (s.ctx cid).permits, x.2.state = 0) : s.returnPermits cid = s :=
  foldl_eq_self fun x hx => if_pos (h x hx)

/-- A return is one packet, to the package of the permit's receiver. -/
theorem State.sendReturn_packet (s : State) (cid n unused drawn : Nat) (close : Bool) :
    let x := s.permit cid n
    ∃ p, s.sendReturn cid n unused drawn close = s.sendPacket p ∧ p.info = [2, cid, n, x.rctx, unused, drawn, b2n close, x.rten] ∧
      fld p.rw 0 11 = x.pkg % 2048 :=
  ⟨_, rfl, rfl, fld_routing s _ (by simp [State.routingFields]) (by decide)⟩

@[simp] theorem State.leaveAsk_links (s : State) (cid n : Nat) : (s.leaveAsk cid n).links = s.links := by
  unfold State.leaveAsk; dsimp only; split <;> simp
@[simp] theorem State.leaveAsk_sent (s : State) (cid n : Nat) : (s.leaveAsk cid n).sent = s.sent := by
  unfold State.leaveAsk; dsimp only; split <;> simp
@[simp] theorem State.leaveAsk_mem (s : State) (cid n : Nat) : (s.leaveAsk cid n).mem = s.mem := by
  unfold State.leaveAsk; dsimp only; split <;> simp
@[simp] theorem State.leaveAsk_mgmtIn (s : State) (cid n : Nat) : (s.leaveAsk cid n).mgmtIn = s.mgmtIn := by
  unfold State.leaveAsk; dsimp only; split <;> simp

/-- A permit that has been asked for leaves its request behind, so that the answer is not lost (R352). -/
theorem State.leaveAsk_asks {s : State} {cid : Nat} {c : Ctx} (hc : alook s.ctxs cid = some c) (n : Nat) :
    let x := s.permit cid n
    ∃ c', alook (s.leaveAsk cid n).ctxs cid = some c' ∧
      (x.state = 1 → ∃ a ∈ c'.asks, a.pmt = n ∧ a.opid = x.opid ∧ a.ask = x.ask ∧ a.rctx = x.rctx) := by
  unfold State.leaveAsk
  dsimp only
  split
  · exact ⟨c, hc, fun h => absurd h ‹_›⟩
  · exact ⟨_, State.alook_onCtx hc _, fun _ => ⟨_, List.mem_append_right _ List.mem_cons_self, rfl, rfl, rfl, rfl⟩⟩

@[simp] theorem State.sendPacket_ctxs (s : State) (p : Packet) : (s.sendPacket p).ctxs = s.ctxs := by
  rw [State.sendPacket, State.sendOn_eq]
@[simp] theorem State.sendPacket_mem (s : State) (p : Packet) : (s.sendPacket p).mem = s.mem := by
  rw [State.sendPacket, State.sendOn_eq]
@[simp] theorem State.sendPacket_mgmtIn (s : State) (p : Packet) : (s.sendPacket p).mgmtIn = s.mgmtIn := by
  rw [State.sendPacket, State.sendOn_eq]

theorem State.permit_congr {s t : State} (h : t.ctxs = s.ctxs) (cid n : Nat) : t.permit cid n = s.permit cid n := by
  rw [State.permit, State.permit, State.ctx, State.ctx, h]

/-- The return of the one permit of a context, in use: its credit goes back to the receiver, whose regions close, and an answer that is
still to come is not lost. -/
theorem State.returnPermits_one {s : State} {cid n : Nat} {c : Ctx} {x : Permit} (hc : alook s.ctxs cid = some c) (hp : c.permits = [(n, x)])
    (hx : x.state ≠ 0) :
    let v := s.returnPermits cid
    v.mem = s.mem ∧ v.mgmtIn = s.mgmtIn ∧ (v.permit cid n).state = 0 ∧
      (x.state = 1 → ∃ a ∈ (v.ctx cid).asks, a.pmt = n ∧ a.opid = x.opid ∧ a.ask = x.ask ∧ a.rctx = x.rctx) ∧
      ∃ p : Packet, v.links = (s.sendPacket p).links ∧ v.sent = (s.sendPacket p).sent ∧
        p.info = [2, cid, n, x.rctx, x.credit, x.drawn, 1, x.rten] ∧ fld p.rw 0 11 = x.pkg % 2048 := by
  intro v
  have hperm : s.permit cid n = x := by simp [State.permit, State.ctx_eq hc, hp, alook]
  obtain ⟨p, hsend, hinfo, hdest⟩ := s.sendReturn_packet cid n x.credit x.drawn true
  rw [hperm] at hinfo hdest
  obtain ⟨c', hc', hask⟩ := State.leaveAsk_asks (s := s.sendPacket p) (by rw [State.sendPacket_ctxs]; exact hc) n
  rw [State.permit_congr (s.sendPacket_ctxs p), hperm] at hask
  have hv : v = ((s.sendPacket p).leaveAsk cid n).setPermit cid n (fun _ => {}) := by
    show s.returnPermits cid = _
    rw [State.returnPermits, State.ctx_eq hc, hp, List.foldl_cons, List.foldl_nil, if_neg hx, ← hsend]
  have hctx : v.ctx cid = { c' with permits := aput c'.permits n {} } := by
    rw [hv]
    exact State.ctx_onCtx hc' _
  refine ⟨?_, ?_, ?_, ?_, p, ?_, ?_, hinfo, hdest⟩
  · rw [hv]; simp [State.setPermit]
  · rw [hv]; simp [State.setPermit]
  · rw [State.permit, hctx, alook_aput_same]; rfl
  · rw [hctx]; exact hask
  · rw [hv]; simp [State.setPermit]
  · rw [hv]; simp [State.setPermit]

section commands
variable {s : State} (hs : s.serving = true) (hq : s.mgmtIn = [])
include hs hq

theorem exec_preset {part : Nat} {p : Partition} (hp : s.parts[part]? = some p) :
    exec (.preset part) s =
      ((s.ctxs.filter (fun c => c.2.tenant = p.tenant)).foldl (fun s c => s.returnPermits c.1) s).answer .done := by
  show execPreset part s = _
  rw [execPreset, State.commandOf_idle hs hq, hp]

theorem does_preset_free {part : Nat} {p : Partition} (hp : s.parts[part]? = some p)
    (h : ∀ c ∈ s.ctxs, c.2.tenant = p.tenant → ∀ x ∈ (s.ctx c.1).permits, x.2.state = 0) :
    Does (.preset part) s (fun v => v.ctxs = s.ctxs ∧ v.sent = s.sent) := by
  have he := exec_preset hs hq hp
  rw [foldl_eq_self fun c hc => by
    obtain ⟨hmem, ht⟩ := List.mem_filter.mp hc
    exact State.returnPermits_free (h c hmem (of_decide_eq_true ht))] at he
  exact does_of he hq rfl ⟨rfl, rfl⟩

theorem does_preset_one {part cid n : Nat} {p : Partition} {c : Ctx} {x : Permit} (hp : s.parts[part]? = some p) (hc : s.ctxs = [(cid, c)])
    (ht : c.tenant = p.tenant) (hpm : c.permits = [(n, x)]) (hx : x.state ≠ 0) :
    Does (.preset part) s (fun v => (v.permit cid n).state = 0 ∧
      (x.state = 1 → ∃ a ∈ (v.ctx cid).asks, a.pmt = n ∧ a.opid = x.opid ∧ a.ask = x.ask ∧ a.rctx = x.rctx) ∧
      s.SendsOut v (fun q => q.info = [2, cid, n, x.rctx, x.credit, x.drawn, 1, x.rten] ∧ fld q.rw 0 11 = x.pkg % 2048)) := by
  have he := exec_preset hs hq hp
  rw [hc, List.filter_cons_of_pos (by simpa using ht), List.filter_nil, List.foldl_cons, List.foldl_nil] at he
  have hlook : alook s.ctxs cid = some c := by simp [hc, alook]
  obtain ⟨hm, hi, hfree, hask, q, hl, hsent, hinfo, hdest⟩ := State.returnPermits_one hlook hpm hx
  exact does_of he (hi.trans hq) hm ⟨hfree, hask, State.sendsOut_of rfl rfl hl hsent ⟨hinfo, hdest⟩⟩

theorem refuses_preset {part : Nat} (h : s.parts.length ≤ part) : Refuses (.preset part) s := by
  refine refuses_of hq ?_
  show execPreset part s = _
  rw [execPreset, State.commandOf_idle hs hq, List.getElem?_eq_none h]

end commands

/-! ### Partitions (R97, R259, R274, R279) -/

/-- The partition that a specification makes. -/
def State.newPartition (s : State) (p : PartitionSpec) : Partition :=
  { tenant := p.tenant, cores := p.cores.eraseDups, f := s.frame, shares := p.shares.map (fun x => (x.1, s.shareStart x.1, x.2)),
    qshare := p.qshare, jshare := p.jshare, links := p.links, pipes := p.pipes, linkMap := p.linkMap, circ := p.circ }

theorem nodup_eraseDups {α : Type} [DecidableEq α] : ∀ l : List α, l.eraseDups.Nodup
  | [] => by simp
  | a :: l => by
    rw [List.eraseDups_cons, List.nodup_cons]
    refine ⟨?_, nodup_eraseDups _⟩
    simp [List.mem_eraseDups]
termination_by l => l.length
decreasing_by exact Nat.lt_succ_of_le (List.length_filter_le _ _)

section commands
variable {s : State} (hs : s.serving = true) (hq : s.mgmtIn = [])
include hs hq

/-- The first partition, with no share of a store, no link and no pipe. -/
theorem does_partitionCreate {p : PartitionSpec} (hparts : s.parts = []) (ht : p.tenant < 16)
    (hcores : ∀ k ∈ p.cores, k < 256 ∧ (alook s.cstate (k / 4)).getD 0 ≠ 3) (hsh : p.shares = []) (hl : p.links = []) (hpipes : p.pipes = [])
    (hq16 : p.qshare % 16 = 0) (hqs : p.qshare ≤ 1024) (hj : p.jshare % 65536 = 0) (hlm : ∀ x ∈ p.linkMap, x.2 < 24)
    (hcirc : ∀ e ∈ p.circ, e.1 < 64) :
    Does (.partitionCreate p) s (fun v => ∃ x, v.partOf p.tenant = some x ∧ x.f = s.frame ∧ x.qshare = p.qshare ∧ x.jshare = p.jshare ∧
      (∀ k, k ∈ x.cores ↔ k ∈ p.cores) ∧ x.cores.Nodup ∧ x.slip = none ∧ x.slipCnt = 0 ∧ x.linkMap = p.linkMap ∧ x.circ = p.circ) := by
  have hbad : s.partitionBad p = false := by
    have hc : p.cores.any (fun k => decide (Config.cores ≤ k) || (s.parts.flatMap (·.cores)).contains k ||
        (alook s.cstate (k / 4)).getD 0 = 3) = false := by
      rw [List.any_eq_false]
      intro k hk
      obtain ⟨h1, h2⟩ := hcores k hk
      simp [hparts, h2, Config.cores, show ¬ 256 ≤ k by omega]
    have hm : p.linkMap.any (fun x => decide (Config.links ≤ x.2)) = false :=
      List.any_eq_false.mpr fun x hx h => Nat.not_le.mpr (hlm x hx) (of_decide_eq_true h)
    have he : p.circ.any (fun e => decide (64 ≤ e.1)) = false := List.any_eq_false.mpr fun e he => by simpa using hcirc e he
    unfold State.partitionBad
    dsimp only
    rw [hc, hm, he]
    simp [hparts, hsh, hl, hpipes, hq16, hj, State.partOf]
    exact ⟨ht, fun _ _ => hqs⟩
  have hexec : exec (.partitionCreate p) s = State.answer { s with parts := s.parts ++ [s.newPartition p] } .done := by
    show execPartitionCreate p s = _
    rw [execPartitionCreate, State.commandOwner_idle hs hq, hbad]
    rfl
  refine does_of hexec hq rfl ⟨s.newPartition p, ?_, rfl, rfl, rfl, fun k => List.mem_eraseDups, nodup_eraseDups _, rfl, rfl, rfl, rfl⟩
  simp [State.partOf, hparts, State.newPartition]

theorem refuses_partitionCreate {p : PartitionSpec} (h : (s.partOf p.tenant).isSome = true ∨ 16 ≤ p.tenant ∨
    (∃ k ∈ p.cores, 256 ≤ k ∨ ∃ q ∈ s.parts, k ∈ q.cores) ∨ p.qshare % 16 ≠ 0 ∨ p.jshare % 65536 ≠ 0) : Refuses (.partitionCreate p) s := by
  have hbad : s.partitionBad p = true := by
    unfold State.partitionBad
    dsimp only
    rcases h with h | h | ⟨k, hk, h⟩ | h | h
    · simp [h]
    · simp [h]
    · have hc : p.cores.any (fun k => decide (Config.cores ≤ k) || (s.parts.flatMap (·.cores)).contains k ||
          (alook s.cstate (k / 4)).getD 0 = 3) = true := by
        refine List.any_eq_true.mpr ⟨k, hk, ?_⟩
        rcases h with h | ⟨q, hq, hkq⟩
        · simp [Config.cores, h]
        · simp only [List.contains_iff_mem.mpr (List.mem_flatMap.mpr ⟨q, hq, hkq⟩), Bool.or_true, Bool.true_or]
      rw [hc]
      simp
    · simp [h]
    · simp [h]
  refine refuses_of hq ?_
  show execPartitionCreate p s = _
  rw [execPartitionCreate, State.commandOwner_idle hs hq, hbad]
  rfl

end commands

/-! ### Commands that SYS packets brought (R340) -/

/-- The command has been taken, and its status goes back to the node that gave it. -/
def State.Back (s : State) (q : MgmtReq) (rest : List MgmtReq) (v : State) (n : Nat) : Prop :=
  v.mgmtIn = rest ∧ s.SendsOut v (fun p => p.info = [n] ∧ fld p.rw 0 11 = q.srce % 2 ^ 11 ∧ fld p.rw 22 6 = q.net % 2 ^ 6 ∧
    fld p.rw 38 2 = 3 ∧ fld p.rw 40 4 = 5 ∧ fld p.rw 62 16 = q.opid % 2 ^ 16)

theorem State.answer_back {s t : State} {q : MgmtReq} {rest : List MgmtReq} (hq : t.mgmtIn = q :: rest) (hl : t.links = s.links)
    (hs : t.sent = s.sent) (m : MStatus) :
    ∃ v, t.answer m = .next v ∧ v.status = some m ∧ s.Back q rest v m.num ∧ v.ctxs = t.ctxs ∧ v.parts = t.parts ∧
      v.throttle = t.throttle ∧ v.mem = t.mem := by
  obtain ⟨links, sent, he, hout⟩ := State.answer_packet hq hl hs m (data := []) (by decide)
  exact ⟨_, he, rfl, ⟨rfl, (hout _ rfl rfl).imp fun p h => ⟨h.info, h.dest, h.tenant, h.cls, h.kind, h.opid⟩⟩, rfl, rfl, rfl, rfl⟩

/-- What acts on the package or the fabric as a whole (log 26). -/
def ownersCommand (i : Instr) : Prop :=
  (∃ l, i = Instr.lenable l) ∨ (∃ l, i = Instr.ldisable l) ∨ (∃ l, i = Instr.lclr l) ∨ (∃ p, i = Instr.partitionCreate p) ∨
    (∃ n f, i = Instr.poolcfg n f) ∨ (∃ b, i = Instr.dswap b) ∨ ∃ a b, i = Instr.pwrcap a b

theorem exec_ownersCommand {i : Instr} (h : ownersCommand i) (s : State) : ∃ k, exec i s = s.commandOwner k := by
  rcases h with ⟨l, rfl⟩ | ⟨l, rfl⟩ | ⟨l, rfl⟩ | ⟨p, rfl⟩ | ⟨n, f, rfl⟩ | ⟨b, rfl⟩ | ⟨a, b, rfl⟩
  · exact ⟨_, show execLenable l s = _ from rfl⟩
  · exact ⟨_, show execLdisable l s = _ from rfl⟩
  · exact ⟨_, show execLclr l s = _ from rfl⟩
  · exact ⟨_, show execPartitionCreate p s = _ from rfl⟩
  · exact ⟨_, show execPoolcfg n f s = _ from rfl⟩
  · exact ⟨_, show execDswap b s = _ from rfl⟩
  · exact ⟨_, show execPwrcap a b s = _ from rfl⟩

section packets
variable {s : State} {q : MgmtReq} {rest : List MgmtReq} (hs : s.serving = true) (hq : s.mgmtIn = q :: rest)
include hs hq

theorem turns_pmcfg_reached {cid : Nat} {c : Ctx} (hc : alook s.ctxs cid = some c) (pool : Nat) (h : q.net = 63 ∨ q.net = s.fabTenant c.tenant) :
    Turns (.pmcfg cid pool) s (fun v => v.status = some .done ∧ v.ctx cid = { c with pool := pool } ∧ s.Back q rest v 0) := by
  have hr : s.reaches c.tenant = true := by simpa [State.reaches, State.issuerNet_packet hq] using h
  obtain ⟨v, he, hst, hback, hctxs, _⟩ := State.answer_back (s := s) (t := s.onCtx cid (fun c => { c with pool := pool })) (q := q) (rest := rest)
    (by rw [State.onCtx_mgmtIn, hq]) (State.onCtx_links _ _ _) (State.onCtx_sent _ _ _) .done
  refine ⟨v, (exec_pmcfg hs hc hr pool).trans he, hst, State.ctx_eq ?_, hback⟩
  rw [hctxs, State.alook_onCtx hc]

theorem turns_pmcfg_stranger {cid : Nat} {c : Ctx} (hc : alook s.ctxs cid = some c) (pool : Nat) (h : q.net ≠ 63)
    (hf : q.net ≠ s.fabTenant c.tenant) :
    Turns (.pmcfg cid pool) s (fun v => v.status = some .refused ∧ v.ctxs = s.ctxs ∧ s.Back q rest v 2) := by
  obtain ⟨v, he, hst, hback, hctxs, _⟩ := State.answer_back (s := s) hq rfl rfl .refused
  have hr : ¬ (s.tenantOf cid).all s.reaches = true := by simp [State.tenantOf, hc, State.reaches, State.issuerNet_packet hq, h, hf]
  refine ⟨v, ?_, hst, hctxs, hback⟩
  show execPmcfg cid pool s = _
  rw [execPmcfg, State.commandOf, State.command1_serving hs, if_neg hr, he]

theorem turns_ownersCommand_other (h : q.net ≠ 63) {i : Instr} (hi : ownersCommand i) :
    Turns i s (fun v => v.status = some .refused ∧ v.parts = s.parts ∧ v.throttle = s.throttle ∧ v.mem = s.mem ∧ s.Back q rest v 2) := by
  obtain ⟨v, he, hst, hback, _, hparts, hthr, hmem⟩ := State.answer_back (s := s) hq rfl rfl .refused
  obtain ⟨k, hk⟩ := exec_ownersCommand hi s
  refine ⟨v, ?_, hst, hparts, hthr, hmem, hback⟩
  rw [hk, State.commandOwner_other hs (by rw [State.issuerNet_packet hq]; exact h), he]

/-- The bytes that MRD reads come with its response. -/
theorem turns_mrd_packet {sp : Space} {off len : Nat} {bs : List Byte} (hn : q.net = 63) (hf : ∀ lp, sp ≠ .frozenBits lp)
    (hb : s.spaceBytes sp = some bs) (h0 : 0 < len) (h64 : len ≤ 64) (hin : off + len ≤ bs.length) :
    Turns (.mrd 63 sp off len) s (fun v => v.status = some .done ∧ v.mgmtIn = rest ∧
      s.SendsOut v (fun p => p.info = [0] ∧ p.data = (bs.drop off).take len ∧ fld p.rw 40 4 = 5 ∧ fld p.rw 62 16 = q.opid % 2 ^ 16)) := by
  have hr : s.windowRead sp off len = some ((bs.drop off).take len) := by rw [s.windowRead_bytes hf, hb]; exact if_pos hin
  have ho : s.windowOpen 63 sp = true := by
    rw [State.windowOpen_owner (by rw [State.issuerNet_packet hq]; exact hn), s.mayReach_owner]
  obtain ⟨links, sent, he, hout⟩ := State.answer_packet (s := s) (t := { s with out := (bs.drop off).take len }) hq rfl rfl .done
    (data := (bs.drop off).take len) (by rw [List.length_take]; omega)
  have hx : exec (.mrd 63 sp off len) s = State.answer { s with out := (bs.drop off).take len } .done ((bs.drop off).take len) := by
    show execMrd 63 sp off len s = _
    rw [execMrd, State.command1_serving hs, ho, if_neg (by simp; omega), State.seenBy_owner, hr]
  exact ⟨_, hx.trans he, rfl, rfl, (hout _ rfl rfl).imp fun p h => ⟨h.info, h.data, h.kind, h.opid⟩⟩

end packets

end Sys2Proof.Machine
end

section
/-! SUPPORT. The statement on management commands, from the rules of the window, the links, the partitions and the packets. -/

namespace Sys2Proof.Machine

/-- The monitors of a cluster, two bytes each. -/
theorem State.spaceBytes_monitors (s : State) {clu : Nat} (h : clu < 64) :
    s.spaceBytes (.monitors clu) = some (bytesLE 2 (s.mon clu).temp.toNat ++ bytesLE 2 (s.mon clu).vcore.toNat ++
      bytesLE 2 (s.mon clu).vsram.toNat ++ bytesLE 2 (s.mon clu).proc.toNat) := by
  generalize hfs : [(0, 16, (s.mon clu).temp.toNat), (16, 16, (s.mon clu).vcore.toNat), (32, 16, (s.mon clu).vsram.toNat),
    (48, 16, (s.mon clu).proc.toNat)] = fs
  have hasc : Ascending 0 fs := by simp [← hfs, Ascending]
  have hb : s.spaceBytes (.monitors clu) = some (bytesLE (2 + (2 + (2 + 2))) (pack fs)) := (if_pos h).trans (by rw [← hfs])
  have field : ∀ lo v, (lo, 16, v) ∈ fs → bytesLE 2 (pack fs / 2 ^ lo) = bytesLE 2 v := fun lo v hv => bytesLE_congr (field_pack hasc hv)
  rw [hb, bytesLE_append, bytesLE_append, bytesLE_append, Nat.div_div_eq_div_mul, Nat.div_div_eq_div_mul]
  rw [show 256 ^ 2 * 256 ^ 2 = 2 ^ 32 from rfl, show 2 ^ 32 * 256 ^ 2 = 2 ^ 48 from rfl, show 256 ^ 2 = 2 ^ 16 from rfl]
  rw [← field 0 (s.mon clu).temp.toNat (by simp [← hfs]), ← field 16 (s.mon clu).vcore.toNat (by simp [← hfs]),
    ← field 32 (s.mon clu).vsram.toNat (by simp [← hfs]), ← field 48 (s.mon clu).proc.toNat (by simp [← hfs])]
  simp only [List.append_assoc, Nat.pow_zero, Nat.div_one]

/-- A context block with no write that waits (R95). -/
theorem State.spaceBytes_ctxBlock {s : State} {cid : Nat} {c : Ctx} (hc : alook s.ctxs cid = some c) (hp : c.pendW = []) :
    s.spaceBytes (.ctxBlock cid) = some (bytesLE 64 (c.block cid).toNat) := by
  simp [State.spaceBytes, hc, Ctx.written, hp]

section reads
variable {s : State} (hs : s.serving = true) (hq : s.mgmtIn = [])
include hs hq

/-- A read of 1 to 64 bytes inside a space, by who reaches it; any other is refused (R340, R361). -/
theorem window_reads {net off len : Nat} {sp : Space} {bs : List Byte} (hf : ∀ lp, sp ≠ .frozenBits lp)
    (hb : s.spaceBytes (s.seenBy net sp) = some bs) :
    let may := net = 63 ∨ ∃ t, s.spaceTenant sp = some t ∧ s.fabTenant t = net
    (may → 0 < len → len ≤ 64 → off + len ≤ bs.length →
      exec (.mrd net sp off len) s = .next { s with out := (bs.drop off).take len, status := some .done }) ∧
    (len = 0 ∨ 64 < len ∨ ¬ may ∨ bs.length < off + len → Refuses (.mrd net sp off len) s) := by
  intro may
  have hmay : may ↔ s.mayReach net sp = true := (s.mayReach_iff net sp).symm
  have hread := s.windowRead_bytes (s.seenBy_not_frozen net hf) off len
  rw [hb, Option.bind_some] at hread
  refine ⟨fun hr h0 h64 hin => ?_, fun h => refuses_mrd hs hq ?_⟩
  · exact exec_mrd_idle hs hq (hmay.mp hr) h0 h64 (hread.trans (if_pos hin))
  · rw [← hmay]
    exact h.imp_right (Or.imp_right (Or.imp_right fun hp => hread.trans (if_neg (Nat.not_le.mpr hp))))

end reads

/-- Settles O58: what each command makes of the state, given to the window itself, and what goes back when a SYS packet brought it. -/
theorem windowCommands : Obligations.WindowCommands := by
  have frozen : ∀ {sp : Space}, sp ≠ .frozenBits true → sp ≠ .frozenBits false → ∀ lp, sp ≠ .frozenBits lp :=
    fun ht hf lp => by cases lp <;> assumption
  refine ⟨fun s hs hq => ?_, fun s q rest cid pool c hs hq hc => ?_⟩
  · intro refused does
    refine ⟨fun net sp off len bs ht hf hb => window_reads hs hq (frozen ht hf) hb, fun clu h => s.spaceBytes_monitors h,
      fun cid c hc hp => State.spaceBytes_ctxBlock hc hp,
      fun tid page t ht => ⟨fun net h => State.seenBy_tileEntry_plain ht page h, fun net hn hv => State.seenBy_tileEntry_guest ht page hn hv⟩,
      fun cid off data c hc hw h0 h64 hin => does_mwr_ctxBlock hs hq hc hw h0 h64 hin,
      fun tenant b ht => does_mwr_virtualised hs hq b ht, fun x y b hx hy => does_mwr_peering hs hq b hx hy,
      fun tenant b ht hb => does_mwr_fabricTenant hs hq b ht hb,
      fun sp off data h => refuses_mwr hs hq (h.imp_right .inl),
      fun net tid page off data t ht hv hn hf hp h0 hin => turns_mwr_guest hs hq ht hv hn hf hp h0 hin,
      fun sp off data bs hro hb h0 h64 hin => exec_mwr_readOnly hs hq hro hb h0 h64 hin,
      fun sp off data bs ht hf hb hp => refuses_mwr hs hq (.inr (.inr (s.windowWrite_past (frozen ht hf) hb hp))),
      fun lp off data h0 h64 hin => does_mwr_frozenBits hs hq h0 h64 hin,
      fun cid data c hc hl => does_mwr_breakpoints hs hq hc hl, fun n hn => does_mwr_timeRoot hs hq hn,
      fun cid h g d c hc hw hh hg hd => does_frheadWrite hs hq hc hw hh hg hd, fun l hl => ?_,
      fun tenant grp members ht hg hn hl hm => does_collcfg hs hq ht hg hn hl hm, fun tenant grp members h => refuses_collcfg hs hq h,
      fun cid pool c hc => does_pmcfg hs hq hc pool, fun part p hp h => does_preset_free hs hq hp h,
      fun part p cid n c x hp hc ht hpm hx => does_preset_one hs hq hp hc ht hpm hx, fun part h => refuses_preset hs hq h,
      fun p hparts ht hcores hsh hl hpipes hq16 hqs hj hlm hcirc =>
        does_partitionCreate hs hq hparts ht hcores hsh hl hpipes hq16 hqs hj hlm hcirc,
      fun p h => refuses_partitionCreate hs hq h⟩
    exact ⟨does_lenable hs hq hl, refuses_lenable hs hq, does_ldisable_empty hs hq hl, does_ldisable_discards hs hq hl, does_lclr hs hq hl⟩
  · intro back
    refine ⟨turns_pmcfg_reached hs hq hc pool, fun h i hi => turns_ownersCommand_other hs hq h hi, ?_, turns_pmcfg_stranger hs hq hc pool⟩
    intro net sp off len bs hnet hn ht hf hb h0 h64 hin
    subst hnet
    rw [State.seenBy_owner] at hb
    exact turns_mrd_packet hs hq hn (frozen ht hf) hb h0 h64 hin

end Sys2Proof.Machine
end

section
/-! SUPPORT. An issue whose task has ended before any check of its bundle (R159). -/

namespace Sys2Proof.Machine

/-- A task that has come to its bundle while its own abort request of the whole context is in flight (R108, R159). The bundle holds only
all-zero moves, under the all-zero header. -/
def abortLanding : State :=
  let s := State.reset.withFetchWord 24 0
  { s with
    core := { s.core with inflight := [{ due := 0, trig := 0, dom := .s, val := .sc 1, rt := 0, act := .sys 2 (2 ^ 32 - 1) }] },
    ctxs := [(0, { placedCtx 0 with fstop := true })],
    tasks := [{ cid := 0, id := 0, clu := 0, prio := 0, timed := false, release := 0, lkey := 0, stage := 0, cmask := 0, tcbSeg := 0,
                tcbOff := 0, state := .running, core := some 0 }] }

/-- An issue ends with what has landed where that ended the task. -/
theorem exec_bundleIssue_ended {s : State} (hrun : s.core.run = .running) (hreload : s.core.reload = []) (hfill : s.core.fill = [])
    (hend : s.startBundle.core.run ≠ .running) : exec .bundleIssue s = .next s.startBundle := by
  show Host.Outcome.next (s.issueWith runMove) = _
  simp [State.issueWith, hrun, hreload, hfill, hend]

/-- The abort request lands, and ends the task that made it. -/
theorem abortLanding_ends : abortLanding.startBundle.core.run = .idle := by decide +kernel

theorem exec_bundleIssue_abortLanding : exec .bundleIssue abortLanding = .next abortLanding.startBundle :=
  exec_bundleIssue_ended (by decide +kernel) (by decide +kernel) (by decide +kernel) (by rw [abortLanding_ends]; decide)

/-- Refutes O7: the third clause lacks the premise that the task still runs once what is due has landed. The abort that lands here ends it:
the issue stops there (R159), where the clause would have the bundle end and count as issued. -/
theorem not_stepRunsTurns : ¬ Obligations.StepRunsTurns := by
  rintro ⟨⟨-, -, hissue⟩, -⟩
  have hpass := hissue abortLanding (by decide +kernel) (by decide +kernel) (by decide +kernel) (by decide +kernel)
    (by decide +kernel) (by decide +kernel) (by decide +kernel) (by decide +kernel) (by decide +kernel)
  rw [exec_bundleIssue_abortLanding] at hpass
  have hissued := congrArg (fun t : State => t.core.issued) (Host.Outcome.next.inj hpass)
  exact absurd hissued (by decide +kernel)

end Sys2Proof.Machine
end

section
/-! SUPPORT. The word of a well-formed move decodes to it in its slot (R51, R55, R57, R61 to R65). -/

namespace Sys2Proof

open Sys2Proof.Machine

/-! ### A word built from fields, by the range of its destination number -/

theorem decodeMove_domain (d : Dom) {g : Guard} {dst : DstNum} {src : Src} (h : mkMove g dst src ≠ 0#24) :
    decodeMove d.slot (mkMove g dst src) = decodeDomain d g dst src := by
  unfold decodeMove
  rw [if_neg h, moveG_mk, moveDst_mk, moveSrc_mk]
  cases d <;> rfl

theorem decodeMove_xfer (x : XUnit) {g : Guard} {dst : DstNum} {src : Src} (h : mkMove g dst src ≠ 0#24) :
    decodeMove x.slot (mkMove g dst src) = decodeX x g dst src := by
  unfold decodeMove
  rw [if_neg h, moveG_mk, moveDst_mk, moveSrc_mk]
  cases x <;> rfl

theorem dstNum_toNat {n : Nat} (h : n < 1024) : (BitVec.ofNat 10 n : DstNum).toNat = n := by
  rw [BitVec.toNat_ofNat]; exact Nat.mod_eq_of_lt h

theorem mkMove_ne_of_pos {n : Nat} (h0 : 0 < n) (h : n < 1024) (g : Guard) (src : Src) : mkMove g (BitVec.ofNat 10 n) src ≠ 0#24 :=
  mk_ne (.inl fun hz => by
    have := congrArg BitVec.toNat hz
    rw [dstNum_toNat h] at this
    exact absurd this (Nat.ne_of_gt h0))

/-- A field other than zero makes a word other than the no-op's (R69). -/
theorem mkMove_ne_of_zeroMove {g : Guard} {dst : DstNum} {src : Src} (h : zeroMove g dst src = false) : mkMove g dst src ≠ 0#24 := by
  apply mk_ne
  simp only [zeroMove, Bool.and_eq_false_iff, decide_eq_false_iff_not] at h
  rcases h with (hg | hd) | hs
  · exact .inr (.inl hg)
  · exact .inl hd
  · exact .inr (.inr hs)

/-- A trigger port of a domain slot (R61). -/
theorem decodeMove_trigger {d : Dom} {op : Nat} {g : Guard} {src : Src} {i : Instr} (hop : op < 304)
    (hi : decodeTrigger d op g src = some i) : decodeMove d.slot (mkMove g (BitVec.ofNat 10 (op + 720)) src) = .ok i := by
  rw [decodeMove_domain d (mkMove_ne_of_pos (by omega) (by omega) g src), decodeDomain, dstNum_toNat (by omega), if_neg (by omega),
    if_neg (by omega), Nat.add_sub_cancel, hi]

/-- A non-trigger port of a domain slot (R55). -/
theorem decodeMove_port {d : Dom} {n : Nat} {g : Guard} {src : Src} {i : Instr} (hn : 704 ≤ n ∧ n < 720)
    (hi : decodePort d (BitVec.ofNat 10 n) g src = some i) : decodeMove d.slot (mkMove g (BitVec.ofNat 10 n) src) = .ok i := by
  rw [decodeMove_domain d (mkMove_ne_of_pos (by omega) (by omega) g src), decodeDomain, dstNum_toNat (by omega), if_neg (by omega),
    if_pos (by omega), hi]

/-- m0 to m7 are ports of slot M (R55). -/
theorem decodePort_mreg {dst : DstNum} (g : Guard) (src : Src) (h : 708 ≤ dst.toNat ∧ dst.toNat ≤ 715) :
    decodePort .m dst g src = some (.move .m g dst src) := by
  obtain ⟨hlo, hhi⟩ := h
  unfold decodePort
  split <;> simp_all

/-- A register of the domain's own file, or m0 to m7 in slot M (R53, R55). -/
theorem decodeMove_move {d : Dom} {g : Guard} {dst : DstNum} {src : Src} (h : wfMove d g dst src = true) :
    decodeMove d.slot (mkMove g dst src) = .ok (.move d g dst src) := by
  obtain ⟨hreg, hzero⟩ := Bool.and_eq_true_iff.mp h
  rw [decodeMove_domain d (mkMove_ne_of_zeroMove (by simpa using hzero)), decodeDomain]
  rcases Bool.or_eq_true_iff.mp hreg with hown | hm
  · have hlow : dst.toNat < 704 := by
      cases d <;> simp [ownFile] at hown <;> omega
    rw [if_pos hlow, if_pos hown]
  · simp only [Bool.and_eq_true, decide_eq_true_eq] at hm
    obtain ⟨⟨rfl, hlo⟩, hhi⟩ := hm
    rw [if_neg (by omega), if_pos (by omega), decodePort_mreg g src ⟨hlo, hhi⟩]

/-- A transfer (R57). -/
theorem decodeMove_transfer {x : XUnit} {g : Guard} {dst : DstNum} {src : Src} (hd : dst.toNat < 826) (h : zeroMove g dst src = false) :
    decodeMove x.slot (mkMove g dst src) = .ok (.transfer x g dst src) := by
  rw [decodeMove_xfer x (mkMove_ne_of_zeroMove h), decodeX, if_neg (by omega), if_neg (by omega), if_pos hd]

/-! ### The V map (R63) -/

theorem decodeTrigger_v (v : VUnit) (op : Nat) (g : Guard) (src : Src) : decodeTrigger v.dom op g src = decodeV v op g src := by
  cases v <;> rfl

theorem decodeTrigger_c (u : CUnit) (op : Nat) (g : Guard) (src : Src) : decodeTrigger u.dom op g src = decodeC u op g src := by
  cases u <;> rfl

theorem ISfx.ofNum_num (f : ISfx) : ISfx.ofNum f.num = some f := by cases f <;> rfl
theorem FSfx.ofNum_num (f : FSfx) : FSfx.ofNum f.num = some f := by cases f <;> rfl
theorem QSfx.ofNum_num (f : QSfx) : QSfx.ofNum f.num = some f := by cases f <;> rfl
theorem ISfx.num_lt (f : ISfx) : f.num < 4 := by cases f <;> decide
theorem FSfx.num_lt (f : FSfx) : f.num < 4 := by cases f <;> decide
theorem QSfx.num_lt (f : QSfx) : f.num < 4 := by cases f <;> decide

/-- Suffix k of the block that begins at destination `base`. -/
theorem decodeMove_block {v : VUnit} {base k : Nat} {g : Guard} {src : Src} {i : Instr}
    (hb : 720 ≤ base ∧ base < 904 ∧ base % 4 = 0) (hk : k < 4) (hi : decodeVBlock v ((base - 720) / 4) k g src = some i) :
    decodeMove v.dom.slot (mkMove g (BitVec.ofNat 10 (base + k)) src) = .ok i := by
  rw [show base + k = base - 720 + k + 720 by omega]
  refine decodeMove_trigger (by omega) ?_
  rw [decodeTrigger_v, decodeV, if_pos (by omega), show (base - 720 + k) / 4 = (base - 720) / 4 by omega,
    show (base - 720 + k) % 4 = k by omega, hi]

/-! ### All moves -/

/-- The word of a well-formed move's fields decodes to it, in its slot: along the maps R55, R57, R62 to R65. -/
theorem decodeMove_of_moveFields {i : Instr} {sl : Slot} {g : Guard} {n : Nat} {src : Src} (hwf : i.wf = true)
    (hf : moveFields i = some (sl, g, n, src)) : decodeMove sl (mkMove g (BitVec.ofNat 10 n) src) = .ok i := by
  cases i <;> cases hf
  case nop => rfl
  case move d dst =>
    rw [BitVec.ofNat_toNat, BitVec.setWidth_eq]
    exact decodeMove_move hwf
  case transfer x dst =>
    obtain ⟨hd, hz⟩ := Bool.and_eq_true_iff.mp hwf
    rw [BitVec.ofNat_toNat, BitVec.setWidth_eq]
    exact decodeMove_transfer (of_decide_eq_true hd) (by simpa using hz)
  case o0Append | o1Append | rtWrite => exact decodeMove_port (by decide) rfl
  case mkWrite v => exact decodeMove_port (by decide) (by cases v <;> rfl)
  case dixWrite u | dwr u => exact decodeMove_port (by decide) (by cases u <;> rfl)
  case spx x | spd x => exact decodeMove_xfer x (mkMove_ne_of_pos (by decide) (by decide) g src)
  case sysResume =>
    have hsys := ne_true_of_eq_false (Bool.not_eq_true' _ ▸ hwf)
    exact decodeMove_trigger (d := .s) (by decide) (congrArg some (if_neg hsys))
  case sysAbort => exact decodeMove_trigger (d := .s) (by decide) (congrArg some (if_pos hwf))
  case vadd | vsub | vmul | vmulh | vmulhu | vmad | vmin | vmax | vminu | vmaxu | vand | vor | vxor | vandn | vshl | vshr | vsra | vabs
    | vneg | vclz | vpopc | vceq | vcne | vclt | vcle =>
    exact decodeMove_block (by decide) (ISfx.num_lt _) (congrArg (Option.map _) (ISfx.ofNum_num _))
  case fadd | fsub | fmul | ffma | fnma | fmin | fmax | fabs | fneg | frcp | frsq | fex2 | flg2 | fceq | fclt | fcle | funord =>
    exact decodeMove_block (by decide) (FSfx.num_lt _) (congrArg (Option.map _) (FSfx.ofNum_num _))
  case rsum | rmax | rmin | scan => exact decodeMove_block (by decide) (QSfx.num_lt _) (congrArg (Option.map _) (QSfx.ofNum_num _))
  case vsel | vmerge | cvt | qnt | dqt | vAmax | pack | unpack | vrot | vbcast | vext | vins | vld | vst | vlds | vsts | vgth | vsct | vsld
    | vsst | pload | pstore | pcomp | pinv | prand | pid | ppow | papply | pcyc | pfix | porder | mand | mor | mxor | mnot | mcnt | mfirst
    | radv | rpush | rbind | rlvl => exact decodeMove_trigger (by decide) ((decodeTrigger_v _ _ _ _).trans rfl)
  case mCall | mload | bload | bswap | accz | accrel | mstat => exact decodeMove_trigger (d := .m) (by decide) rfl
  case cpy | cpyp | gth | grd | sct | mcast | tatom | topk | cSub | unsub | stouch | spush | bclose | waitb | tstat | rtcfg | rtgo | rtstat
    | rtinv | rtfree | lsend | lrecv | lred | coll | pmget | pmret | arrive | expect | bwait | depset | depdec | drainC | drainD | drainP
    | drainF | fence | bkseg | bkwin | bklink | tsub | calq => exact decodeMove_trigger (by decide) ((decodeTrigger_c _ _ _ _).trans rfl)
  all_goals exact decodeMove_trigger (d := .s) (by decide) rfl

/-- The word of a well-formed move decodes to it, in its slot. -/
theorem decodeMove_of_encode {i : Instr} {sl : Slot} {w : BitVec 24} (hwf : i.wf = true) (he : encode i = some (sl, w)) :
    decodeMove sl w = .ok i := by
  obtain ⟨⟨sl, g, n, src⟩, hf, he⟩ := Option.map_eq_some_iff.mp he
  cases he
  exact decodeMove_of_moveFields hwf hf

/-! ### Bundles with one move (R45, R46, R69) -/

theorem Slot.num_lt (sl : Slot) : sl.num < 8 := by cases sl <;> decide

theorem Slot.getD_num (sl : Slot) : allSlots.getD sl.num .s = sl := by cases sl <;> rfl

theorem Slot.num_injective {sl sl' : Slot} (h : sl.num = sl'.num) : sl = sl' := by
  rw [← sl.getD_num, h, sl'.getD_num]

/-- A bundle with one word holds it in its slot, and zeros in the others, whatever its header. -/
theorem slotWord_bundleWith (h : W64) (sl sl' : Slot) (w : BitVec 24) :
    slotWord (bundleWith h sl w) sl' = if sl' = sl then w else 0#24 := by
  have hlt := sl'.num_lt
  apply BitVec.eq_of_getLsbD_eq
  intro i hi
  simp only [slotWord, bundleWith, BitVec.getLsbD_extractLsb', BitVec.getLsbD_or, BitVec.getLsbD_shiftLeft, BitVec.getLsbD_setWidth]
  rw [decide_eq_true (show 24 * sl'.num + i < 192 by omega)]
  by_cases heq : sl' = sl
  · subst heq
    simp [hi, show 24 * sl'.num + i < 256 by omega, show i < 256 by omega]
  · have hne : sl'.num ≠ sl.num := fun hn => heq (Slot.num_injective hn)
    rw [if_neg heq]
    by_cases hlow : 24 * sl'.num + i < 24 * sl.num
    · simp [hlow]
    · have hpast : w.getLsbD (24 * sl'.num + i - 24 * sl.num) = false := BitVec.getLsbD_of_ge _ _ (by omega)
      simp [hpast]

theorem decodeMove_bundleWith_other (h : W64) {sl sl' : Slot} (hne : sl' ≠ sl) (w : BitVec 24) :
    decodeMove sl' (slotWord (bundleWith h sl w) sl') = .ok .nop := by
  rw [slotWord_bundleWith, if_neg hne]; rfl

theorem decodeMove_bundleWith_same (h : W64) {i : Instr} {sl : Slot} {w : BitVec 24} (hwf : i.wf = true)
    (he : encode i = some (sl, w)) : decodeMove sl (slotWord (bundleWith h sl w) sl) = .ok i := by
  rw [slotWord_bundleWith, if_pos rfl, decodeMove_of_encode hwf he]

/-- A fold whose step does something at one element alone, which the list holds once, is that step. -/
theorem foldl_only {α β : Type} {f : β → α → β} {a : α} (hf : ∀ b x, x ≠ a → f b x = b) :
    ∀ {l : List α}, l.Nodup → a ∈ l → ∀ b, l.foldl f b = f b a
  | x :: l, hd, hm, b => by
    obtain ⟨hx, hd⟩ := List.nodup_cons.mp hd
    rw [List.foldl_cons]
    by_cases hxa : x = a
    · subst hxa
      exact List.foldlRecOn l f (motive := fun c => c = f b x) rfl fun c hc y hy => (hf c y fun h => hx (h ▸ hy)).trans hc
    · rw [hf b x hxa]
      exact foldl_only hf hd ((List.mem_cons.mp hm).resolve_left (Ne.symm hxa)) b

/-- Settles O8: the other slots hold the all-zero move, which changes nothing, and the one word decodes to its instruction. -/
theorem oneMoveBundle : Obligations.OneMoveBundle := by
  intro h i sl w s t hwf he hs ht
  have hs : (s.core.raised.isSome || s.core.held) = false := hs
  unfold State.execSlots State.runSlots
  rw [foldl_only (a := sl) ?other (by decide) (by cases sl <;> decide)]
  case other =>
    intro x sl' hne
    simp only [decodeMove_bundleWith_other h hne w]
    exact ite_self x
  simp only [hs, decodeMove_bundleWith_same h hwf he, ht]
  rfl

end Sys2Proof
end

section
/-! SUPPORT. The frame of all moves (R45): each shared shape of a move stages effects, or stops the bundle; of the state itself only
stream 0 of the generator (R82), the cycle that ticks have seen (R167) and the counter of free choices move. -/

namespace Sys2Proof.Machine

/-- `t` is `s` with more staged effects, after draws of stream 0, a tick, a free choice. -/
def Staged (s t : State) : Prop :=
  ∃ (es : List Eff) (gen : List (Nat × W64)) (n m : Nat),
    t = { s with core := { s.core with staged := s.core.staged ++ es, gen := gen }, fresh := n, sub := m } ∧
    (∀ j, j ≠ 0 → sget (seedStream 0 0 j) gen j = s.core.stream j)

/-- `t` is `s` with more staged effects, unless the move has raised or waits. -/
def OnlyStages (s t : State) : Prop := t.stopped = false → Staged s t

/-! ### What a move may do to the state before it stages -/

theorem staged_refl (s : State) : Staged s s :=
  ⟨[], s.core.gen, s.fresh, s.sub, by rw [List.append_nil], fun _ _ => rfl⟩

theorem staged_stage (s : State) (es : List Eff) : Staged s (s.stage es) := ⟨es, s.core.gen, s.fresh, s.sub, rfl, fun _ _ => rfl⟩

/-- A draw of stream 0 leaves the other streams alone (R82). -/
theorem staged_drew (s : State) (x : W64) : Staged s (s.drew x) := by
  refine ⟨[], (s.core.setStream 0 x).gen, s.fresh, s.sub, by rw [List.append_nil]; rfl, fun j hj => ?_⟩
  rw [CoreSt.stream, CoreSt.setStream, sget_eq_alook, sget_eq_alook, sset_eq]
  split
  · rw [alook_adel_other _ hj]
  · rw [alook_aput_other _ hj]

theorem staged_tickFresh (s : State) : Staged s s.tickFresh :=
  ⟨[], s.core.gen, s.fresh + 1, s.sub, by rw [List.append_nil]; rfl, fun _ _ => rfl⟩

/-- What a tick changes (R167). -/
theorem staged_tick (s : State) (n : Nat) : Staged s { s.tickFresh with sub := n } :=
  ⟨[], s.core.gen, s.fresh + 1, n, by rw [List.append_nil]; rfl, fun _ _ => rfl⟩

theorem Staged.trans {s t u : State} (hst : Staged s t) (htu : Staged t u) : Staged s u := by
  obtain ⟨es, gen, n, m, rfl, hgen⟩ := hst
  obtain ⟨es', gen', n', m', rfl, hgen'⟩ := htu
  exact ⟨es ++ es', gen', n', m', by simp only [List.append_assoc], fun j hj => (hgen' j hj).trans (hgen j hj)⟩

theorem Staged.onlyStages {s t u : State} (hst : Staged s t) (htu : OnlyStages t u) : OnlyStages s u :=
  fun hu => hst.trans (htu hu)

/-! ### The ends of a move: it does nothing, stages, raises, waits -/

theorem onlyStages_refl (s : State) : OnlyStages s s := fun _ => staged_refl s

theorem onlyStages_stage (s : State) (es : List Eff) : OnlyStages s (s.stage es) := fun _ => staged_stage s es

theorem onlyStages_of_stopped {s t : State} (h : t.stopped = true) : OnlyStages s t :=
  fun hf => absurd h (by rw [hf]; exact Bool.false_ne_true)

theorem State.raise_stopped (s : State) (f : FaultInfo) : (s.raise f).stopped = true := rfl

theorem State.holdMove_stopped (s : State) (unit : Nat) : (s.holdMove unit).stopped = true := by
  unfold State.holdMove
  split
  · exact State.raise_stopped _ _
  · exact Bool.or_true _

section shapes
variable {s t : State} {g : Guard} {src : Src}

theorem onlyStages_raiseIn {sl : Slot} {f : FaultInfo} : OnlyStages s (t.raiseIn sl f) := onlyStages_of_stopped (t.raise_stopped _)

theorem onlyStages_holdMove {unit : Nat} : OnlyStages s (t.holdMove unit) := onlyStages_of_stopped (t.holdMove_stopped unit)

theorem onlyStages_deliver {tr : Trig} {lat : Nat} {v : Val} {v2 : Option Val} {fl : Flags} {mem : Bool} {act : LandAct} {mask : Mask}
    {more : List Eff} : OnlyStages s (s.deliver tr lat v v2 fl mem act mask more) := onlyStages_stage s _

theorem onlyStages_effects {tr : Trig} {es : List Eff} : OnlyStages s (s.effects tr es) := onlyStages_stage s _

theorem onlyStages_ite {a b : State} {c : Prop} [Decidable c] (ha : OnlyStages s a) (hb : OnlyStages s b) :
    OnlyStages s (if c then a else b) := by
  split
  · exact ha
  · exact hb

/-- An operation that rejects some of what it samples. -/
theorem onlyStages_unless {b : State} {c : Prop} [Decidable c] {sl : Slot} {f : FaultInfo} (hb : OnlyStages s b) :
    OnlyStages s (if c then t.raiseIn sl f else b) := onlyStages_ite onlyStages_raiseIn hb

theorem onlyStages_stallIf {c : Bool} (ht : OnlyStages s t) : OnlyStages s (s.stallIf c t) := onlyStages_unless ht

/-! ### Sources, moves and transfers -/

theorem onlyStages_withSrc {sl : Slot} {vec : Bool} {k : Val → List Nat → State} (hk : ∀ v t, OnlyStages s (k v t)) :
    OnlyStages s (s.withSrc sl g src vec k) := by
  unfold State.withSrc
  refine onlyStages_ite (onlyStages_refl s) ?_
  split
  · exact onlyStages_raiseIn
  · split
    · exact hk _ _
    · exact onlyStages_raiseIn
    · exact onlyStages_holdMove

theorem onlyStages_moveInto {sl : Slot} {dst : Dst} : OnlyStages s (s.moveInto sl g dst src) :=
  onlyStages_withSrc fun _ _ => by
    split
    · split <;> exact onlyStages_stage s _
    · exact onlyStages_raiseIn
    · exact onlyStages_holdMove

theorem onlyStages_transferInto {sl : Slot} {dst : Dst} : OnlyStages s (s.transferInto sl g dst src) :=
  onlyStages_withSrc fun _ _ => by
    split
    · dsimp only
      split <;> exact onlyStages_stage s _
    · exact onlyStages_raiseIn
    · exact onlyStages_holdMove

/-! ### Triggers -/

theorem onlyStages_trigger {d : Dom} {reads : Nat} {lat : Option Nat} {k : Trig → State} (hk : ∀ tr, OnlyStages s (k tr)) :
    OnlyStages s (s.trigger d g src reads lat k) :=
  onlyStages_withSrc fun _ _ => by
    split
    · exact hk _
    · refine onlyStages_unless ?_
      split
      · exact hk _
      · exact onlyStages_raiseIn
      · exact onlyStages_holdMove

theorem onlyStages_scalar1 {lat : Nat} {f : W64 → W64} : OnlyStages s (s.scalar1 g src lat f) :=
  onlyStages_trigger fun _ => onlyStages_deliver

theorem onlyStages_scalar2 {lat : Nat} {f : W64 → W64 → W64} : OnlyStages s (s.scalar2 g src lat f) :=
  onlyStages_trigger fun _ => onlyStages_deliver

theorem onlyStages_scalar3 {lat : Nat} {f : W64 → W64 → W64 → W64} : OnlyStages s (s.scalar3 g src lat f) :=
  onlyStages_trigger fun _ => onlyStages_deliver

theorem onlyStages_division {f : W64 → W64 → W64} : OnlyStages s (s.division g src f) :=
  onlyStages_trigger fun _ => onlyStages_unless onlyStages_deliver

/-- An access raises, waits, or goes on to what its operation stages (R121, R155). -/
theorem onlyStages_access {r : Rd} {sl : Slot} {unit : Nat} {k : Val → List Nat → State} (hk : ∀ v t, OnlyStages s (k v t)) :
    OnlyStages s (match r with
      | .fault f => s.raiseIn sl f
      | .hold => s.holdMove unit
      | .val v t => k v t) := by
  cases r with
  | val v t => exact hk v t
  | fault f => exact onlyStages_raiseIn
  | hold => exact onlyStages_holdMove

theorem onlyStages_loadS {n : Nat} {signed : Bool} : OnlyStages s (s.loadS g src n signed) :=
  onlyStages_trigger fun _ => onlyStages_access fun _ _ => onlyStages_deliver

theorem onlyStages_storeS {n : Nat} : OnlyStages s (s.storeS g src n) :=
  onlyStages_trigger fun _ => onlyStages_access fun _ _ => onlyStages_effects

theorem onlyStages_atomicS {reads : Nat} {f : W64 → W64 → W64 → W64} : OnlyStages s (s.atomicS g src reads f) :=
  onlyStages_trigger fun _ => onlyStages_access fun _ _ => onlyStages_deliver

theorem onlyStages_branchTo {tr : Trig} {target : Int} {more : List Eff} : OnlyStages s (s.branchTo tr target more) :=
  onlyStages_ite onlyStages_effects onlyStages_raiseIn

theorem onlyStages_sysRequest : OnlyStages s (s.sysRequest g src) := onlyStages_trigger fun _ => onlyStages_deliver

/-! ### Lanes, permutations and masks -/

variable {v : VUnit}

theorem onlyStages_laneI {f : ISfx} {reads : Nat} {op : Nat → Nat → Nat → Nat → Nat} : OnlyStages s (s.laneI v f g src reads op) :=
  onlyStages_trigger fun _ => onlyStages_deliver

theorem onlyStages_laneF {f : FSfx} {reads lat : Nat} {op : FP → RM → Nat → Nat → Nat → Nat × Flags} :
    OnlyStages s (s.laneF v f g src reads lat op) := onlyStages_trigger fun _ => onlyStages_deliver

theorem onlyStages_vLoad {lat : Nat} {off : Trig → Nat → Nat} : OnlyStages s (s.vLoad v g src lat off) :=
  onlyStages_trigger fun _ => onlyStages_access fun _ _ => onlyStages_deliver

theorem onlyStages_vStore {perf : Nat} {off : Trig → Nat → Nat} : OnlyStages s (s.vStore v g src perf off) :=
  onlyStages_trigger fun _ => onlyStages_access fun _ _ => onlyStages_effects

theorem onlyStages_permWrite {tr : Trig} {lat pd : Nat} {p : List Nat} {solve : Bool} :
    OnlyStages s (s.permWrite v tr lat pd p solve) := onlyStages_effects

theorem onlyStages_maskOp {f : Mask → Mask → Mask} : OnlyStages s (s.maskOp v g src f) := onlyStages_trigger fun _ => onlyStages_effects

theorem onlyStages_allLanesOf {tr : Trig} {lat n : Nat} {n2 : Option Nat} : OnlyStages s (s.allLanesOf tr lat n n2) := onlyStages_deliver

/-! ### Commands -/

variable {u : CUnit} {op : Nat}

theorem onlyStages_mTrigger {reads : Nat} {kind : MKind} {bad : MCmd → Option Cause} : OnlyStages s (s.mTrigger g src reads kind bad) :=
  onlyStages_trigger fun _ => by
    dsimp only
    split
    · exact onlyStages_raiseIn
    · exact onlyStages_ite onlyStages_holdMove onlyStages_effects

theorem onlyStages_command {use : CmdUse} {bad : Cmd → Bool} {more : Cmd → List Eff} {fill : Cmd → Cmd} {reads : Nat}
    {stall : Cmd → Bool} : OnlyStages s (s.command u g src op use bad more fill reads stall) :=
  onlyStages_trigger fun _ => onlyStages_unless <| onlyStages_unless <| onlyStages_ite onlyStages_holdMove onlyStages_effects

theorem onlyStages_linkCmd : OnlyStages s (s.linkCmd u g src op) :=
  onlyStages_trigger fun _ => onlyStages_unless <| by
    split
    · exact onlyStages_raiseIn
    · exact onlyStages_ite onlyStages_holdMove onlyStages_effects

end shapes

/-! ### All moves -/

/-- The move answers a next state, in which it has staged effects, or stopped. -/
def MoveStages (i : Instr) (s : State) : Prop := ∃ t, exec i s = .next t ∧ OnlyStages s t

section meanings
variable (s : State) (g : Guard) (src : Src)

theorem moveStages_move (d : Dom) (dst : DstNum) : MoveStages (.move d g dst src) s := by
  show ∃ t, execMove d g dst src s = .next t ∧ _
  unfold execMove
  split
  · exact ⟨_, rfl, onlyStages_moveInto⟩
  · exact ⟨_, rfl, onlyStages_raiseIn⟩

theorem moveStages_transfer (x : XUnit) (dst : DstNum) : MoveStages (.transfer x g dst src) s := by
  show ∃ t, execTransfer x g dst src s = .next t ∧ _
  unfold execTransfer
  split
  · exact ⟨_, rfl, onlyStages_transferInto⟩
  · exact ⟨_, rfl, onlyStages_raiseIn⟩

/-- swr of a register that takes a write stages it (R166). -/
theorem moveStages_swr : MoveStages (.swr g src) s :=
  ⟨_, rfl, onlyStages_trigger fun _ => by
    split
    · exact onlyStages_effects
    · exact onlyStages_effects
    · exact onlyStages_raiseIn⟩

/-- The segment that salloc makes stands only in what it stages (R125). -/
theorem moveStages_salloc : MoveStages (.salloc g src) s :=
  ⟨_, rfl, onlyStages_trigger fun _ => onlyStages_stallIf <| by
    dsimp only
    split
    · exact onlyStages_raiseIn
    · exact onlyStages_deliver
    · exact onlyStages_deliver⟩

theorem moveStages_pload (v : VUnit) : MoveStages (.pload v g src) s :=
  ⟨_, rfl, onlyStages_trigger fun _ => by
    dsimp only
    split
    · exact onlyStages_raiseIn
    · exact onlyStages_permWrite⟩

theorem moveStages_mstat : MoveStages (.mstat g src) s :=
  ⟨_, rfl, onlyStages_trigger fun _ => by
    dsimp only
    split
    · exact onlyStages_deliver
    · exact onlyStages_raiseIn⟩

end meanings

/-- Every row that is a move stages effects, or stops its bundle. -/
theorem moveStages_of_isMove {i : Instr} (hi : isMove i = true) (s : State) : MoveStages i s := by
  cases i
  case nop => exact ⟨s, rfl, onlyStages_refl s⟩
  case move => exact moveStages_move s _ _ _ _
  case transfer => exact moveStages_transfer s _ _ _ _
  case o0Append | o1Append | rtWrite | mkWrite | dixWrite | dwr => exact ⟨_, rfl, onlyStages_moveInto⟩
  case spx | spd => exact ⟨_, rfl, onlyStages_transferInto⟩
  case clz | ctz | popc | sext8 | sext16 | sext32 | zext8 | zext16 | zext32 | pass | sld => exact ⟨_, rfl, onlyStages_scalar1⟩
  case add | sub | mul | mulh | mulhu | and | or | xor | andn | orn | shl | shr | sra | rol | min | max | minu | maxu | bfx | ceq | cne
    | clt | cltu | cle | cleu => exact ⟨_, rfl, onlyStages_scalar2⟩
  case bfi | sel => exact ⟨_, rfl, onlyStages_scalar3⟩
  case div | divu | rem | remu => exact ⟨_, rfl, onlyStages_division⟩
  case ld8 | ld16 | ld32 | ld64 | ld8s | ld16s | ld32s => exact ⟨_, rfl, onlyStages_loadS⟩
  case st8 | st16 | st32 | st64 => exact ⟨_, rfl, onlyStages_storeS⟩
  case aadd | aand | aor | axor | amin | amax | aminu | amaxu | axchg | acas => exact ⟨_, rfl, onlyStages_atomicS⟩
  case br | bra | ret => exact ⟨_, rfl, onlyStages_trigger fun _ => onlyStages_branchTo⟩
  case call => exact ⟨_, rfl, onlyStages_trigger fun _ => onlyStages_unless onlyStages_branchTo⟩
  case sysResume | sysAbort => exact ⟨_, rfl, onlyStages_sysRequest⟩
  case trap | halt | sst | vsst => exact ⟨_, rfl, onlyStages_trigger fun _ => onlyStages_effects⟩
  case nset | nstep | nbrk | radv | rpush | rbind => exact ⟨_, rfl, onlyStages_trigger fun _ => onlyStages_unless onlyStages_effects⟩
  case srd | enrd =>
    refine ⟨_, rfl, onlyStages_trigger fun _ => ?_⟩
    split
    · exact onlyStages_deliver
    · exact onlyStages_raiseIn
  case swr => exact moveStages_swr s _ _
  case tick => exact ⟨_, rfl, onlyStages_trigger fun _ => (staged_tick s _).onlyStages onlyStages_deliver⟩
  case nxt => exact ⟨_, rfl, onlyStages_trigger fun _ => onlyStages_stallIf (onlyStages_unless onlyStages_effects)⟩
  case post => exact ⟨_, rfl, onlyStages_trigger fun _ => onlyStages_stallIf (onlyStages_access fun _ _ => onlyStages_deliver)⟩
  case salloc => exact moveStages_salloc s _ _
  case sfree => exact ⟨_, rfl, onlyStages_trigger fun _ => onlyStages_stallIf (onlyStages_unless onlyStages_deliver)⟩
  case sstat | rsum | rmax | rmin | scan | vsel | vmerge | vrot | vbcast | vext | vins | vsld | pstore | papply | pfix | tstat | rtstat =>
    exact ⟨_, rfl, onlyStages_trigger fun _ => onlyStages_deliver⟩
  case vadd | vsub | vmul | vmulh | vmulhu | vmad | vmin | vmax | vminu | vmaxu | vand | vor | vxor | vandn | vshl | vshr | vsra | vabs
    | vneg | vclz | vpopc | vceq | vcne | vclt | vcle => exact ⟨_, rfl, onlyStages_laneI⟩
  case fadd | fsub | fmul | ffma | fnma | fmin | fmax | fabs | fneg | frcp | frsq | fex2 | flg2 | fceq | fclt | fcle | funord =>
    exact ⟨_, rfl, onlyStages_laneF⟩
  case cvt | qnt => exact ⟨_, rfl, onlyStages_trigger fun _ => onlyStages_unless ((staged_drew s _).onlyStages onlyStages_deliver)⟩
  case vAmax => exact ⟨_, rfl, onlyStages_trigger fun _ => onlyStages_unless onlyStages_deliver⟩
  case dqt | pack | unpack => exact ⟨_, rfl, onlyStages_trigger fun _ => onlyStages_ite onlyStages_deliver onlyStages_raiseIn⟩
  case vld | vlds | vgth => exact ⟨_, rfl, onlyStages_vLoad⟩
  case vst | vsts | vsct => exact ⟨_, rfl, onlyStages_vStore⟩
  case pload => exact moveStages_pload s _ _ _
  case pcomp | pinv | pid | ppow => exact ⟨_, rfl, onlyStages_trigger fun _ => onlyStages_permWrite⟩
  case prand => exact ⟨_, rfl, onlyStages_trigger fun _ => (staged_drew s _).onlyStages onlyStages_permWrite⟩
  case pcyc | porder | mcnt | mfirst | rlvl => exact ⟨_, rfl, onlyStages_trigger fun _ => onlyStages_allLanesOf⟩
  case mand | mor | mxor | mnot => exact ⟨_, rfl, onlyStages_maskOp⟩
  case mCall | mload | bload | bswap | accz | accrel => exact ⟨_, rfl, onlyStages_mTrigger⟩
  case mstat => exact moveStages_mstat s _ _
  case cpy | cpyp | gth | grd | sct | mcast | tatom | topk | cSub | unsub | stouch | spush | rtcfg | rtgo | rtinv | rtfree | coll | pmret
    | arrive | expect | bwait | depset | depdec | drainC | drainD | drainP | drainF | fence | bkseg | bkwin | bklink | tsub =>
    exact ⟨_, rfl, onlyStages_command⟩
  case lsend | lrecv | lred => exact ⟨_, rfl, onlyStages_linkCmd⟩
  case bclose => exact ⟨_, rfl, onlyStages_trigger fun _ => onlyStages_ite onlyStages_holdMove onlyStages_effects⟩
  case waitb =>
    exact ⟨_, rfl, onlyStages_trigger fun _ => onlyStages_unless (onlyStages_ite onlyStages_holdMove onlyStages_effects)⟩
  case pmget =>
    exact ⟨_, rfl, onlyStages_trigger fun _ => onlyStages_unless (onlyStages_ite onlyStages_holdMove onlyStages_deliver)⟩
  case calq => exact ⟨_, rfl, onlyStages_trigger fun _ => onlyStages_unless ((staged_tickFresh s).onlyStages onlyStages_deliver)⟩
  all_goals exact Bool.noConfusion hi

/-- Settles O11: what each move answers is what it has staged, unless it stops. -/
theorem movesStage : Obligations.MovesStage := by
  intro i s t hi _ _ he ht
  obtain ⟨t', he', hstages⟩ := moveStages_of_isMove hi s
  cases he.symm.trans he'
  exact hstages ht

end Sys2Proof.Machine
end
